-- ==== Sys2Proof/Word.lean ====
section
/-! DEFINITION. The word types of the machine (R4, R5, R24), the plain-data maps that hold registers and memory, and the
records that reach the package from outside: packets, link flits, host requests, images. -/

namespace Sys2Proof

/-- A 32-bit word: a scalar register, a slot of a bundle, a memory word (R8, R24). -/
abbrev Word := BitVec 32

/-- A byte of memory (R5). -/
abbrev Byte := BitVec 8

/-- A vector register: lane `i` is bits `[32i+31:32i]` (R31, LANE). -/
abbrev VReg := BitVec 2048

/-- A predicate register: bit `i` belongs to lane `i` (R4). -/
abbrev PReg := BitVec 64

/-- The 64 bytes of a block (R4). -/
abbrev Block := BitVec 512

/-- A block descriptor (R55). -/
abbrev Desc := BitVec 16

/-- A keep-mask entry of a compressed block (R61). -/
abbrev Mask := BitVec 128

/-- The six VFLAGS bits, NV at bit 0 up to NF at bit 5 (R43). -/
abbrev Flags := BitVec 6

/-- A map held as plain data: pairs of key and value, keys strictly rising, no value equal to what an
unlisted key reads as. `Sys2Proof/Machine/Sparse.lean` reads and writes it. -/
abbrev Sparse (α : Type) := List (Nat × α)

/-- A packet of the Ebram fabric: the fields of the head body (R304), the kind-specific fields (R305) and the
payload. Fields that a kind does not use are zero. `ts` is in no flit: the timestamp that a message inside the package brings to
its receipt (R252). -/
structure Packet where
  drank : Nat := 0
  srank : Nat := 0
  part : Nat := 0
  kind : Nat := 0
  addr : Nat := 0
  arg : Word := 0
  tag : Nat := 0
  posChan : Nat := 0
  posSeq : Nat := 0
  posLevel : Nat := 0
  posLeft : Nat := 0
  posOff : Nat := 0
  wfl : Nat := 0
  atop : Nat := 0
  gang : Nat := 0
  desc : List Desc := []
  nkind : Nat := 0
  chan : Nat := 0
  score : Nat := 0
  dcore : Nat := 0
  share : Nat := 0
  opc : Nat := 0
  top : Nat := 0
  count : Nat := 0
  rows : Nat := 0
  root : Nat := 0
  gsz : Nat := 0
  msg : Nat := 0
  row : Nat := 0
  attempt : Nat := 0
  round : Nat := 0
  coord : Nat := 0
  reason : Nat := 0
  argq : Nat := 0
  ts : Nat := 0
  payload : List Byte := []
  deriving DecidableEq, Repr

/-- A link flit: a 64-byte body and the 64-bit header that follows it (R303). -/
structure Flit where
  body : List Byte
  hdr : BitVec 64
  deriving DecidableEq, Repr

/-- What every host request names: endpoint, queue pair, R-key and address (R353, R354). -/
structure HostReq where
  ep : Nat
  qp : Nat
  rkey : Nat
  va : Nat
  deriving DecidableEq, Repr

/-- One 64-byte block of an image's data section, with its descriptor (R38, R366). -/
structure DataBlock where
  data : Block
  desc : Desc
  deriving DecidableEq, Repr

/-- An image as registered in a partition's image table (R366), with the parts of the image file that a launch
reads: calendar entries (R301), channel entries (R314) and the scale tables of its kernels (R36, R62). -/
structure Image where
  id : Nat
  valid : Bool
  slots : BitVec 64
  textVa : Nat
  textLen : Nat
  dataVa : Nat
  dataLen : Nat
  textHash : Nat
  dataHash : Nat
  calendar : List (Word × Word)
  channels : List (Nat × Word × Word)
  scales : List (Nat × List Word)
  deriving DecidableEq, Repr

/-- Where an uncorrectable error strikes (R361). -/
inductive ErrSite where
  | mem (pa : Nat)
  | dieStore (pa : Nat)
  | l1 (core pa : Nat)
  | spad (core off : Nat)
  | tile (core n : Nat)
  | slab (core n : Nat)
  | scalar (core n : Nat)
  | pred (core n : Nat)
  | vector (core n : Nat)
  | result (core n : Nat)
  | switchBuf (l k : Nat)
  deriving DecidableEq, Repr

/-- The operands of the step of the device being taken. The table gives these steps no fields: which unit takes the
step, and what arrives from outside, stand here. `c` is a physical core, `k` and `j` an entry of one of its buffers,
`p` a partition, `s` a context slot, `l` a link, `n`, `v` and `w` numbers that the step's meaning names. -/
structure Stim where
  c : Nat := 0
  k : Nat := 0
  j : Nat := 0
  p : Nat := 0
  s : Nat := 0
  l : Nat := 0
  n : Nat := 0
  v : Nat := 0
  w : Nat := 0
  m : Packet := {}
  fs : List Flit := []
  rq : HostReq := { ep := 0, qp := 0, rkey := 0, va := 0 }
  data : List Byte := []
  cs : List Nat := []
  img : Option Image := none
  blocks : List DataBlock := []
  err : ErrSite := .mem 0
  deriving DecidableEq, Repr

end Sys2Proof
end

