-- ==== Sys2Proof/Config.lean ====
section
/-! DEFINITION. What the spec leaves open and the model does not fix: constants without a body, so that no proof can
see a value. Each is applied to the model's counter of free choices, or to the operands it depends on. -/

namespace Sys2Proof.Config

/-- Which of `n` enabled steps of the device happens next, at the given count of choices (log entry 3). -/
opaque pick : Nat → Nat → Nat

/-- Whether an access in the other view sees the later write, where no VJOIN orders the two (R257, log entry 4). -/
opaque seesNew : Nat → Bool

/-- The value and flags of an element of a described load whose block was rewritten, between its checks and its service, with a
descriptor that does not fit its run: by the width of the run, the descriptor and the element's bits (R145, log entry 118). -/
opaque openElem : Nat → Nat → Nat → Word × Flags

/-- EVAL where an address check fails while the offset of a queued access is pending, by the pair of its address (R132, log entry
119). -/
opaque openEval : Nat → Word

/-- Which line an L1 evicts, of the number it holds (R244, log entry 5). -/
opaque evict : Nat → Nat → Nat

/-- Whether an access between a change of a page table entry and the completion of its invalidation uses a cached
translation or walks anew (R242, log entry 6). -/
opaque usesCached : Nat → Bool

/-- The outgoing and the incoming gang of another package at the boundary before a row: its pod id, the partition, the round and
the row. The device knows no column but its own (R337, log entry 16). -/
opaque column : Nat → Nat → Nat → Nat → Nat × Nat

/-- The pod ids of the packages that hold a rank of a gang that has no context here (R337, log entry 16). -/
opaque gangPods : Nat → Nat → List Nat

/-- The core beside whose router an address of a partition is homed: the place of the die store banks and the HBM controllers in the
mesh (R297, log entry 53). -/
opaque bank : Nat → Nat

/-- The digest that an attestation report holds of a table's bytes (R365, log entry 7). -/
opaque digest : List Byte → Nat

/-- The digest of the firmware (R365, log entry 7). -/
opaque firmwareDigest : Nat

/-- The device serial number (R365, log entry 7). -/
opaque serial : Nat

/-- The signature of an attestation report (R365, log entry 7). -/
opaque signature : List Byte → List Nat → Nat

/-- Whether the boot ROM accepts the firmware (R365, log entry 8). -/
opaque firmwareValid : Bool

end Sys2Proof.Config
end

