-- ==== Sys2Proof/Syntax.lean ====
section
/-! DEFINITION. The syntax of the machine: one constructor of `Instr` per row of the opcode table. A row with an
encoding is a slot operation or one of the two header bits. A row without one is a step of the device; the table gives
it no fields, and its operands are the `Stim` of the state that takes it. The rows with fields stand first, as Lean's
compiler numbers constructors with fields up to 244. -/

namespace Sys2Proof

/-- The operations of the slots, the two header bits, and the steps of the device. In the slot operations `g` is the
guard predicate (R13), `vj` the VJOIN bit of a header with END (R10), `d`, `a`, `b` the register fields as written, `k` an immediate and `o` an offset. -/
inductive Instr where
  | endB (vj : Bool)
  | add (g d a b : Nat)
  | sub (g d a b : Nat)
  | and (g d a b : Nat)
  | or (g d a b : Nat)
  | xor (g d a b : Nat)
  | andn (g d a b : Nat)
  | shl (g d a b : Nat)
  | shr (g d a b : Nat)
  | sar (g d a b : Nat)
  | rotr (g d a b : Nat)
  | slt (g d a b : Nat)
  | sltu (g d a b : Nat)
  | seq (g d a b : Nat)
  | sne (g d a b : Nat)
  | min (g d a b : Nat)
  | max (g d a b : Nat)
  | minu (g d a b : Nat)
  | maxu (g d a b : Nat)
  | mul (g d a b : Nat)
  | mulh (g d a b : Nat)
  | mulhu (g d a b : Nat)
  | div (g d a b : Nat)
  | divu (g d a b : Nat)
  | rem (g d a b : Nat)
  | remu (g d a b : Nat)
  | clz (g d a : Nat)
  | ctz (g d a : Nat)
  | popc (g d a : Nat)
  | sel (g d a b : Nat)
  | bfx (g d a b : Nat)
  | bfi (g d a b : Nat)
  | addi (g d a : Nat) (k : Int)
  | andi (g d a : Nat) (k : Int)
  | ori (g d a : Nat) (k : Int)
  | xori (g d a : Nat) (k : Int)
  | shli (g d a : Nat) (k : Int)
  | shri (g d a : Nat) (k : Int)
  | sari (g d a : Nat) (k : Int)
  | slti (g d a : Nat) (k : Int)
  | sltui (g d a : Nat) (k : Int)
  | seqi (g d a : Nat) (k : Int)
  | mini (g d a : Nat) (k : Int)
  | maxi (g d a : Nat) (k : Int)
  | muli (g d a : Nat) (k : Int)
  | li (g d : Nat) (k : Int)
  | lhi (g d i : Nat)
  | lpc (g d : Nat) (k : Int)
  | br (g a : Nat) (o : Int)
  | brn (g a : Nat) (o : Int)
  | bz (g a : Nat) (o : Int)
  | bnz (g a : Nat) (o : Int)
  | jmp (g : Nat) (o : Int)
  | call (g : Nat) (o : Int)
  | jr (g a : Nat) (o : Int)
  | calr (g a : Nat) (o : Int)
  | brlc (g : Nat) (o : Int)
  | loops (g a e : Nat)
  | ldW (g d a : Nat) (k : Int)
  | ldH (g d a : Nat) (k : Int)
  | ldHu (g d a : Nat) (k : Int)
  | ldB (g d a : Nat) (k : Int)
  | ldBu (g d a : Nat) (k : Int)
  | stW (g d a : Nat) (k : Int)
  | stH (g d a : Nat) (k : Int)
  | stB (g d a : Nat) (k : Int)
  | ldf (g d a : Nat) (k : Int)
  | ldfe (g d a : Nat) (k : Int)
  | stef (g d a : Nat) (k : Int)
  | stf (g d a : Nat) (k : Int)
  | clrf (g a : Nat) (k : Int)
  | csrr (g d c : Nat)
  | csrw (g d c : Nat)
  | csrs (g d c : Nat)
  | csrc (g d c : Nat)
  | trap (g d k : Nat)
  | eret (g : Nat)
  | wait (g ql qs cp tl : Nat)
  | twait (g m : Nat)
  | gjoin (g n : Nat)
  | gleave (g n : Nat)
  | gsync (g n : Nat)
  | fold (g : Nat)
  | tdom (g d s : Nat)
  | tbud (g d s : Nat)
  | snapr (g d a b : Nat)
  | snapw (g d a b : Nat)
  | tlook (g d a b : Nat)
  | tins (g d a b : Nat)
  | tinvVa (g a b : Nat)
  | tinvEntry (g d : Nat)
  | pand (g d a b : Nat)
  | por (g d a b : Nat)
  | pxor (g d a b : Nat)
  | pandn (g d a b : Nat)
  | pnez (g d a : Nat)
  | pget (g d a h : Nat)
  | pput (g d a h : Nat)
  | pcnt (g d a : Nat)
  | pfirst (g d a : Nat)
  | rtime (g d s : Nat)
  | vaddF (g d a b : Nat)
  | vsubF (g d a b : Nat)
  | vmulF (g d a b : Nat)
  | vfmaF (g d a b : Nat)
  | vfmsF (g d a b : Nat)
  | vfnmaF (g d a b : Nat)
  | vminF (g d a b : Nat)
  | vmaxF (g d a b : Nat)
  | vabsF (g d a : Nat)
  | vnegF (g d a : Nat)
  | vdivF (g d a b : Nat)
  | vsqrtF (g d a : Nat)
  | vrsqrtF (g d a : Nat)
  | vrcpF (g d a : Nat)
  | vexp2F (g d a : Nat)
  | vlog2F (g d a : Nat)
  | vfeq (g d a b : Nat)
  | vfne (g d a b : Nat)
  | vflt (g d a b : Nat)
  | vfle (g d a b : Nat)
  | vfun (g d a b : Nat)
  | vsel (g d a b : Nat)
  | vsumF (g d a : Nat)
  | vmaxrF (g d a : Nat)
  | vminrF (g d a : Nat)
  | vroundF (g d a : Nat)
  | vtruncF (g d a : Nat)
  | vaddI (g d a b : Nat)
  | vsubI (g d a b : Nat)
  | vmulI (g d a b : Nat)
  | vmulhI (g d a b : Nat)
  | vand (g d a b : Nat)
  | vor (g d a b : Nat)
  | vxor (g d a b : Nat)
  | vshl (g d a b : Nat)
  | vshr (g d a b : Nat)
  | vsar (g d a b : Nat)
  | vminI (g d a b : Nat)
  | vmaxI (g d a b : Nat)
  | vminuI (g d a b : Nat)
  | vmaxuI (g d a b : Nat)
  | vieq (g d a b : Nat)
  | vilt (g d a b : Nat)
  | viltu (g d a b : Nat)
  | vsumI (g d a : Nat)
  | vbcast (g d a : Nat)
  | vgetl (g d a b : Nat)
  | vsetl (g d a b : Nat)
  | vperm (g d a b : Nat)
  | vrot (g d a b : Nat)
  | vid (g d : Nat)
  | vcvtFi (g d a : Nat)
  | vcvtIf (g d a : Nat)
  | vtruncI (g d a : Nat)
  | vpackBf (g d a part k : Nat)
  | vpackH (g d a part k : Nat)
  | vpackD8 (g d a part k : Nat)
  | vpackI8 (g d a part k : Nat)
  | vunpkBf (g d a part : Nat)
  | vunpkH (g d a part : Nat)
  | vunpkD8 (g d a part : Nat)
  | vunpkI8 (g d a part : Nat)
  | vld (g v a : Nat) (k : Int)
  | vst (g v a : Nat) (k : Int)
  | vlds (g v a b : Nat)
  | vsts (g v a b : Nat)
  | vldx (g v a b : Nat)
  | vstx (g v a b : Nat)
  | vldf (g v a : Nat) (k : Int)
  | vstf (g v a : Nat) (k : Int)
  | vqld (g a : Nat) (k : Int)
  | vqst (g v a : Nat) (k : Int)
  | vldd (g v a : Nat) (k : Int)
  | vstd (g v a b : Nat)
  | vprn24 (g v a b : Nat)
  | vprn48 (g v a b : Nat)
  | vsdot (g v a b : Nat)
  | vexpd (g v a : Nat)
  | vdot4I8 (g v a b : Nat)
  | vdot2Bf (g v a b : Nat)
  | nset (g s a : Nat)
  | nseti (g s : Nat) (k : Int)
  | ngo (g : Nat)
  | nstop (g l : Nat)
  | cseq (g a : Nat)
  | mscl (g a : Nat)
  | tzero (g t n m : Nat)
  | tout (g t a b : Nat)
  | tin (g t a b : Nat)
  | tacc (g t a b : Nat)
  | tmov (g t s : Nat)
  | wbld (g b a u : Nat)
  | wprn24 (g b s : Nat)
  | wprn48 (g b s : Nat)
  | tmma (g t s a : Nat)
  | ccp (g t fl a b : Nat)
  | cnd (g t fl a b : Nat)
  | cgat (g t fl a b : Nat)
  | csct (g t fl a b : Nat)
  | cwb (g t fl a b : Nat)
  | cfill (g t fl a b : Nat)
  | cred (g t fl a b : Nat)
  | csig (g t fl a b : Nat)
  | chbind (g d c : Nat)
  | chbindUnbind (g d : Nat)
  | csnd (g c a : Nat)
  | crcv (g d c : Nat)
  | crad (g d c : Nat)
  | fld (g a : Nat)
  | fst (g a b : Nat)
  | famoAdd (g a b : Nat)
  | famoMax (g a b : Nat)
  | famoOr (g a b : Nat)
  | famoSwap (g a b : Nat)
  | xar (g t fl a b : Nat)
  | xrs (g t fl a b : Nat)
  | xag (g t fl a b : Nat)
  | xbc (g t fl a b : Nat)
  | xmrg (g t fl a b : Nat)
  | xred (g t fl a b : Nat)
  | xbar (g t fl a b : Nat)
  | qldW (g a b : Nat)
  | qldH (g a b : Nat)
  | qldB (g a b : Nat)
  | qstW (g d a b : Nat)
  | qstH (g d a b : Nat)
  | qstB (g d a b : Nat)
  | amoAdd (g a b : Nat)
  | amoAnd (g a b : Nat)
  | amoOr (g a b : Nat)
  | amoXor (g a b : Nat)
  | amoMin (g a b : Nat)
  | amoMax (g a b : Nat)
  | amoMinu (g a b : Nat)
  | amoMaxu (g a b : Nat)
  | amoSwap (g a b : Nat)
  | amoCas (g d a b : Nat)
  | rwlRd (g a : Nat)
  | rwlWr (g a : Nat)
  | rwlRu (g a : Nat)
  | rwlWu (g a : Nat)
  | waita (g a b : Nat)
  | waitc (g a b : Nat)
  | nop
  | vjoin
  | asyncFaultDelivery
  | resultLanding
  | slipService
  | translationAnswer
  | overlayFill
  | holdExpiry
  | cycleAllowanceExpiry
  | gsyncLineGrant
  | gsyncEpisodeComplete
  | rebase
  | rebaseDone
  | queuedAccessAtHome
  | queuedResultReturn
  | queuedStorePerformed
  | mOpStart
  | passStart
  | passLanding
  | tileRowTransfer
  | mOpComplete
  | commandStart
  | workSteal
  | commandBlockStep
  | commandComplete
  | channelMessageArrival
  | channelCreditReturn
  | heldRelease
  | coreFreed
  | arm
  | launchAccept
  | nodeArrival
  | taskDispatch
  | taskAging
  | preemptionSaved
  | foldComplete
  | foldCleanupDone
  | endDetectionSample
  | hangWatchdogExpiry
  | meshFlitHop
  | calendarOwnershipChange
  | ucieAdapterForward
  | linkPacketSend
  | linkPacketReceive
  | ack
  | nak
  | ackTimerExpiry
  | replayTimeout
  | laneFailure
  | retrainDone
  | trainingRetry
  | remoteWrite
  | readRequest
  | readResponse
  | atomicRequest
  | atomicResponse
  | writeDone
  | negativeAcknowledgement
  | collectiveContribution
  | reductionSlotExpiry
  | collectiveResult
  | mismatchNotice
  | generationFlip
  | oldGenerationCount
  | time
  | rotaBoundary
  | rotaColumnApply
  | prepare
  | ready
  | refuse
  | sample
  | counts
  | capture
  | commit
  | abort
  | done
  | kfull
  | voteReplyTimeout
  | sampleTimer
  | drainTimeout
  | captureTimeout
  | voteRetry
  | kennelReinject
  | exchangeComplete
  | coreset
  | shrink
  | shrinkComplete
  | shrinkHandlerTimeout
  | teardown
  | rdmaWrite
  | rdmaRead
  | atomicCmpSwap
  | atomicFetchAdd
  | unsupportedRequest
  | hostSignalPost
  | inval
  | invalidationComplete
  | ovlflush
  | drainmax
  | routeTableWrite
  | attest
  | hubRegisterWrite
  | imageRegistration
  | singleBitError
  | uncorrectableError
  | packageReset
  | selfTestPass
  | thermalTrip
  | lstatGoodWrite
  | vcCreditReturn
  deriving DecidableEq, Repr

end Sys2Proof
end

