-- ==== Sys2Proof/Machine/Operands.lean ====
section
/-! DEFINITION. The operands of every slot operation, in one table: unit class, use of the guard, the registers named as
sources and as destinations with the field that names each. Legality (R24, R73), the destination rule (R21), the port
rule (R22), pending registers (R206) and the capture of sources (R207) all read this table. -/

namespace Sys2Proof.Machine

/-- The field of an operation that names a source. -/
inductive Role where
  | g | a | a1 | b | d | c
  deriving DecidableEq, Repr

/-- The unit classes of R18; `hdr` for the header bits, `dev` for the steps of the device. -/
inductive UnitClass where
  | nop | hdr | x | v | m | c | dev
  deriving DecidableEq, Repr

/-- How the guard predicate acts (R14, R15): lane 0 suppresses; all lanes mask, and for an operation on memory or a
port an all-zero guard suppresses; or the guard is an operand. -/
inductive GuardUse where
  | lane0 | lanes | memory | operand
  deriving DecidableEq, Repr

/-- What an operation names. `xs`, `vs`, `ps` are sources; `xd`, `vd`, `pd` destinations; `csr` the CSRs written;
`rmw` says that the scalar D is both read and written (R73); `pair` that field A names the even register of a pair. -/
structure Shape where
  cls : UnitClass := .x
  gu : GuardUse := .lane0
  g : Nat := 0
  xs : List (Role × Nat) := []
  vs : List (Role × Nat) := []
  ps : List (Role × Nat) := []
  xd : List Nat := []
  vd : List Nat := []
  pd : List Nat := []
  csr : List Nat := []
  rmw : Bool := false
  pair : Bool := false
  ctl : Bool := false
  deriving DecidableEq, Repr

/-- X(D) from X(A) and X(B). -/
def shX3 (g d a b : Nat) : Shape := { g, xs := [(.a, a), (.b, b)], xd := [d] }

/-- X(D) from X(A). -/
def shX2 (g d a : Nat) : Shape := { g, xs := [(.a, a)], xd := [d] }

/-- A vector operation with a vector destination and vector sources. -/
def shV (g d : Nat) (vs : List (Role × Nat)) : Shape := { cls := .v, gu := .lanes, g, vs, vd := [d] }

/-- A vector compare. -/
def shVP (g d a b : Nat) : Shape := { cls := .v, gu := .lanes, g, vs := [(.a, a), (.b, b)], pd := [d] }

/-- An engine command: parameter block address and due time (R176). -/
def shC (g a b : Nat) : Shape := { cls := .c, g, xs := [(.a, a), (.b, b)] }

/-- A queued operation on the pair of field A (R131). -/
def shQ (cls : UnitClass) (g a : Nat) (xs : List (Role × Nat)) : Shape :=
  { cls, g, xs := (.a, a) :: (.a1, a + 1) :: xs, pair := true }

/-- The CSR numbers of LC, EC, RRB and ESTAT (R88). -/
def csrLC : Nat := 0x009
def csrEC : Nat := 0x00A
def csrRRB : Nat := 0x00B
def csrESTAT : Nat := 0x024

/-- The operands of an operation. -/
def shape : Instr → Shape
  | .nop => { cls := .nop }
  | .endB _ | .vjoin => { cls := .hdr }
  | .add g d a b | .sub g d a b | .and g d a b | .or g d a b | .xor g d a b | .andn g d a b | .shl g d a b
  | .shr g d a b | .sar g d a b | .rotr g d a b | .slt g d a b | .sltu g d a b | .seq g d a b | .sne g d a b
  | .min g d a b | .max g d a b | .minu g d a b | .maxu g d a b | .mul g d a b | .mulh g d a b | .mulhu g d a b
  | .div g d a b | .divu g d a b | .rem g d a b | .remu g d a b | .bfx g d a b => shX3 g d a b
  | .clz g d a | .ctz g d a | .popc g d a => shX2 g d a
  | .sel g d a b => { shX3 g d a b with gu := .operand }
  | .bfi g d a b => { g, xs := [(.a, a), (.b, b), (.d, d)], xd := [d], rmw := true }
  | .addi g d a _ | .andi g d a _ | .ori g d a _ | .xori g d a _ | .shli g d a _ | .shri g d a _ | .sari g d a _
  | .slti g d a _ | .sltui g d a _ | .seqi g d a _ | .mini g d a _ | .maxi g d a _ | .muli g d a _ => shX2 g d a
  | .li g d _ | .lpc g d _ => { g, xd := [d] }
  | .lhi g d _ => { g, xs := [(.d, d)], xd := [d], rmw := true }
  | .br g a _ | .brn g a _ => { g, ps := [(.a, a)], ctl := true }
  | .bz g a _ | .bnz g a _ | .jr g a _ => { g, xs := [(.a, a)], ctl := true }
  | .jmp g _ => { g, ctl := true }
  | .call g _ => { g, xd := [1], ctl := true }
  | .calr g a _ => { g, xs := [(.a, a)], xd := [1], ctl := true }
  | .brlc g _ => { g, pd := [64], csr := [csrLC, csrEC, csrRRB], ctl := true }
  | .loops g a _ => { g, xs := [(.a, a)], csr := [csrLC, csrEC] }
  | .ldW g d a _ | .ldH g d a _ | .ldHu g d a _ | .ldB g d a _ | .ldBu g d a _ | .ldf g d a _ | .ldfe g d a _ =>
    shX2 g d a
  | .stW g d a _ | .stH g d a _ | .stB g d a _ | .stef g d a _ | .stf g d a _ => { g, xs := [(.a, a), (.d, d)] }
  | .clrf g a _ => { g, xs := [(.a, a)] }
  | .csrr g d _ => { g, xd := [d] }
  | .csrw g d c | .csrs g d c | .csrc g d c => { g, xs := [(.d, d)], csr := [c] }
  | .trap g d _ => { g, xs := [(.d, d)], ctl := true }
  | .eret g => { g, csr := [csrESTAT, csrLC, csrEC, csrRRB], ctl := true }
  | .fold g => { g, ctl := true }
  | .wait g _ _ _ _ | .twait g _ | .gjoin g _ | .gleave g _ | .gsync g _ => { g }
  | .tdom g d _ | .tbud g d _ | .rtime g d _ => { g, xd := [d] }
  | .snapr g d a b | .tlook g d a b => shX3 g d a b
  | .snapw g d a b | .tins g d a b => { g, xs := [(.a, a), (.b, b), (.d, d)] }
  | .tinvVa g a b => { g, xs := [(.a, a), (.b, b)] }
  | .tinvEntry g d => { g, xs := [(.d, d)] }
  | .pand g d a b | .por g d a b | .pxor g d a b | .pandn g d a b => { g, ps := [(.a, a), (.b, b)], pd := [d] }
  | .pnez g d a => { g, xs := [(.a, a)], pd := [d] }
  | .pget g d a _ | .pcnt g d a | .pfirst g d a => { g, ps := [(.a, a)], xd := [d] }
  | .pput g d a _ => { g, xs := [(.a, a)], ps := [(.d, d)], pd := [d] }
  | .vaddF g d a b | .vsubF g d a b | .vmulF g d a b | .vminF g d a b | .vmaxF g d a b | .vdivF g d a b
  | .vaddI g d a b | .vsubI g d a b | .vmulI g d a b | .vmulhI g d a b | .vand g d a b | .vor g d a b
  | .vxor g d a b | .vshl g d a b | .vshr g d a b | .vsar g d a b | .vminI g d a b | .vmaxI g d a b
  | .vminuI g d a b | .vmaxuI g d a b | .vperm g d a b => shV g d [(.a, a), (.b, b)]
  | .vfmaF g d a b | .vfmsF g d a b | .vfnmaF g d a b => shV g d [(.a, a), (.b, b), (.d, d)]
  | .vdot4I8 g v a b | .vdot2Bf g v a b => shV g v [(.a, a), (.b, b), (.d, v)]
  | .vabsF g d a | .vnegF g d a | .vsqrtF g d a | .vrsqrtF g d a | .vrcpF g d a | .vexp2F g d a | .vlog2F g d a
  | .vsumF g d a | .vmaxrF g d a | .vminrF g d a | .vroundF g d a | .vtruncF g d a | .vsumI g d a | .vcvtFi g d a
  | .vcvtIf g d a | .vtruncI g d a => shV g d [(.a, a)]
  | .vpackBf g d a _ _ | .vpackH g d a _ _ | .vpackD8 g d a _ _ | .vpackI8 g d a _ _ => shV g d [(.a, a)]
  | .vunpkBf g d a _ | .vunpkH g d a _ | .vunpkD8 g d a _ | .vunpkI8 g d a _ => shV g d [(.a, a)]
  | .vfeq g d a b | .vfne g d a b | .vflt g d a b | .vfle g d a b | .vfun g d a b | .vieq g d a b | .vilt g d a b
  | .viltu g d a b => shVP g d a b
  | .vsel g d a b => { shV g d [(.a, a), (.b, b)] with gu := .operand }
  | .vbcast g d a => { shV g d [] with xs := [(.a, a)] }
  | .vgetl g d a b => { cls := .v, gu := .lanes, g, vs := [(.a, a)], xs := [(.b, b)], xd := [d] }
  | .vsetl g d a b => { shV g d [] with xs := [(.a, a), (.b, b)] }
  | .vrot g d a b => { shV g d [(.a, a)] with xs := [(.b, b)] }
  | .vid g d => shV g d []
  | .vld g v a _ | .vldf g v a _ | .vldd g v a _ => { cls := .v, gu := .memory, g, xs := [(.a, a)], vd := [v] }
  | .vst g v a _ | .vstf g v a _ => { cls := .v, gu := .memory, g, xs := [(.a, a)], vs := [(.d, v)] }
  | .vlds g v a b => { cls := .v, gu := .memory, g, xs := [(.a, a), (.b, b)], vd := [v] }
  | .vsts g v a b | .vstd g v a b =>
    { cls := .v, gu := .memory, g, xs := [(.a, a), (.b, b)], vs := [(.d, v)] }
  | .vldx g v a b => { cls := .v, gu := .memory, g, xs := [(.a, a)], vs := [(.b, b)], vd := [v] }
  | .vstx g v a b => { cls := .v, gu := .memory, g, xs := [(.a, a)], vs := [(.b, b), (.d, v)] }
  | .vqld g a _ => { shQ .v g a [] with gu := .memory }
  | .vqst g v a _ => { shQ .v g a [] with gu := .memory, vs := [(.d, v)] }
  | .vprn24 g v a b | .vprn48 g v a b => { shV g v [(.a, a)] with pd := [b] }
  | .vsdot g v a b => { shV g v [(.a, a), (.b, b), (.d, v)] with gu := .operand }
  | .vexpd g v a => { shV g v [(.a, a)] with gu := .operand }
  | .nset g _ a | .cseq g a | .mscl g a => { cls := .m, g, xs := [(.a, a)] }
  | .nseti g _ _ | .ngo g | .nstop g _ | .tzero g _ _ _ | .tmov g _ _ | .wprn24 g _ _ | .wprn48 g _ _ =>
    { cls := .m, g }
  | .tout g _ a b | .tin g _ a b | .tacc g _ a b | .wbld g _ a b => { cls := .m, g, xs := [(.a, a), (.b, b)] }
  | .tmma g _ _ a => { cls := .m, g, xs := [(.a, a)] }
  | .ccp g _ _ a b | .cnd g _ _ a b | .cgat g _ _ a b | .csct g _ _ a b | .cwb g _ _ a b | .cfill g _ _ a b
  | .cred g _ _ a b | .csig g _ _ a b | .xar g _ _ a b | .xrs g _ _ a b | .xag g _ _ a b | .xbc g _ _ a b
  | .xmrg g _ _ a b | .xred g _ _ a b | .xbar g _ _ a b => shC g a b
  | .chbind g _ _ | .chbindUnbind g _ => { cls := .c, g }
  | .csnd g _ a => { cls := .c, g, vs := [(.a, a)] }
  | .crcv g d _ => { cls := .c, g, vd := [d] }
  | .crad g d _ => { cls := .c, g, vs := [(.d, d)], vd := [d] }
  | .fld g a => shQ .c g a []
  | .fst g a b | .famoAdd g a b | .famoMax g a b | .famoOr g a b | .famoSwap g a b => shQ .c g a [(.b, b)]
  | .qldW g a b | .qldH g a b | .qldB g a b | .amoAdd g a b | .amoAnd g a b | .amoOr g a b | .amoXor g a b
  | .amoMin g a b | .amoMax g a b | .amoMinu g a b | .amoMaxu g a b | .amoSwap g a b | .waita g a b | .waitc g a b =>
    shQ .x g a [(.b, b)]
  | .qstW g d a b | .qstH g d a b | .qstB g d a b | .amoCas g d a b => shQ .x g a [(.b, b), (.d, d)]
  | .rwlRd g a | .rwlWr g a | .rwlRu g a | .rwlWu g a => shQ .x g a []
  | .asyncFaultDelivery | .resultLanding | .slipService | .translationAnswer | .overlayFill | .holdExpiry
  | .cycleAllowanceExpiry | .gsyncLineGrant | .gsyncEpisodeComplete | .rebase | .rebaseDone | .queuedAccessAtHome
  | .queuedResultReturn | .queuedStorePerformed | .mOpStart | .passStart | .passLanding | .tileRowTransfer
  | .mOpComplete | .commandStart | .workSteal | .commandBlockStep | .commandComplete | .channelMessageArrival
  | .channelCreditReturn | .heldRelease | .coreFreed | .arm | .launchAccept | .nodeArrival | .taskDispatch
  | .taskAging | .preemptionSaved | .foldComplete | .foldCleanupDone | .endDetectionSample | .hangWatchdogExpiry
  | .meshFlitHop | .calendarOwnershipChange | .ucieAdapterForward | .linkPacketSend | .linkPacketReceive | .ack
  | .nak | .ackTimerExpiry | .replayTimeout | .laneFailure | .retrainDone | .trainingRetry | .remoteWrite
  | .readRequest | .readResponse | .atomicRequest | .atomicResponse | .writeDone | .negativeAcknowledgement
  | .collectiveContribution | .reductionSlotExpiry | .collectiveResult | .mismatchNotice | .generationFlip
  | .oldGenerationCount | .time | .rotaBoundary | .rotaColumnApply | .prepare | .ready | .refuse | .sample
  | .counts | .capture | .commit | .abort | .done | .kfull | .voteReplyTimeout | .sampleTimer | .drainTimeout
  | .captureTimeout | .voteRetry | .kennelReinject | .exchangeComplete | .coreset | .shrink | .shrinkComplete
  | .shrinkHandlerTimeout | .teardown | .rdmaWrite | .rdmaRead | .atomicCmpSwap | .atomicFetchAdd
  | .unsupportedRequest | .hostSignalPost | .inval | .invalidationComplete | .ovlflush | .drainmax
  | .routeTableWrite | .attest | .hubRegisterWrite | .imageRegistration | .singleBitError | .uncorrectableError
  | .packageReset | .selfTestPass | .thermalTrip | .lstatGoodWrite | .vcCreditReturn => { cls := .dev }

/-- The port registers lq and lk0 to lk3, and vq (R25). -/
def xPort (n : Nat) : Bool := 56 ≤ n && n ≤ 60
def vqReg : Nat := 62

/-- Whether a CSR number is defined (R88). -/
def csrDefined (c : Nat) : Bool :=
  c ≤ 4 || (8 ≤ c && c ≤ 0xB) || (0x10 ≤ c && c ≤ 0x13) || c = 0x18 || c = 0x19 || (0x20 ≤ c && c ≤ 0x25)
    || c = 0x28 || c = 0x29

/-- Register legality of R24, R25, R73, R104, R105 and R131: every name exists; lq and vq are no destinations; an
operation that reads and writes D takes no port there; the vector D of an operation that reads it is not vq. -/
def Shape.regsLegal (s : Shape) : Bool :=
  s.g < 128
    && s.xs.all (fun r => r.2 ≤ 60)
    && s.vs.all (fun r => r.2 ≤ 62 && (r.2 ≠ vqReg || !s.vd.contains r.2 || r.1 ≠ .d))
    && s.ps.all (fun r => r.2 < 128)
    && s.xd.all (fun d => d ≤ 60 && d ≠ 56 && (!s.rmw || !xPort d))
    && s.vd.all (fun d => d ≤ 61)
    && s.pd.all (fun d => d < 128)
    && (!s.pair || s.xs.all (fun r => r.1 ≠ .a || (r.2 % 2 = 0 && 2 ≤ r.2 && r.2 ≤ 54)))

/-- The pop ports an operation reads, one entry per field (R22); 62 + 64 stands for vq. -/
def Shape.pops (s : Shape) : List Nat :=
  (s.xs.filter (fun r => xPort r.2 && r.1 ≠ .a1)).map (·.2)
    ++ (s.vs.filter (fun r => r.2 = vqReg)).map (fun _ => 126)

/-- The push ports an operation writes (R22). -/
def Shape.pushes (s : Shape) : List Nat := s.xd.filter xPort

end Sys2Proof.Machine
end

