-- ==== Sys2Proof/Machine/State.lean ====
section
/-! DEFINITION. The state of one package, as plain data: everything the spec gives the machine, with the model's own
bookkeeping named as such. `State.reset` is the package right after reset. Maps are `Sparse`: an unlisted key reads as
the default that the accessor of the map names. -/

namespace Sys2Proof.Machine

/-- Bytes of memory by address (R5, R235): addresses strictly rising, no entry zero, an unlisted byte reads 0. -/
abbrev Memory := List Host.Cell

/-- Why the machine stops. -/
inductive Fault where
  /-- A walk, or a table named by system software, reads a physical address at or above 0x60_0000_0000, where R235 puts
  no memory, or reaches a page whose stack or die store is not ready (R367). Raised by the events that read page tables, context tables, channel tables, rank and core maps. Safe: the
  spec gives such a read no effect. -/
  | noSuchPhysicalAddress (pa : Nat)
  deriving DecidableEq, Repr

/-- Why an instruction is turned away. -/
inductive Refusal where
  /-- An instruction of the table that has no meaning yet. Safe. -/
  | notModelled (mnemonic : String)
  deriving DecidableEq, Repr

/-- A store with its side data: a scratchpad, or the HBM. Descriptors, timestamps and poison by 64-byte block, full
bits by 32-bit word (R55, R125, R235, R361). -/
structure Store where
  mem : Memory := []
  fe : Sparse Bool := []
  desc : Sparse Desc := []
  wts : Sparse Nat := []
  rts : Sparse Nat := []
  poison : Sparse Bool := []
  deriving DecidableEq, Repr

/-- How a CSR access combines the old value with its source (R87). -/
inductive CsrOp where
  | write | set | clear
  deriving DecidableEq, Repr

/-- Where a result lands (R204, R225), on physical registers; `snap` is a word of the snapshot of thread `tid` (R99). -/
inductive Dest where
  | x (n : Nat) (v : Word)
  | p (n : Nat) (v mask : PReg)
  | v (n : Nat) (v mask : VReg)
  | push (k : Nat) (v : Word)
  | csr (n : Nat) (op : CsrOp) (v : Word)
  | member (g : Nat) (on : Bool)
  | bind (k : Nat) (ch : Option Nat)
  | snap (tid w : Nat) (v : Word)
  | flags
  deriving DecidableEq, Repr

/-- A result in flight (R204, R225): `remain` cycles to its landing, `seq` the program order of its operation, `pend`
set when its register is pending (R206), `valid` cleared when a handler drops it from a snapshot (R226), `bad` set where an
uncorrectable error has struck it (R361). -/
structure Landing where
  remain : Nat
  seq : Nat
  flg : Flags
  pend : Bool
  dest : Dest
  valid : Bool := true
  bad : Bool := false
  deriving DecidableEq, Repr

/-- The sources of an operation as read (R207): guard, scalars of the fields A, A+1, B and D, vectors and predicates of
the fields A, B and D. -/
structure Opnds where
  g : PReg := 0
  xa : Word := 0
  xa1 : Word := 0
  xb : Word := 0
  xd : Word := 0
  va : VReg := 0
  vb : VReg := 0
  vd : VReg := 0
  pa : PReg := 0
  pb : PReg := 0
  pd : PReg := 0
  deriving DecidableEq, Repr

/-- The configuration of a nest (R157): selectors by number; `cellseq` is R160. -/
structure MCfg where
  sel : Sparse Word := []
  cellseq : Word := 0
  deriving DecidableEq, Repr

/-- Where an address lies: a byte of a scratchpad, or a physical address with PTE bits [7:2] of its leaf (R233). -/
inductive Place where
  | spad (core off : Nat)
  | mem (pa attr : Nat)
  deriving DecidableEq, Repr

/-- What an operation takes from its thread in its issue cycle beside its sources, kept for a later service: the scale
tables (R62), the nest configuration and CELLSEQ (R162), the word that it samples (R87, R98, R102), the chip cycle counter, the
tag table for a `tlook` (R100), and the place of a queued access translated at issue (R132). -/
structure Early where
  scale : List Word := []
  scaleV : List Word := []
  shadow : MCfg := {}
  val : Word := 0
  time : Nat := 0
  tags : Sparse Nat := []
  place : Option Place := none
  deriving DecidableEq, Repr

/-- An entry of a slip buffer (R225), with the operation decoded, the rotation bases at issue (R212), the fields whose
source is still pending, whether the checks of the entry have been made (R368), what it took at issue, and for a bank-served
access the lanes still to serve with the cycles left, the words read, the descriptors of its run, the blocks that it has taken
with their descriptors (R59), and the number of words served. `sq` and `hld` are SEQ and HLD as a snapshot shows them. -/
structure Slip where
  slot : Nat
  why : Nat
  seq : Nat
  ext : Nat
  sword : Word
  baddr : Word
  rrb : Word
  instr : Instr
  ops : Opnds
  pend : List Role
  lanes : List (Nat × Nat)
  part : VReg
  checked : Bool := false
  early : Early := {}
  descs : List Desc := []
  took : List Nat := []
  served : Nat := 0
  sq : Nat := 0
  hld : Nat := 0
  valid : Bool := true
  deriving DecidableEq, Repr

/-- A block with its descriptor and keep mask, as the array or a slab holds it (R55, R61). -/
structure DBlock where
  data : Block
  desc : Desc
  mask : Mask
  deriving DecidableEq, Repr

/-- An asynchronous M-unit operation (R152, R153, R225): the operands captured at issue; once started the cycle it
started in, the cycle of its next pass, the indices of its next pass, and the pass in progress with its landing; for a
transfer the next row; the cycle of its completion once known. `last` is set by `nstop`, `stop` by a stop of the task
(R165, R174), `cells` holds the values of a deferred write-back (R159); `failed` marks one that
a fault has ended, `held` the regions whose exchange it waits for (R348). `after`, `behind` and `fork` are as a command's; `rows` are
rows of a `tmov` that have been read, with the cycle in which each is written (R169). -/
structure MOp where
  instr : Instr
  seq : Nat
  slot : Nat
  sword : Word
  baddr : Word
  xa : Word
  xb : Word
  cfg : MCfg
  scale : List Word
  idx : List Nat := [0, 0, 0, 0, 0, 0]
  started : Option Nat := none
  nextAt : Nat := 0
  pass : Option Nat := none
  passTile : Nat := 0
  passA : List DBlock := []
  passS : List DBlock := []
  cells : Option (Nat × List Word) := none
  row : Nat := 0
  doneAt : Option Nat := none
  last : Bool := false
  stop : Bool := false
  failed : Bool := false
  held : List Nat := []
  dropped : Bool := false
  pts : Nat := 0
  after : Nat := 0
  behind : Bool := false
  fork : Nat := 0
  rows : List (Nat × Nat × List Word) := []
  deriving DecidableEq, Repr

/-- A fault record of R221 before it is split into words. -/
structure FaultRec where
  valid : Bool := false
  sub : Nat := 0
  slot : Nat := 0
  cause : Nat := 0
  baddr : Word := 0
  sword : Word := 0
  xa : Word := 0
  xb : Word := 0
  fva : BitVec 64 := 0
  step : Word := 0
  ext : List Word := []
  copy : Bool := false
  deriving DecidableEq, Repr

/-- A pending asynchronous fault (R215): cause, subcause, and EVAL (a record number, or 8 when none was free). -/
structure AsyncFault where
  cause : Nat
  sub : Nat
  val : Word
  deriving DecidableEq, Repr

/-- The task a thread runs (R269, R274, R275): the launch by partition and context slot, the node, the serial number,
its instance and subtree, its domain as (lo, hi, grain) of three dimensions, and its budgets. -/
structure Task where
  part : Nat := 0
  slot : Nat := 0
  node : Nat := 0
  serial : Nat := 0
  inst : Nat := 0
  sub : Nat := 0
  cls : Nat := 0
  foldable : Bool := false
  ndim : Nat := 1
  order : List Nat := []
  dims : List (Nat × Nat × Nat) := []
  depth : Nat := 0
  entry : Word := 0
  image : Nat := 0
  spad : Nat := 0
  accr : Nat := 0
  hold : Nat := 0
  cycles : Nat := 0
  aff : List Nat := []
  affAny : Bool := true
  args : BitVec 64 := 0
  role : Option Nat := none
  bound : Nat := 0
  deriving DecidableEq, Repr

/-- A block step of a command: plane, row, byte offset in the row and length; for `cwb` slab and column, for a collective
share and row of the packet (R185, R187, R195). -/
structure Seg where
  plane : Nat
  row : Nat
  pos : Nat
  n : Nat
  deriving DecidableEq, Repr

/-- A command of a copy buffer (R177, R225). `ref` numbers the task's commands in issue order, `after` counts the queued
operations issued before it (R251), `chn` is the number of a collective on its channel (R195), `member` says that a
collective's task was in its channel's group at issue (R314), `held` that its signal is a held effect (R186). Once
started, `eng` is the core whose engine runs it, `next` the block steps at hand, `cur` where the steps after them begin,
`wait` the answers of other packages it awaits, `got` the bytes of results a collective has written, `gate` that a
collective without a reduction has been matched by every rank (log entry 15). Each step's timestamp starts from `fork`, and `pts` is
the largest reached (R249); `behind` says that queued accesses of the task were outstanding at issue. -/
structure Cmd where
  ref : Nat
  tid : Nat
  task : Task
  own : Nat
  after : Nat
  instr : Instr
  sword : Word
  slot : Nat
  baddr : Word
  tok : Nat
  fl : Nat
  due : Word
  blk : List Word
  xa : Word
  xb : Word
  chn : Nat := 0
  member : Bool := true
  held : Bool := false
  eng : Option Nat := none
  cur : Option Seg := none
  next : List Seg := []
  idx : List Word := []
  wait : Nat := 0
  got : Nat := 0
  gate : Bool := false
  nv : Bool := false
  signalled : Bool := false
  dropped : Bool := false
  stopped : Bool := false
  pts : Nat := 0
  behind : Bool := false
  fork : Nat := 0
  lent : Nat := 0
  deriving DecidableEq, Repr

/-- A held effect of a foldable task (R138, R186, R192), in hold-queue order, with the bundle that issued it where its release
can fail, and for a signal the number of its command; `reserved` is the entry that a slipped operation took at its issue. -/
inductive Held where
  | amo (i : Instr) (addr : Nat) (b c : Word) (remote : Bool) (baddr : Word)
  | signal (addr : Nat) (val : Word) (op : Nat) (baddr : Word) (ref : Nat)
  | message (ch : Nat) (payload : List Byte)
  | reserved (seq : Nat)
  deriving DecidableEq, Repr

/-- What waits for an answer of another package (R304): a fabric load or atomic, a fabric store, a read, a mask read, a
write, the signal or a contribution of a command, or the release of a held effect. -/
inductive RemKind where
  | load
  | store
  | read (ref : Nat) (seg : Seg)
  | mask (ref : Nat) (seg : Seg)
  | write (ref : Nat) (seg : Seg)
  | signal (ref : Nat)
  | contrib (ref : Nat)
  | release
  deriving DecidableEq, Repr

/-- What an access in a core's queue sends in place of an access at a home here: a request to another rank, by pod-global
address (R193), or a channel message for a core of the package or for the hub (R192). -/
inductive Sent where
  | request (addr : Nat) (kind : RemKind) (k : Packet)
  | message (dest : Option Nat) (k : Packet)
  deriving DecidableEq, Repr

/-- A queued access on its way to its home (R133, R134). `id` numbers the queued operations of a task in issue order;
`va` is the address named, `blocks` the 64-byte blocks of a `vqld` or `vqst` still to perform (R246); the slot word, its
bundle and its scalars go into a fault record (R221). A request to another rank and a message stand in the same queue until the
accesses before them have been performed (R251). `hdl` says that the task's handler issued it. -/
structure QAcc where
  tid : Nat := 0
  task : Task := {}
  id : Nat := 0
  instr : Instr := .nop
  va : Nat := 0
  place : Place := .mem 0 0
  b : Word := 0
  c : Word := 0
  g : PReg := 0
  v : VReg := 0
  blocks : List Nat := []
  slot : Nat := 0
  sword : Word := 0
  baddr : Word := 0
  xa : Word := 0
  xb : Word := 0
  sends : Option Sent := none
  hdl : Bool := false
  deriving DecidableEq, Repr

/-- A reserved entry of lq, in issue order (R134). -/
structure QRes where
  id : Nat
  val : Option Word
  deriving DecidableEq, Repr

/-- A reserved entry of vq, in issue order (R134). -/
structure VRes where
  id : Nat
  val : VReg
  left : Nat
  deriving DecidableEq, Repr

/-- A lock operation or wait registered at its home (R137, R139), in order of arrival, with the word and its line's wts as it last
evaluated them. -/
structure Waiter where
  core : Nat
  acc : QAcc
  counted : Bool
  seen : Word × Nat := (0, 0)
  deriving DecidableEq, Repr

/-- Task mode or handler mode (R217). -/
inductive Mode where
  | task | handler
  deriving DecidableEq, Repr

/-- What a snapshot holds beyond the live engine state (R223 to R225): NSP, NV and NSL count the entries captured, `holders` are
the vector holders in use, `base` is the program order from which entries that a handler makes are numbered, and `newM` and
`newC` are the M and copy entries that a handler has made, by place. -/
structure Snap where
  rpc : Word := 0
  rrb : Word := 0
  lc : Word := 0
  ec : Word := 0
  stop : Word := 0
  why : Nat := 0
  gw : Bool := false
  grp : Nat := 0
  land : List Landing := []
  slips : List Slip := []
  nsp : Nat := 0
  nv : Nat := 0
  nsl : Nat := 0
  holders : List VReg := []
  base : Nat := 0
  newM : List (Nat × MOp) := []
  newC : List (Nat × Cmd) := []
  deriving DecidableEq, Repr

/-- The CSRs that are registers (R88, R89). -/
structure Csrs where
  vflags : Flags := 0
  lc : Word := 0
  ec : Word := 0
  rrb : Word := 0
  pts : Nat := 0
  lease : Nat := 64
  gmask : BitVec 64 := 0
  trapvec : Word := 0
  epc : Word := 0
  ecause : Word := 0
  evalw : Word := 0
  estat : Word := 0
  escr : Word := 0
  deriving DecidableEq, Repr

/-- What a core is doing (R281): nothing, a task that runs, that has issued END, that has ended or faulted, that folds or is
made again by a shrink, that is abandoned, its clean-up, or a task stopped for a pre-emption (1), a gang switch (2) or a
shrink (3). -/
inductive Phase where
  | idle
  | run
  | ending
  | released
  | folding (rebirth : Bool)
  | dropping
  | cleaning
  | stopped (why : Nat)
  deriving DecidableEq, Repr

/-- Everything that belongs to a task and travels with it (R274, R346). `tid` is the model's own name for it; `was` is what
its core did for it when it was stopped; `wrote` are the words of its snapshot and its CSRs as its eager block took them (R346); `rpoison` are its poisoned registers (R361); the queued accesses numbered below `vjq` were
issued before its last VJOIN (R257). -/
structure Thread where
  tid : Nat := 0
  core : Nat := 0
  task : Task := {}
  mode : Mode := .task
  pc : Word := 0
  bubble : Nat := 0
  frozen : Nat := 0
  restartAt : Nat := 0
  bseq : Nat := 0
  begun : Bool := false
  x : Sparse Word := []
  v : Sparse VReg := []
  p : Sparse PReg := []
  csr : Csrs := {}
  holdCnt : Nat := 0
  tlatch : Word := 0
  scale : List Word := []
  scaleV : List Word := []
  shadow : MCfg := {}
  tags : Sparse Nat := []
  binds : Sparse Nat := []
  inflight : List Landing := []
  slips : List Slip := []
  lq : List Word := []
  lqPend : List QRes := []
  vq : List VReg := []
  vqPend : List VRes := []
  qid : Nat := 0
  vjq : Nat := 0
  cbuf : List Cmd := []
  cref : Nat := 0
  mq : List MOp := []
  holdq : List Held := []
  left : Nat := 0
  limited : Bool := false
  spent : Bool := false
  recs : Sparse FaultRec := []
  pendF : List AsyncFault := []
  reported : Option Nat := none
  lost : Nat := 0
  snap : Option Snap := none
  waitG : Option Nat := none
  arrived : Bool := false
  rpoison : List (Nat × Nat) := []
  was : Phase := .idle
  wrote : List (Nat × Word) := []
  deriving DecidableEq, Repr

/-- Who owns a region of a core (R348). -/
inductive Owner where
  | none
  | ctx (p s : Nat)
  | parked (p s tid : Nat)
  deriving DecidableEq, Repr

/-- A first-touch exchange in progress (R348). -/
structure Exch where
  region : Nat
  toucher : Owner
  deriving DecidableEq, Repr

/-- A line of an L1 (R243, R244): the ASID and the VA block it was filled for, its class, data, and for a PRIV line
the dirty bytes, for a COH copy its timestamps. -/
structure L1Line where
  asid : Nat
  va : Nat
  pa : Nat
  cls : Nat
  data : Block
  desc : Desc
  dirty : BitVec 64
  ddesc : Bool
  wts : Nat
  rts : Nat
  deriving DecidableEq, Repr

/-- A cached leaf (R241): page base and size, PA of the page, PTE bits [7:2]. -/
structure TlbEnt where
  asid : Nat
  base : Nat
  size : Nat
  pa : Nat
  attr : Nat
  deriving DecidableEq, Repr

/-- An instruction overlay (R292): its tag (image, text address [31:14]) and its words. -/
structure Overlay where
  image : Nat
  page : Nat
  words : Sparse Word
  deriving DecidableEq, Repr

/-- What became of the last slot presented: the step reads it to finish or to undo the bundle. `aborted` says that the
bundle has no effect from any slot (a trap, a fold) and names the trap, `jumped` that the pc has been set. -/
inductive Issue where
  | issued
  | suppressed
  | slipped (why : Nat)
  | stalled
  | aborted (cause sub : Nat) (val : Word) (fva : Nat)
  | jumped
  deriving DecidableEq, Repr

/-- The slot being presented or served: its number, extension byte and word; the sequence number of its operation;
the scratchpad and the thread as they were before the bundle (R99, R100, R127); the operands of a served slip entry, what it took at issue, whether its checks have been made (R368), and whether its bank service is over (R126). -/
structure Env where
  slot : Nat := 0
  ext : Nat := 0
  sword : Word := 0
  seq : Nat := 0
  pc : Word := 0
  rrb : Word := 0
  banked : Bool := false
  before : Option Store := none
  th0 : Option Thread := none
  served : Option Opnds := none
  early : Early := {}
  checked : Bool := false
  after : Bool := false
  deriving DecidableEq, Repr

/-- A value that a write in one view replaced and no VJOIN has ordered (R257): the engine thread that wrote, if one did, by task,
number and whether it is an M-unit operation, and the cores whose later accesses come after it. -/
structure Mark where
  old : Word
  by_ : Option (Nat × Nat × Bool) := none
  seen : List Nat := []
  deriving DecidableEq, Repr

/-- A core (R2). `fillBad` is a translation fault of the overlay that the fetch waits for, by image, page, subcause and VA (R292); `linOld` and `swzOld` hold, by word address, the values that writes in the linear and in the swizzled
view replaced since the last VJOIN that orders them (R257). -/
structure Core where
  num : Nat := 0
  phase : Phase := .idle
  th : Thread := {}
  spad : Store := {}
  acc : Sparse Word := []
  tmode : Sparse Bool := []
  tpoison : Sparse Bool := []
  wb : Sparse DBlock := []
  wpoison : Sparse Bool := []
  owner : Sparse Owner := []
  exch : List Exch := []
  overlays : List Overlay := []
  l1 : List L1Line := []
  utlb : List TlbEnt := []
  xreq : Option Nat := none
  xans : List (Nat × Nat) := []
  fillBad : Option (Nat × Nat × Nat × Nat) := none
  banks : Sparse Nat := []
  linOld : Sparse (List Mark) := []
  swzOld : Sparse (List Mark) := []
  qacc : List QAcc := []
  qack : List Nat := []
  env : Env := {}
  issue : Issue := .issued
  deriving DecidableEq, Repr

/-- A message of a channel as held at the receiving core (R192), with the timestamp that its receipt joins (R252). -/
structure ChanMsg where
  core : Nat
  ch : Nat
  num : Nat
  src : Nat
  payload : List Byte
  ts : Nat := 0
  deriving DecidableEq, Repr

/-- An open `gsync` episode (R95): the line it holds, the tids that have arrived, its place among the openings, and the latest
timestamp of an arrival (R254). -/
structure Episode where
  grp : Nat
  die : Option Nat
  line : Option Nat
  arrived : List Nat
  opened : Nat
  pts : Nat := 0
  deriving DecidableEq, Repr

/-- A combination held at its home (R316, R320): one operand of node (`left`, `level`) of the sequence-th collective on
the channel, waiting for its sibling. -/
structure HomeHold where
  pkt : Packet
  deriving DecidableEq, Repr

/-- A context descriptor (R335), with the slot it stands in. -/
structure CtxDesc where
  slot : Nat
  gang : Nat
  asid : Nat
  rank : Nat
  gangsz : Nat
  root : Nat
  save : Nat
  kennel : Nat
  ksize : Nat
  ncore : Nat
  cmap : Nat
  pmap : Nat
  deriving DecidableEq, Repr

/-- What a context keeps on the package beside its save area (R265, R288, R290, R301, R315, R342, R346). `lmap` gives, by physical
core, one more than the logical core that the core map named when the device last read it (R335); `saved` holds the threads of
a context that is switched out, their `core` the logical one; `desc` is its descriptor as last read (R335); `kept` says that it has
been saved on this package before (R346). -/
structure Ctx where
  msgs : List ChanMsg := []
  used : Sparse Nat := []
  sendNo : Sparse Nat := []
  recvNo : Sparse Nat := []
  back : Sparse Nat := []
  msgSent : Nat := 0
  msgRecv : Nat := 0
  chn : Sparse Nat := []
  holds : List HomeHold := []
  ended : List (Nat × Nat × Nat) := []
  results : List Packet := []
  sent : Nat := 0
  recv : Nat := 0
  calendar : List (Word × Word) := []
  episodes : List Episode := []
  wdog : Nat := 0
  saved : List Thread := []
  lmap : Sparse Nat := []
  desc : Option CtxDesc := none
  kept : Bool := false
  deriving DecidableEq, Repr

/-- A live node instance (R272): its successor, whether each finished subtree sends an arrival (the successor is a
JOIN), and its subtrees with the number of tasks not yet finished in each. -/
structure Inst where
  id : Nat
  node : Nat
  next : Nat
  each : Bool
  subs : List (Nat × Nat)
  cores : List Nat := []
  deriving DecidableEq, Repr

/-- A launch in progress, by context slot (R265 to R290). -/
structure Launch where
  slot : Nat
  mail : Nat
  record : List Word
  start : Nat
  faults : Nat := 0
  cause : Nat := 0
  ftask : Word := 0
  fpc : Word := 0
  fva : Nat := 0
  status : Nat := 0
  folds : Nat := 0
  tasks : Nat := 0
  serial : Nat := 0
  instNo : Nat := 0
  insts : List Inst := []
  joins : Sparse Nat := []
  arrivals : List Nat := []
  endReached : Bool := false
  sampleAt : Option Nat := none
  sample : Option (Nat × Nat) := none
  reserve : Nat := 0
  recDone : Bool := false
  deriving DecidableEq, Repr

/-- An entry of a ready queue (R280): one task, or the three of a bound set; a pre-empted task names its thread. -/
structure ReadyEnt where
  tasks : List Task
  tid : Option Nat
  cls : Nat
  since : Nat
  aged : Bool
  deriving DecidableEq, Repr

/-- An entry of a partition's error log (R358). -/
structure ErrEnt where
  time : Nat
  addr : Nat
  req : Nat
  cause : Nat
  arg : Nat
  deriving DecidableEq, Repr

/-- A record of a column log (R343). -/
structure ColEnt where
  time : Nat
  gout : Nat
  gin : Nat
  row : Nat
  event : Nat
  reason : Nat
  who : Nat
  attempt : Nat
  kpkt : Nat
  drain : Nat
  deriving DecidableEq, Repr

/-- The identity of a vote (R338). -/
structure VoteId where
  round : Nat
  row : Nat
  attempt : Nat
  coord : Nat
  deriving DecidableEq, Repr

/-- State of a participant (R339). -/
inductive PartSt where
  | run | stopping | prepared | captured
  deriving DecidableEq, Repr

/-- State of a coordinator (R341). -/
inductive CoordSt where
  | idle | waitReady | drain | capt | committing | backoff
  deriving DecidableEq, Repr

/-- The vote of a partition on this package, as participant (`pst` to `kpkt`, `kfull`, `aborted`) and as coordinator
(R337 to R345). `aborted` says that the vote named by `id` was aborted and its retry has not been made; `gather` holds the entries
of a participant set that comes in several packets. -/
structure Vote where
  pst : PartSt := .run
  id : Option VoteId := none
  g : Nat := 0
  h : Nat := 0
  me : Nat := 0
  captured : Bool := false
  kpkt : Nat := 0
  firstSample : Nat := 0
  cst : CoordSt := .idle
  cid : Option VoteId := none
  set : List (Nat × Nat × Nat) := []
  replies : List (Nat × Nat × Nat) := []
  prev : Option (Nat × Nat) := none
  timer : Nat := 0
  sampleAt : Nat := 0
  doneFrom : List Nat := []
  kfull : Bool := false
  aborted : Bool := false
  gather : List (Nat × Nat × Nat) := []
  deriving DecidableEq, Repr

/-- The registers of a partition's page and its table bases (R363), with the writes that wait for the end of a round
(R336) and the range of the invalidation that runs, as it was when it was started (R364). -/
structure PartRegs where
  page : Memory := []
  armed : List Nat := []
  wdi : Nat := 2 ^ 26
  drainmax : Nat := 16384
  rotalen : Nat := 1
  rotaepoch : Nat := 0
  rota : Sparse Word := []
  rotalenW : Option Nat := none
  rotaepochW : Option Nat := none
  rotaW : List (Nat × Word) := []
  chanbase : Nat := 0
  ctxtab : Nat := 0
  imgtab : Nat := 0
  invAsid : Word := 0
  invVa : Word := 0
  invCnt : Word := 0
  runAsid : Word := 0
  runVa : Word := 0
  runCnt : Word := 0
  invBusy : Bool := false
  invDone : Bool := false
  elhead : Nat := 0
  ellost : Nat := 0
  elunread : List Nat := []
  errlog : Sparse ErrEnt := []
  colhead : Nat := 0
  collog : Sparse ColEnt := []
  deriving DecidableEq, Repr

/-- A partition of the package (R334). `gang` runs; `tail` is the row and the gang of the last row of an ended round, which continues
until the first round of a column as written begins (R336); `calPrev` is the gang whose calendar entries are in force until the cycle
`calAt` (R301); `nextAt` is the next boundary, after row `rowNow` of round `roundNow`; `shrink` are the cores being removed, from
the cycle before `shrinkAt` on where that is not 0, `grow` those that join, each with its cycle (R349). -/
structure Partition where
  regs : PartRegs := {}
  cores : List Nat := []
  error : Bool := false
  images : List Image := []
  ctxs : Sparse Ctx := []
  gang : Nat := 0
  rowNow : Nat := 0
  roundNow : Nat := 0
  nextAt : Nat := 0
  tail : Option (Nat × Nat) := none
  launches : List Launch := []
  ready : List ReadyEnt := []
  nextDispatch : Nat := 0
  vote : Vote := {}
  shrink : List Nat := []
  shrinkAt : Nat := 0
  grow : List (Nat × Nat) := []
  rebasing : Bool := false
  fts : Sparse Nat := []
  reinject : Bool := false
  calPrev : Nat := 0
  calAt : Nat := 0
  nextInst : Nat := 0
  torn : Bool := false
  deriving DecidableEq, Repr

/-- A flit in a mesh queue (R297): the die, the router and input port whose queue holds it, its partition, and where
it goes: a core of the package, or the hub. The last flit of a packet carries the packet; `at_` is the first cycle in which it may
move. -/
structure MeshFlit where
  die : Nat
  router : Nat
  port : Nat
  part : Nat
  dest : Option Nat
  pkt : Option Packet
  at_ : Nat := 0
  deriving DecidableEq, Repr

/-- A packet as the package switch, a link's sender or the package's endpoint holds it (R306 to R308): its VC, its GEN, the
link it arrived on or 8 for the endpoint, and the VC it arrived on. `held` marks, in the endpoint's queue, a packet that is still
in the switch's input buffer. -/
structure TxPkt where
  vc : Nat
  gen : Bool
  pkt : Packet
  port : Nat := 8
  vcIn : Nat := 0
  held : Bool := false
  deriving DecidableEq, Repr

/-- One Ebram link (R303 to R310): sender, receiver, lanes. `lanes` are those that training may use, which come back after a
failure though GOOD keeps it; `barred` those that a write to GOOD excludes until a reset. -/
structure Link where
  up : Bool := false
  train : Bool := false
  good : BitVec 16 := 0
  lanes : BitVec 16 := 0
  barred : BitVec 16 := 0
  width : Nat := 0
  first : Nat := 0
  retr : Nat := 0
  retrainAt : Nat := 0
  retryAt : Nat := 0
  lthresh : Word := 0x100
  sendq : List TxPkt := []
  rr : Nat := 0
  seqNo : Nat := 0
  acked : Nat := 0xFFFF
  replay : List TxPkt := []
  resend : Nat := 0
  lastAck : Nat := 0
  credits : Sparse Nat := []
  expect : Nat := 0
  nakOut : Bool := false
  accepted : Nat := 0
  firstAt : Nat := 0
  deriving DecidableEq, Repr

/-- A packet held in a reduction slot of the switch (R317). -/
structure RSlot where
  tx : TxPkt
  since : Nat
  deriving DecidableEq, Repr

/-- An event of the link log (R310). -/
structure LinkEvt where
  time : Nat
  link : Nat
  event : Nat
  good : Nat
  a : Nat
  e : Nat
  deriving DecidableEq, Repr

/-- A remote operation outstanding. -/
structure RemOp where
  tag : Nat
  core : Nat
  tid : Nat
  addr : Nat
  kind : RemKind
  acc : QAcc
  part : Nat := 0
  slot : Nat := 0
  deriving DecidableEq, Repr

/-- What the package sends out of itself: link flits, freed places of a VC's buffer, posts and answers to hosts, credits of a
channel to its sender's rank, freed places of a home's reduction buffer to the contributing package, and attestation reports. -/
inductive Out where
  | flit (l : Nat) (f : Flit)
  | vcCredit (l vc n : Nat)
  | hostWrite (p qp rkey va : Nat) (data : List Byte)
  | hostRead (ep qp : Nat) (data : List Byte)
  | hostAck (ep qp : Nat)
  | hostNak (ep qp why : Nat)
  | hostOld (ep qp old : Nat)
  | chanCredit (rank core ch : Nat)
  | homeCredit (pod part gang ch seq : Nat)
  | report (nonce : List Byte) (digests : List Nat)
  deriving DecidableEq, Repr

/-- A host write that is being performed word by word (R357): its request, the context slot, its bytes, the pieces that are left with
their places, and the requests of its queue pair that came after it. -/
structure HostJob where
  rq : HostReq
  slot : Nat
  data : List Byte
  left : List (Place × Nat × Nat)
  later : List (Instr × Stim)
  deriving DecidableEq, Repr

/-- The registers of the package page (R362), with the pending calendar ownership and the cycle from which it counts (R298), and the
pod controller's id on this and its own package while it awaits the count of old packets, with the count last told (R312). -/
structure PkgRegs where
  funcready : List Nat := []
  calown : Sparse Nat := []
  calownW : Option (Sparse Nat) := none
  calownAt : Nat := 0
  rshare : Sparse Nat := []
  rallow : Sparse Nat := []
  secnt : Sparse Nat := []
  rgen : Bool := false
  oldLeft : Bool := false
  gencnt : Nat := 0
  oldTo : Option (Nat × Nat) := none
  oldTold : Nat := 0
  linklog : List LinkEvt := []
  attest : Memory := []
  route0 : Sparse Nat := []
  route1 : Sparse Nat := []
  deriving DecidableEq, Repr

/-- The package outside its cores. `taskSave` and `taskImgs` are the task save areas of parked tasks (R282): the image
of a region of task `tid` stands at `tid` × 2^22 in the layout of R347, and `taskImgs` lists (tid, region). `cmds` are the
commands that engines run or whose answers are awaited (R180, R188). `dstore` lists the lines that each die's store holds (R1, R3, R235),
whose data and timestamps stand in `hbm`; `lineOf` names, by line of a COH page, one more than the partition whose accesses stamped it
(R250). `hubq` are packets that wait at the hub for room at the switch, each with this package's pod id (R306); `swq` those in the
switch that a full kennel could not take (R344); `hostJobs` the host writes under way (R357); `tripped` says that a thermal trip holds
the package in reset (R367). -/
structure Package where
  time : Nat := 0
  corrAt : Nat := 0
  corr : Int := 0
  held : Bool := false
  tripped : Bool := false
  hbm : Store := {}
  lineOf : Sparse Nat := []
  dstore : Sparse (List Nat) := []
  regs : PkgRegs := {}
  parts : Sparse Partition := []
  dtlb : List (Nat × TlbEnt) := []
  waiters : List Waiter := []
  cmds : List Cmd := []
  parked : List Thread := []
  taskSave : Store := {}
  taskImgs : List (Nat × Nat) := []
  tidNo : Nat := 1
  tagNo : Nat := 1
  rem : List RemOp := []
  mesh : List MeshFlit := []
  adapter : List (Nat × MeshFlit) := []
  adapterRr : Sparse Nat := []
  links : Sparse Link := []
  rslots : List RSlot := []
  hubq : List (Packet × Nat) := []
  swq : List TxPkt := []
  inq : List TxPkt := []
  hostPost : List (Nat × Nat × Word) := []
  hostJobs : List HostJob := []
  out : List Out := []
  deriving DecidableEq, Repr

/-- The machine: the core whose turn it is, the cores that have had their cycle and those that have not (a core listed
nowhere is as reset leaves it), the rest of the package, the steps of the device to take first with their operands, the
operands of the step being taken, the model's counter of free choices (log entry 3), and whether the core whose turn it
is has had its cycle. -/
structure State where
  core : Core
  todo : List Core
  done : List Core
  pkg : Package
  agenda : List (Instr × Stim)
  ev : Stim
  choice : Nat
  turned : Bool
  deriving DecidableEq, Repr

/-- The package right after reset: no function ready (R367), no core in a partition (R362), every table entry and
register at the value R362 and R363 give, memory and register files zero (log entries 1 and 2). With firmware that the boot ROM does
not accept it stays in reset (R365, log entry 8). -/
def State.reset : State :=
  { core := {}, todo := [], done := [], pkg := { held := !Config.firmwareValid }, agenda := [], ev := {}, choice := 0, turned := false }

end Sys2Proof.Machine
end

