-- ==== Sys2Proof/Machine/Sparse.lean ====
section
/-! DEFINITION. Reading and writing the plain-data maps. Every map is kept in one canonical form: keys strictly rising,
no entry equal to what an unlisted key reads as. Also the list helpers that the other files share. -/

namespace Sys2Proof.Machine

/-- The value at a key; `d` where the key is not listed. -/
def sget {α : Type} (d : α) (m : Sparse α) (k : Nat) : α :=
  match m with
  | [] => d
  | (k', v) :: m => if k = k' then v else sget d m k

/-- Writes a key, keeping the canonical form: writing `d` removes the entry. -/
def sset {α : Type} [DecidableEq α] (d : α) (m : Sparse α) (k : Nat) (v : α) : Sparse α :=
  match m with
  | [] => if v = d then [] else [(k, v)]
  | (k', v') :: m =>
    if k < k' then (if v = d then (k', v') :: m else (k, v) :: (k', v') :: m)
    else if k = k' then (if v = d then m else (k, v) :: m)
    else (k', v') :: sset d m k v

/-- The canonical form. -/
def swf {α : Type} [DecidableEq α] (d : α) : Sparse α → Bool
  | [] => true
  | [(_, v)] => v ≠ d
  | (k, v) :: (k', v') :: m => v ≠ d && k < k' && swf d ((k', v') :: m)

/-- The canonical form of a byte memory. -/
def Memory.wf (m : Memory) : Bool := swf (0 : Byte) m

/-- Drops every key from `lo` up to, not including, `hi`. -/
def sdrop {α : Type} (m : Sparse α) (lo hi : Nat) : Sparse α := m.filter fun e => e.1 < lo || hi ≤ e.1

/-- The entries with keys from `lo` to below `hi`, moved to start at `at_`. -/
def smove {α : Type} (m : Sparse α) (lo hi at_ : Nat) : Sparse α :=
  (m.filter fun e => lo ≤ e.1 && e.1 < hi).map fun e => (e.1 - lo + at_, e.2)

/-- The entries of `n` put over those of `m` between `lo` and `hi`; `n` lists keys of that range only. -/
def splice {α : Type} (m : Sparse α) (lo hi : Nat) (n : Sparse α) : Sparse α :=
  (m.filter fun e => e.1 < lo) ++ n ++ (m.filter fun e => hi ≤ e.1)

/-- The values at `n` keys from `k` on; the map lists no key below `k`. -/
def sdense {α : Type} (d : α) (m : Sparse α) (k : Nat) : Nat → List α
  | 0 => []
  | n + 1 =>
    match m with
    | [] => d :: sdense d [] (k + 1) n
    | (k', v) :: m' => if k' = k then v :: sdense d m' (k + 1) n else d :: sdense d ((k', v) :: m') (k + 1) n

/-- The entries for the values of a list at the keys from `k` on. -/
def sparseOf {α : Type} [DecidableEq α] (d : α) (k : Nat) : List α → Sparse α
  | [] => []
  | v :: l => if v = d then sparseOf d (k + 1) l else (k, v) :: sparseOf d (k + 1) l

/-- The little-endian number of the `n` bytes at an address (R5). -/
def leGet (m : Memory) (a : Nat) : Nat → Nat
  | 0 => 0
  | n + 1 => (sget 0 m a).toNat + 256 * leGet m (a + 1) n

/-- Stores a number as `n` little-endian bytes (R5). -/
def lePut (m : Memory) (a : Nat) (v : Nat) : Nat → Memory
  | 0 => m
  | n + 1 => lePut (sset 0 m a (BitVec.ofNat 8 v)) (a + 1) (v / 256) n

/-- The bytes of a memory from an address on. -/
def bytesGet (m : Memory) (a : Nat) : Nat → List Byte
  | 0 => []
  | n + 1 => sget 0 m a :: bytesGet m (a + 1) n

/-- Stores bytes from an address on. -/
def bytesPut (m : Memory) (a : Nat) : List Byte → Memory
  | [] => m
  | b :: bs => bytesPut (sset 0 m a b) (a + 1) bs

/-- The little-endian number of a byte list. -/
def leNat : List Byte → Nat
  | [] => 0
  | b :: bs => b.toNat + 256 * leNat bs

/-- A number as `n` little-endian bytes. -/
def leBytes (v : Nat) : Nat → List Byte
  | 0 => []
  | n + 1 => BitVec.ofNat 8 v :: leBytes (v / 256) n

/-- The 64-byte block at a block address. -/
def blockGet (m : Memory) (a : Nat) : Block := BitVec.ofNat 512 (leGet m a 64)

/-- Field `hi` down to `lo` of a number (R5). -/
def bits (w hi lo : Nat) : Nat := w / 2 ^ lo % 2 ^ (hi + 1 - lo)

/-- Bit `i` of a number. -/
def bit (w i : Nat) : Bool := w / 2 ^ i % 2 = 1

/-- 1 for true. -/
def b2n (b : Bool) : Nat := if b then 1 else 0

/-- Replaces element `k` of a list. -/
def lset {α : Type} : List α → Nat → α → List α
  | [], _, _ => []
  | _ :: l, 0, v => v :: l
  | x :: l, k + 1, v => x :: lset l k v

/-- Element `k` of a list, or a default. -/
def lget {α : Type} (d : α) : List α → Nat → α
  | [], _ => d
  | x :: _, 0 => x
  | _ :: l, k + 1 => lget d l k

/-- Removes element `k`. -/
def ldel {α : Type} : List α → Nat → List α
  | [], _ => []
  | _ :: l, 0 => l
  | x :: l, k + 1 => x :: ldel l k

/-- Inserts before the first element that `before` puts after it; ties keep the order of insertion. -/
def insertBy {α : Type} (before : α → α → Bool) (x : α) : List α → List α
  | [] => [x]
  | y :: l => if before x y then x :: y :: l else y :: insertBy before x l

/-- Sorts by insertion, stable. -/
def sortBy {α : Type} (before : α → α → Bool) : List α → List α
  | [] => []
  | x :: l => insertBy (fun a b => before a b || !before b a) x (sortBy before l)

/-- Updates the elements that satisfy a test. -/
def lmapIf {α : Type} (c : α → Bool) (f : α → α) (l : List α) : List α := l.map fun x => if c x then f x else x

/-- The signed value of the low `n` bits of a number (SEXT of R31). -/
def sextNat (v n : Nat) : Int := if 2 ^ (n - 1) ≤ v % 2 ^ n then (v % 2 ^ n : Int) - 2 ^ n else (v % 2 ^ n : Int)

/-- The low `n` bits of an integer. -/
def wrapInt (k : Int) (n : Nat) : Nat := (k % (2 ^ n : Int)).toNat

end Sys2Proof.Machine
end

