-- ==== Sys2Proof/Machine/Flags.lean ====
section
/-! DEFINITION. The bits of VFLAGS (R43) and when rounding and conversion set them (R44). -/

namespace Sys2Proof.Machine

/-- Invalid operation, division by zero, overflow, underflow, inexact, non-finite (R43). -/
def fNV : Flags := 1
def fDZ : Flags := 2
def fOF : Flags := 4
def fUF : Flags := 8
def fNX : Flags := 16
def fNF : Flags := 32

/-- A flag under a condition. -/
def flagIf (b : Bool) (f : Flags) : Flags := if b then f else 0

/-- The flags of a rounding (R44): overflow and underflow come with inexact; underflow needs an inexact tiny result. -/
def roundFlags (inexact overflow tiny : Bool) : Flags :=
  if overflow then fOF ||| fNX else if inexact then (if tiny then fUF ||| fNX else fNX) else 0

/-- NF for an FP32 result lane (R44): an infinity or a NaN. -/
def nfOf (w : Word) : Flags := flagIf (bits w.toNat 30 23 = 255) fNF

/-- The flags of the active lanes, ORed (R45). -/
def laneFlags (g : PReg) (l : List (Word × Flags)) : Flags :=
  l.zipIdx.foldl (fun f e => if g.getLsbD e.2 then f ||| e.1.2 else f) 0

end Sys2Proof.Machine
end

