-- ==== Sys2Proof/Machine/Numeric.lean ====
section
/-! DEFINITION. Numbers (R39 to R53, R63 to R65): exact values, their rounding to FP32, BF16, FP16, DL8 and the
integers, FP32 arithmetic, and the correctly rounded functions. -/

namespace Sys2Proof.Machine

/-- An exact value: a NaN, signalling or not; an infinity; or (−1)^s × p ÷ q, with signed zeros. -/
inductive Num where
  | nan (sig : Bool)
  | inf (s : Bool)
  | fin (s : Bool) (p q : Nat)
  deriving DecidableEq, Repr

def Num.isNan : Num → Bool
  | .nan _ => true
  | _ => false
def Num.isSig : Num → Bool
  | .nan b => b
  | _ => false
def Num.isZero : Num → Bool
  | .fin _ p _ => p = 0
  | _ => false
def Num.sign : Num → Bool
  | .nan _ => false
  | .inf s => s
  | .fin s _ _ => s
def Num.neg : Num → Num
  | .nan b => .nan b
  | .inf s => .inf !s
  | .fin s p q => .fin (!s) p q

/-- `m` × 2^(`e` − `b`) as a fraction. -/
def scaled (s : Bool) (m e b : Nat) : Num := if b ≤ e then .fin s (m * 2 ^ (e - b)) 1 else .fin s m (2 ^ (b - e))

/-- An IEEE binary value with `eb` exponent and `mb` fraction bits (R39, R47). -/
def decodeBin (eb mb w : Nat) : Num :=
  let s := bit w (eb + mb)
  let x := bits w (eb + mb - 1) mb
  let m := w % 2 ^ mb
  if x = 2 ^ eb - 1 then (if m = 0 then .inf s else .nan (!bit m (mb - 1)))
  else scaled s (if x = 0 then m else m + 2 ^ mb) (if x = 0 then 1 else x) (2 ^ (eb - 1) - 1 + mb)

/-- The magnitude code of the value nearest to `p` ÷ `q` > 0, ties to even, and its flags (R39, R44, R47). -/
def roundMag (eb mb p q : Nat) : Nat × Flags :=
  let b := 2 ^ (eb - 1) - 2 + mb
  -- the exponent of the unit of least precision, counted from the smallest subnormal, `b` below 1
  let up := Nat.log2 p + b
  let dn := Nat.log2 q + mb
  let u0 := up - dn
  let u := if u0 ≠ 0 ∧ p * 2 ^ b < q * 2 ^ (u0 + mb) then u0 - 1 else u0
  let n := p * 2 ^ b
  let d := q * 2 ^ u
  let k := n / d
  let r := n % d
  let k1 := if d < 2 * r ∨ (2 * r = d ∧ k % 2 = 1) then k + 1 else k
  let code := u * 2 ^ mb + k1
  let top := (2 ^ eb - 1) * 2 ^ mb
  if top ≤ code then (top, roundFlags true true false) else (code, roundFlags (r ≠ 0) false (code < 2 ^ mb))

/-- A value in an IEEE binary format: the code and its flags; a NaN is the canonical one (R40, R47). -/
def encodeBin (eb mb : Nat) (x : Num) : Nat × Flags :=
  match x with
  | .nan _ => ((2 ^ eb - 1) * 2 ^ mb + 2 ^ (mb - 1), 0)
  | .inf s => (b2n s * 2 ^ (eb + mb) + (2 ^ eb - 1) * 2 ^ mb, 0)
  | .fin s p q =>
    if p = 0 then (b2n s * 2 ^ (eb + mb), 0)
    else let r := roundMag eb mb p q; (b2n s * 2 ^ (eb + mb) + r.1, r.2)

/-- The value of an FP32 word, and RNE32 (R39). -/
def f32 (w : Word) : Num := decodeBin 8 23 w.toNat
def rne32 (x : Num) : Word × Flags := let r := encodeBin 8 23 x; (BitVec.ofNat 32 r.1, r.2)

/-- The canonical NaN (R40). -/
def qnan : Word := 0x7FC00000

/-- A result word that raises NF where it is not finite. -/
def withNF (r : Word × Flags) : Word × Flags := (r.1, r.2 ||| nfOf r.1)

/-! ### Exact arithmetic -/

/-- A fraction as a signed numerator. -/
def sInt (s : Bool) (p : Nat) : Int := if s then -(p : Int) else p

/-- The exact sum of two finite values; a zero sum is +0 unless both are −0 (R108). -/
def addFin (s : Bool) (p q : Nat) (t : Bool) (u v : Nat) : Num :=
  let n := sInt s (p * v) + sInt t (u * q)
  .fin (if n = 0 then s && t && p = 0 && u = 0 else n < 0) n.natAbs (q * v)

/-- The exact sum of two values, and whether it is invalid (R108). -/
def Num.add (x y : Num) : Num × Bool :=
  match x, y with
  | .nan a, .nan b => (.nan false, a || b)
  | .nan a, _ => (.nan false, a)
  | _, .nan b => (.nan false, b)
  | .inf a, .inf b => if a = b then (.inf a, false) else (.nan false, true)
  | .inf a, _ => (.inf a, false)
  | _, .inf b => (.inf b, false)
  | .fin s p q, .fin t u v => (addFin s p q t u v, false)

/-- The exact product, and whether it is invalid (R108). -/
def Num.mul (x y : Num) : Num × Bool :=
  match x, y with
  | .nan a, .nan b => (.nan false, a || b)
  | .nan a, _ => (.nan false, a)
  | _, .nan b => (.nan false, b)
  | .inf a, .inf b => (.inf (a != b), false)
  | .inf a, .fin t u _ => if u = 0 then (.nan false, true) else (.inf (a != t), false)
  | .fin s p _, .inf b => if p = 0 then (.nan false, true) else (.inf (s != b), false)
  | .fin s p q, .fin t u v => (.fin (s != t) (p * u) (q * v), false)

/-- Rounds an exact result to FP32 and raises NV where it was invalid. -/
def finish32 (r : Num × Bool) : Word × Flags := let w := rne32 r.1; (w.1, w.2 ||| flagIf r.2 fNV)

/-- FP32 sum, difference and product (R108). -/
def addF (a b : Word) : Word × Flags := finish32 ((f32 a).add (f32 b))
def subF (a b : Word) : Word × Flags := finish32 ((f32 a).add (f32 b).neg)
def mulF (a b : Word) : Word × Flags := finish32 ((f32 a).mul (f32 b))

/-- The fused forms: `x` × `y` + `z`, rounded once (R109). -/
def fmaN (x y z : Num) : Word × Flags :=
  let p := x.mul y
  let r := p.1.add z
  finish32 (r.1, p.2 || r.2)

/-- FP32 quotient (R110). -/
def divF (a b : Word) : Word × Flags :=
  match f32 a, f32 b with
  | .nan x, .nan y => (qnan, flagIf (x || y) fNV)
  | .nan x, _ => (qnan, flagIf x fNV)
  | _, .nan y => (qnan, flagIf y fNV)
  | .inf _, .inf _ => (qnan, fNV)
  | .inf s, .fin t _ _ => rne32 (.inf (s != t))
  | .fin s _ _, .inf t => rne32 (.fin (s != t) 0 1)
  | .fin s p q, .fin t u v =>
    if u = 0 then (if p = 0 then (qnan, fNV) else ((rne32 (.inf (s != t))).1, fDZ))
    else rne32 (.fin (s != t) (p * v) (q * u))

/-- The integer square root, by the bits of the root from bit `n − 1` down. -/
def isqrt (x : Nat) : Nat → Nat → Nat
  | 0, r => r
  | n + 1, r => let c := r + 2 ^ n; isqrt x n (if c * c ≤ x then c else r)

/-- √(p ÷ q) × 2^`k`, rounded down, and whether it is exact. -/
def rootScaled (p q k : Nat) : Nat × Bool :=
  let x := p * 2 ^ (2 * k) / q
  let r := isqrt x (Nat.log2 x / 2 + 1) 0
  (r, r * r * q = p * 2 ^ (2 * k))

/-- A value known to lie at or just above `r` ÷ 2^`k`: where it is not exact, half a unit stands for the rest, which is
enough to round it when `r` has more digits than the format. -/
def sticky (s : Bool) (r k : Nat) (exact : Bool) : Num :=
  .fin s (2 * r + b2n (!exact)) (2 ^ (k + 1))

/-- Square root (R110). -/
def sqrtF (a : Word) : Word × Flags :=
  match f32 a with
  | .nan x => (qnan, flagIf x fNV)
  | .inf true => (qnan, fNV)
  | .inf false => rne32 (.inf false)
  | .fin s p q =>
    if p = 0 then rne32 (.fin s 0 1)
    else if s then (qnan, fNV)
    else let r := rootScaled p q 128; rne32 (sticky false r.1 128 r.2)

/-- Reciprocal square root (R110). -/
def rsqrtF (a : Word) : Word × Flags :=
  match f32 a with
  | .nan x => (qnan, flagIf x fNV)
  | .inf true => (qnan, fNV)
  | .inf false => rne32 (.fin false 0 1)
  | .fin s p q =>
    if p = 0 then ((rne32 (.inf s)).1, fDZ)
    else if s then (qnan, fNV)
    else let r := rootScaled q p 128; rne32 (sticky false r.1 128 r.2)

/-- Reciprocal (R110). -/
def rcpF (a : Word) : Word × Flags :=
  match f32 a with
  | .nan x => (qnan, flagIf x fNV)
  | .inf s => rne32 (.fin s 0 1)
  | .fin s p q => if p = 0 then ((rne32 (.inf s)).1, fDZ) else rne32 (.fin s q p)

/-- 2^(f ÷ 2^`n`) × 2^128 rounded down within 2^−100, for 0 ≤ f < 2^n: the product of the roots 2^(2^−i) over the set
bits of `f` from the top, where `c` is the root for the next bit. -/
def exp2Frac (f : Nat) : Nat → Nat → Nat → Nat
  | 0, _, acc => acc
  | n + 1, c, acc =>
    exp2Frac f n (isqrt (c * 2 ^ 128) 129 0) (if bit f n then acc * c / 2 ^ 128 else acc)

/-- √2 × 2^128, rounded down. -/
def root2 : Nat := isqrt (2 * 2 ^ 256) 129 0

/-- 2^a (R110). For |a| < 2^−26 the result rounds to 1; elsewhere the fraction has at most 49 bits, and 100 bits of the
result decide its rounding (log entry 11). -/
def exp2F (a : Word) : Word × Flags :=
  match f32 a with
  | .nan x => (qnan, flagIf x fNV)
  | .inf s => if s then (0, 0) else rne32 (.inf false)
  | .fin s p q =>
    if p = 0 then (0x3F800000, 0)
    else if p * 2 ^ 26 < q then (0x3F800000, fNX)
    else if 256 * q ≤ p then (if s then (0, fUF ||| fNX) else ((rne32 (.inf false)).1, fOF ||| fNX))
    else
      -- x = n + f ÷ 2^49 with 0 ≤ f < 2^49, counted from −512
      let x := ((512 : Int) * 2 ^ 49 + sInt s (p * 2 ^ 49 / q)).toNat
      let n := x / 2 ^ 49
      let f := x % 2 ^ 49
      let r := exp2Frac f 49 root2 (2 ^ 128)
      let v := 2 * r + b2n (f ≠ 0)
      if 512 ≤ n then rne32 (.fin false (v * 2 ^ (n - 512)) (2 ^ 129)) else rne32 (.fin false v (2 ^ (129 + (512 - n))))

/-- The first `n` binary digits of log2 of `y` ÷ 2^512, for 1 ≤ y ÷ 2^512 < 2. -/
def log2Frac : Nat → Nat → Nat → Nat
  | 0, _, acc => acc
  | n + 1, y, acc =>
    let z := y * y / 2 ^ 512
    if 2 ^ 513 ≤ z then log2Frac n (z / 2) (2 * acc + 1) else log2Frac n z (2 * acc)

/-- log2 a (R110). 128 digits of the fraction decide the rounding (log entry 11). -/
def log2F (a : Word) : Word × Flags :=
  match f32 a with
  | .nan x => (qnan, flagIf x fNV)
  | .inf s => if s then (qnan, fNV) else rne32 (.inf false)
  | .fin s p q =>
    if p = 0 then (0xFF800000, fDZ)
    else if s then (qnan, fNV)
    else
      -- p ÷ q = m × 2^(e − 256), 1 ≤ m < 2
      let e := Nat.log2 (p * 2 ^ 256 / q)
      let y := p * 2 ^ 256 * 2 ^ 512 / (q * 2 ^ e)
      let f := log2Frac 128 y 0
      let v : Int := ((e : Int) - 256) * 2 ^ 129 + 2 * f + b2n (y ≠ 2 ^ 512)
      rne32 (.fin (v < 0) v.natAbs (2 ^ 129))

/-! ### Order -/

/-- A key that orders FP32 values with −0 below +0 (R41), and one in which the zeros are equal (R112). -/
def ordKey (w : Word) : Int := if w.getLsbD 31 then -((w.toNat % 2 ^ 31 : Nat) : Int) - 1 else (w.toNat % 2 ^ 31 : Nat)
def cmpKey (w : Word) : Int := if w.getLsbD 31 then -((w.toNat % 2 ^ 31 : Nat) : Int) else (w.toNat % 2 ^ 31 : Nat)

/-- Minimum and maximum (R41). -/
def minmaxF (big : Bool) (a b : Word) : Word × Flags :=
  let x := f32 a
  let y := f32 b
  if x.isNan || y.isNan then (qnan, flagIf (x.isSig || y.isSig) fNV)
  else (if decide (ordKey a ≤ ordKey b) != big then a else b, 0)

/-- The compares of R112: equal, unequal, less, less or equal, unordered; with their flags. -/
def compareF (k : Nat) (a b : Word) : Bool × Flags :=
  let x := f32 a
  let y := f32 b
  let un := x.isNan || y.isNan
  let nv := flagIf (x.isSig || y.isSig || (un && (k = 2 || k = 3))) fNV
  (match k with
    | 0 => !un && cmpKey a = cmpKey b
    | 1 => un || cmpKey a ≠ cmpKey b
    | 2 => !un && cmpKey a < cmpKey b
    | 3 => !un && cmpKey a ≤ cmpKey b
    | _ => un, nv)

/-! ### Integers -/

/-- `p` ÷ `q` rounded to an integer, to nearest with ties to even or toward zero, and whether it was inexact. -/
def roundInt (trunc : Bool) (p q : Nat) : Nat × Bool :=
  let k := p / q
  let r := p % q
  (if !trunc ∧ (q < 2 * r ∨ (2 * r = q ∧ k % 2 = 1)) then k + 1 else k, r ≠ 0)

/-- A value as an `n`-bit integer, clamped (R49). -/
def toInt (n : Nat) (trunc : Bool) (x : Num) : Nat × Flags :=
  match x with
  | .nan _ => (0, fNV)
  | .inf s => (if s then 2 ^ (n - 1) else 2 ^ (n - 1) - 1, fNV)
  | .fin s p q =>
    let r := roundInt trunc p q
    let k := sInt s r.1
    if k < -(2 ^ (n - 1) : Int) then (2 ^ (n - 1), fNV)
    else if (2 ^ (n - 1) : Int) ≤ k then (2 ^ (n - 1) - 1, fNV)
    else (wrapInt k n, flagIf r.2 fNX)

/-- Rounding to an integral FP32 value; the sign of a zero result is kept (R111). -/
def integralF (trunc : Bool) (a : Word) : Word × Flags :=
  match f32 a with
  | .nan x => (qnan, flagIf x fNV)
  | .inf _ => (a, 0)
  | .fin s p q => ((rne32 (.fin s (roundInt trunc p q).1 1)).1, 0)

/-- An integer as an exact value. -/
def ofInt (k : Int) : Num := .fin (k < 0) k.natAbs 1

/-! ### DL8 (R50 to R53) -/

/-- The denominator under which every DL8 magnitude is an integer. -/
def dl8Den : Nat := 320000000

/-- DL8VAL of a magnitude code, times the denominator (R50). -/
def dl8Mag (p : Nat) : Nat :=
  if p = 0 then 0
  else
    let q := Nat.log2 p
    let n0 := 6 - q
    if n0 = 6 then 32
    else
      let w := 5 - n0
      let f := p % 2 ^ w
      let e7 := if bit p (q - 1) then n0 + 7 else 6 - n0
      10 ^ e7 * (32 + 9 * f * 2 ^ (5 - w))

/-- The value of a DL8 code (R50). -/
def dl8 (c : Nat) : Num :=
  let s := bit c 7
  let p := c % 128
  if p = 0 then (if s then .nan false else .fin false 0 1) else .fin s (dl8Mag p) dl8Den

/-- How far a magnitude code lies from `p` ÷ `q`, times both denominators. -/
def dl8Dist (p q c : Nat) : Nat := ((p * dl8Den : Nat) - (dl8Mag c * q : Nat) : Int).natAbs

/-- The nearest magnitude code among those from `c` on; a tie goes to the even code, or of two odd ones to the larger
magnitude (R53). -/
def dl8Near (p q : Nat) : Nat → Nat → Nat → Nat
  | 0, _, best => best
  | n + 1, c, best =>
    let d := dl8Dist p q c
    let b := dl8Dist p q best
    let better := d < b || (d = b && (if c % 2 = 0 then true else if best % 2 = 0 then false else dl8Mag best < dl8Mag c))
    dl8Near p q n (c + 1) (if better then c else best)

/-- RNEDL8 (R53). -/
def rneDl8 (x : Num) : Nat × Flags :=
  match x with
  | .nan _ | .inf _ => (0x80, fNV)
  | .fin s p q =>
    if 100000 * q < p then (b2n s * 128 + 3, fOF ||| fNX)
    else
      let c := dl8Near p q 127 1 0
      if c = 0 then (0, flagIf (p ≠ 0) (fUF ||| fNX))
      else (b2n s * 128 + c, flagIf (dl8Mag c * q ≠ p * dl8Den) fNX)

/-! ### Formats and scales (R56, R63 to R65) -/

/-- Element width in bits of a format code that holds numbers, compressed or dense; 0 for RAW, META and invalid codes
(R56). -/
def fmtWidth (f : Nat) : Nat :=
  match f with
  | 0x01 | 0x02 | 0x11 | 0x12 | 0x21 | 0x22 => 8
  | 0x03 | 0x04 | 0x13 | 0x14 | 0x23 | 0x24 => 16
  | 0x05 | 0x06 => 32
  | _ => 0

/-- Whether a format code is valid (R56). -/
def fmtValid (f : Nat) : Bool := f = 0 || f = 0x30 || fmtWidth f ≠ 0

/-- Whether a format is compressed: 2 for 2:4, 4 for 4:8, 0 for dense. -/
def fmtKeep (f : Nat) : Nat := if fmtWidth f = 0 then 0 else f / 16 * 2

/-- The value of an element by the base of its format (R40, R47, R48, R50). -/
def elemVal (f e : Nat) : Num :=
  match f % 16 with
  | 1 => dl8 e
  | 2 => ofInt (sextNat e 8)
  | 3 => decodeBin 8 7 e
  | 4 => decodeBin 5 10 e
  | 5 => decodeBin 8 23 e
  | _ => ofInt (sextNat e 32)

/-- Value times scale, and whether it is invalid (R65). A NaN value is not itself invalid here. -/
def scaleMul (x : Num) (w : Word) : Num × Bool :=
  let k := f32 w
  if x.isZero then (x, false)
  else
    match x with
    | .nan _ => (.nan false, k.isSig)
    | _ => x.mul k

/-- Scaled decode to FP32 (R63). -/
def scaledDecode (f e : Nat) (w : Word) : Word × Flags := finish32 (scaleMul (elemVal f e) w)

/-- CONV to the base of a format, from an exact value: the element and its flags (R64). -/
def convTo (f : Nat) (x : Num) : Nat × Flags :=
  match f % 16 with
  | 1 => rneDl8 x
  | 2 => toInt 8 false x
  | 3 => encodeBin 8 7 x
  | 4 => encodeBin 5 10 x
  | 5 => encodeBin 8 23 x
  | _ => toInt 32 false x

/-- Scaled encode of an FP32 register lane (R40, R64, R65). -/
def scaledEncode (f : Nat) (a w : Word) : Nat × Flags :=
  let x := f32 a
  let r := scaleMul x w
  let c := convTo f r.1
  (c.1, c.2 ||| flagIf (r.2 || x.isSig) fNV)

/-- An entry of a scale table; an entry not listed is 1.0 (R62). -/
def scaleAt (t : List Word) (i : Nat) : Word := lget 0x3F800000 t i

/-! ### Trees (R46) -/

/-- Neighbouring pairs combined. -/
def pairs (f : Word → Word → Word × Flags) : List (Word × Flags) → List (Word × Flags)
  | a :: b :: l => let r := f a.1 b.1; (r.1, r.2 ||| a.2 ||| b.2) :: pairs f l
  | l => l

/-- The tree of R46 over 2^`n` values. -/
def tree (f : Word → Word → Word × Flags) : Nat → List (Word × Flags) → Word × Flags
  | 0, l => l.headD (0, 0)
  | n + 1, l => tree f n (pairs f l)

end Sys2Proof.Machine
end

