-- ==== Sys2Proof/WellFormed.lean ====
section
/-! DEFINITION. Which slot operations are legal: the register names of R24 and R73 and the immediates, selectors and
must-be-zero fields that each entry states. An operation that is not well formed raises ILLOP (R19). -/

namespace Sys2Proof

/-- An immediate of `n` bits, sign-extended (R13). -/
def immFits (k : Int) (n : Nat) : Bool := -(2 ^ (n - 1)) ≤ k && k < 2 ^ (n - 1)

/-- A selector of `nset` and `nseti` (R157). -/
def nestSel (s : Nat) : Bool := s ≤ 4 || (8 ≤ s && s ≤ 0x1F)

/-- The immediates, selectors and channel, group, token, tile and slab numbers of an operation. -/
def immLegal : Instr → Bool
  | .add g d a b => !(g = 0 && d = 0 && a = 0 && b = 0)
  | .addi _ _ _ k | .andi _ _ _ k | .ori _ _ _ k | .xori _ _ _ k | .slti _ _ _ k | .sltui _ _ _ k | .seqi _ _ _ k
  | .mini _ _ _ k | .maxi _ _ _ k | .muli _ _ _ k => immFits k 13
  | .shli _ _ _ k | .shri _ _ _ k | .sari _ _ _ k => 0 ≤ k && k ≤ 31
  | .li _ _ k | .lpc _ _ k => immFits k 21
  | .lhi _ _ i => i < 65536
  | .br _ a o | .brn _ a o => a < 64 && immFits o 19
  | .bz _ _ o | .bnz _ _ o | .jmp _ o | .call _ o | .jr _ _ o | .calr _ _ o | .brlc _ o => immFits o 19
  | .loops _ _ e => e < 64
  | .ldW _ _ _ k | .ldH _ _ _ k | .ldHu _ _ _ k | .ldB _ _ _ k | .ldBu _ _ _ k | .stW _ _ _ k | .stH _ _ _ k
  | .stB _ _ _ k | .ldf _ _ _ k | .ldfe _ _ _ k | .stef _ _ _ k | .stf _ _ _ k | .clrf _ _ k => immFits k 13
  | .csrr _ _ c | .csrw _ _ c | .csrs _ _ c | .csrc _ _ c => Machine.csrDefined c
  | .trap _ _ k => k < 256
  | .wait _ ql qs cp tl => ql < 32 && qs < 32 && cp < 64 && tl < 4
  | .twait _ m => m < 256
  | .gjoin _ n | .gleave _ n | .gsync _ n => n < 64
  | .tdom _ _ s => s ≤ 2 || (4 ≤ s && s ≤ 6) || (8 ≤ s && s ≤ 10) || s = 12 || s = 13
  | .tbud _ _ s => s ≤ 4
  | .rtime _ _ s => s ≤ 2
  | .tinvEntry _ d => d ≠ 0
  | .pget _ _ _ h | .pput _ _ _ h => h ≤ 1
  | .vpackBf _ _ _ q k | .vpackH _ _ _ q k => q ≤ 1 && k ≤ 15
  | .vpackD8 _ _ _ q k | .vpackI8 _ _ _ q k => q ≤ 3 && k ≤ 15
  | .vunpkBf _ _ _ q | .vunpkH _ _ _ q => q ≤ 1
  | .vunpkD8 _ _ _ q | .vunpkI8 _ _ _ q => q ≤ 3
  | .vld _ _ _ k | .vst _ _ _ k | .vldf _ _ _ k | .vstf _ _ _ k | .vqld _ _ k | .vqst _ _ _ k | .vldd _ _ _ k =>
    immFits k 11
  | .nset _ s _ => nestSel s
  | .nseti _ s k => nestSel s && immFits k 12
  | .nstop _ l => l ≤ 1
  | .tzero _ t n m => t ≤ 95 && 1 ≤ n && n ≤ 63 && m ≤ 1 && t + n ≤ 96
  | .tout _ t _ _ | .tin _ t _ _ | .tacc _ t _ _ => t ≤ 95
  | .tmov _ t s => t ≤ 95 && s ≤ 95
  | .wbld _ b _ _ => b ≤ 63
  | .wprn24 _ b s | .wprn48 _ b s => b ≤ 63 && s ≤ 62
  | .tmma _ t s _ => t ≤ 95 && s ≤ 63
  | .ccp _ t f _ _ | .cnd _ t f _ _ | .cgat _ t f _ _ | .csct _ t f _ _ | .cfill _ t f _ _ | .cred _ t f _ _ =>
    t < 8 && f < 8
  | .cwb _ t f _ _ | .csig _ t f _ _ => t < 8 && (f = 0 || f = 4)
  | .xar _ t f _ _ | .xrs _ t f _ _ | .xag _ t f _ _ | .xbc _ t f _ _ | .xmrg _ t f _ _ | .xred _ t f _ _
  | .xbar _ t f _ _ => t < 8 && (f = 0 || f = 1 || f = 4 || f = 5)
  | .chbind _ d c => 57 ≤ d && d ≤ 60 && c < 64
  | .chbindUnbind _ d => 57 ≤ d && d ≤ 60
  | .csnd _ c _ => c < 64
  | .crcv _ _ c | .crad _ _ c => c < 64
  | _ => true

/-- A legal operation: registers by R24 and R73, immediates and selectors by its entry. -/
def wellFormed (i : Instr) : Bool := (Machine.shape i).regsLegal && immLegal i

/-- Whether an instruction is a slot operation: it has an encoding of its own and is no header bit. -/
def slotOp (i : Instr) : Bool :=
  match (Machine.shape i).cls with
  | .dev | .hdr => false
  | _ => true

end Sys2Proof
end

