-- ==== Sys2Proof/Decode.lean ====
section
/-! DEFINITION. From bits to instructions and back: the slot formats of R16, the extension fields of R13, the opcode map
of R27 to R29, the bundle with its header (R8 to R12) and the decode checks of R19 to R23, in their order. -/

namespace Sys2Proof

open Machine (sextNat wrapInt)

/-- A slot word with its extension byte; `short` says that the word alone, in a bundle without a header, stands for the
same operation. -/
structure Enc where
  word : Nat
  ext : Nat
  short : Bool
  deriving DecidableEq, Repr

/-- The guard in EXT[7:5] ‖ G (R13). -/
def encG (maj g rest e : Nat) (s : Bool) : Enc :=
  { word := maj * 2 ^ 28 + g % 16 * 2 ^ 24 + rest, ext := g / 16 * 32 + e, short := s && g < 16 }

/-- TR, CR, MF, EF and register VX: a six-bit opcode and three six-bit fields, bit 6 of each in EXT[4:2] (R13). -/
def encTR (maj op g d a b : Nat) : Enc :=
  encG maj g (op * 2 ^ 18 + d % 64 * 2 ^ 12 + a % 64 * 2 ^ 6 + b % 64) (d / 64 * 16 + a / 64 * 8 + b / 64 * 4)
    (d < 64 && a < 64 && b < 64)

/-- IM: IMM13 = EXT[4:0] ‖ IMM8. -/
def encIM (maj op g d a : Nat) (k : Int) : Enc :=
  encG maj g (op * 2 ^ 20 + d * 2 ^ 14 + a * 2 ^ 8 + wrapInt k 13 % 256) (wrapInt k 13 / 256) (immFits k 8)

/-- LG: IMM21 = EXT[4:0] ‖ IMM16. -/
def encLG (maj op g d : Nat) (k : Int) : Enc :=
  encG maj g (op * 2 ^ 22 + d * 2 ^ 16 + wrapInt k 21 % 65536) (wrapInt k 21 / 65536) (immFits k 16)

/-- `lhi`: IMM16 unsigned, no extension. -/
def encLHI (g d i : Nat) : Enc := encG 2 g (1 * 2 ^ 22 + d * 2 ^ 16 + i) 0 true

/-- BF: OFF19 = EXT[4:0] ‖ OFF14. -/
def encBF (maj op g a : Nat) (o : Int) : Enc :=
  encG maj g (op * 2 ^ 20 + a * 2 ^ 14 + wrapInt o 19 % 16384) (wrapInt o 19 / 16384) (immFits o 14)

/-- VX with an immediate: IMM11 = EXT[4:0] ‖ B. -/
def encVXI (op g v a : Nat) (k : Int) : Enc :=
  encG 8 g (op * 2 ^ 18 + v * 2 ^ 12 + a * 2 ^ 6 + wrapInt k 11 % 64) (wrapInt k 11 / 64) (immFits k 6)

/-- WT. -/
def encWT (g ql qs cp tl : Nat) : Enc :=
  encG 5 g (6 * 2 ^ 18 + ql * 2 ^ 13 + qs * 2 ^ 8 + cp * 4 + tl) 0 true

/-- The word and extension byte of a slot operation; the header word of a header bit, no slot extended; zero for a step of the device,
which has no encoding. -/
def encode : Instr → Enc
  | .nop => { word := 0, ext := 0, short := true }
  | .endB vj => { word := 15 * 2 ^ 28 + 2 ^ 27 + (if vj then 2 ^ 26 else 0), ext := 0, short := true }
  | .vjoin => { word := 15 * 2 ^ 28 + 2 ^ 26, ext := 0, short := true }
  | .add g d a b => encTR 0 0 g d a b
  | .sub g d a b => encTR 0 1 g d a b
  | .and g d a b => encTR 0 2 g d a b
  | .or g d a b => encTR 0 3 g d a b
  | .xor g d a b => encTR 0 4 g d a b
  | .andn g d a b => encTR 0 5 g d a b
  | .shl g d a b => encTR 0 6 g d a b
  | .shr g d a b => encTR 0 7 g d a b
  | .sar g d a b => encTR 0 8 g d a b
  | .rotr g d a b => encTR 0 9 g d a b
  | .slt g d a b => encTR 0 10 g d a b
  | .sltu g d a b => encTR 0 11 g d a b
  | .seq g d a b => encTR 0 12 g d a b
  | .sne g d a b => encTR 0 13 g d a b
  | .min g d a b => encTR 0 14 g d a b
  | .max g d a b => encTR 0 15 g d a b
  | .minu g d a b => encTR 0 16 g d a b
  | .maxu g d a b => encTR 0 17 g d a b
  | .mul g d a b => encTR 0 18 g d a b
  | .mulh g d a b => encTR 0 19 g d a b
  | .mulhu g d a b => encTR 0 20 g d a b
  | .div g d a b => encTR 0 21 g d a b
  | .divu g d a b => encTR 0 22 g d a b
  | .rem g d a b => encTR 0 23 g d a b
  | .remu g d a b => encTR 0 24 g d a b
  | .clz g d a => encTR 0 25 g d a 0
  | .ctz g d a => encTR 0 26 g d a 0
  | .popc g d a => encTR 0 27 g d a 0
  | .sel g d a b => encTR 0 28 g d a b
  | .bfx g d a b => encTR 0 29 g d a b
  | .bfi g d a b => encTR 0 30 g d a b
  | .addi g d a k => encIM 1 0 g d a k
  | .andi g d a k => encIM 1 1 g d a k
  | .ori g d a k => encIM 1 2 g d a k
  | .xori g d a k => encIM 1 3 g d a k
  | .shli g d a k => encIM 1 4 g d a k
  | .shri g d a k => encIM 1 5 g d a k
  | .sari g d a k => encIM 1 6 g d a k
  | .slti g d a k => encIM 1 7 g d a k
  | .sltui g d a k => encIM 1 8 g d a k
  | .seqi g d a k => encIM 1 9 g d a k
  | .mini g d a k => encIM 1 10 g d a k
  | .maxi g d a k => encIM 1 11 g d a k
  | .muli g d a k => encIM 1 12 g d a k
  | .li g d k => encLG 2 0 g d k
  | .lhi g d i => encLHI g d i
  | .lpc g d k => encLG 2 2 g d k
  | .br g a o => encBF 3 0 g a o
  | .brn g a o => encBF 3 1 g a o
  | .bz g a o => encBF 3 2 g a o
  | .bnz g a o => encBF 3 3 g a o
  | .jmp g o => encBF 3 4 g 0 o
  | .call g o => encBF 3 5 g 0 o
  | .jr g a o => encBF 3 6 g a o
  | .calr g a o => encBF 3 7 g a o
  | .brlc g o => encBF 3 8 g 0 o
  | .loops g a e => encBF 3 9 g a e
  | .ldW g d a k => encIM 4 0 g d a k
  | .ldH g d a k => encIM 4 1 g d a k
  | .ldHu g d a k => encIM 4 2 g d a k
  | .ldB g d a k => encIM 4 3 g d a k
  | .ldBu g d a k => encIM 4 4 g d a k
  | .stW g d a k => encIM 4 5 g d a k
  | .stH g d a k => encIM 4 6 g d a k
  | .stB g d a k => encIM 4 7 g d a k
  | .ldf g d a k => encIM 4 8 g d a k
  | .ldfe g d a k => encIM 4 9 g d a k
  | .stef g d a k => encIM 4 10 g d a k
  | .stf g d a k => encIM 4 11 g d a k
  | .clrf g a k => encIM 4 12 g 0 a k
  | .csrr g d c => encTR 5 0 g d (c / 64) (c % 64)
  | .csrw g d c => encTR 5 1 g d (c / 64) (c % 64)
  | .csrs g d c => encTR 5 2 g d (c / 64) (c % 64)
  | .csrc g d c => encTR 5 3 g d (c / 64) (c % 64)
  | .trap g d k => encTR 5 4 g d (k / 64) (k % 64)
  | .eret g => encTR 5 5 g 0 0 0
  | .wait g ql qs cp tl => encWT g ql qs cp tl
  | .twait g m => encTR 5 7 g 0 (m / 64) (m % 64)
  | .gjoin g n => encTR 5 8 g 0 n 0
  | .gleave g n => encTR 5 9 g 0 n 0
  | .gsync g n => encTR 5 10 g 0 n 0
  | .fold g => encTR 5 11 g 0 0 0
  | .tdom g d s => encTR 5 12 g d 0 s
  | .tbud g d s => encTR 5 13 g d 0 s
  | .snapr g d a b => encTR 5 14 g d a b
  | .snapw g d a b => encTR 5 15 g d a b
  | .tlook g d a b => encTR 5 16 g d a b
  | .tins g d a b => encTR 5 17 g d a b
  | .tinvVa g a b => encTR 5 18 g 0 a b
  | .tinvEntry g d => encTR 5 18 g d 0 0
  | .pand g d a b => encTR 5 19 g d a b
  | .por g d a b => encTR 5 20 g d a b
  | .pxor g d a b => encTR 5 21 g d a b
  | .pandn g d a b => encTR 5 22 g d a b
  | .pnez g d a => encTR 5 23 g d a 0
  | .pget g d a h => encTR 5 24 g d a h
  | .pput g d a h => encTR 5 25 g d a h
  | .pcnt g d a => encTR 5 26 g d a 0
  | .pfirst g d a => encTR 5 27 g d a 0
  | .rtime g d s => encTR 5 28 g d 0 s
  | .vaddF g d a b => encTR 6 0 g d a b
  | .vsubF g d a b => encTR 6 1 g d a b
  | .vmulF g d a b => encTR 6 2 g d a b
  | .vfmaF g d a b => encTR 6 3 g d a b
  | .vfmsF g d a b => encTR 6 4 g d a b
  | .vfnmaF g d a b => encTR 6 5 g d a b
  | .vminF g d a b => encTR 6 6 g d a b
  | .vmaxF g d a b => encTR 6 7 g d a b
  | .vabsF g d a => encTR 6 8 g d a 0
  | .vnegF g d a => encTR 6 9 g d a 0
  | .vdivF g d a b => encTR 6 10 g d a b
  | .vsqrtF g d a => encTR 6 11 g d a 0
  | .vrsqrtF g d a => encTR 6 12 g d a 0
  | .vrcpF g d a => encTR 6 13 g d a 0
  | .vexp2F g d a => encTR 6 14 g d a 0
  | .vlog2F g d a => encTR 6 15 g d a 0
  | .vfeq g d a b => encTR 6 16 g d a b
  | .vfne g d a b => encTR 6 17 g d a b
  | .vflt g d a b => encTR 6 18 g d a b
  | .vfle g d a b => encTR 6 19 g d a b
  | .vfun g d a b => encTR 6 20 g d a b
  | .vsel g d a b => encTR 6 21 g d a b
  | .vsumF g d a => encTR 6 22 g d a 0
  | .vmaxrF g d a => encTR 6 23 g d a 0
  | .vminrF g d a => encTR 6 24 g d a 0
  | .vroundF g d a => encTR 6 25 g d a 0
  | .vtruncF g d a => encTR 6 26 g d a 0
  | .vaddI g d a b => encTR 7 0 g d a b
  | .vsubI g d a b => encTR 7 1 g d a b
  | .vmulI g d a b => encTR 7 2 g d a b
  | .vmulhI g d a b => encTR 7 3 g d a b
  | .vand g d a b => encTR 7 4 g d a b
  | .vor g d a b => encTR 7 5 g d a b
  | .vxor g d a b => encTR 7 6 g d a b
  | .vshl g d a b => encTR 7 7 g d a b
  | .vshr g d a b => encTR 7 8 g d a b
  | .vsar g d a b => encTR 7 9 g d a b
  | .vminI g d a b => encTR 7 10 g d a b
  | .vmaxI g d a b => encTR 7 11 g d a b
  | .vminuI g d a b => encTR 7 12 g d a b
  | .vmaxuI g d a b => encTR 7 13 g d a b
  | .vieq g d a b => encTR 7 14 g d a b
  | .vilt g d a b => encTR 7 15 g d a b
  | .viltu g d a b => encTR 7 16 g d a b
  | .vsumI g d a => encTR 7 17 g d a 0
  | .vbcast g d a => encTR 7 18 g d a 0
  | .vgetl g d a b => encTR 7 19 g d a b
  | .vsetl g d a b => encTR 7 20 g d a b
  | .vperm g d a b => encTR 7 21 g d a b
  | .vrot g d a b => encTR 7 22 g d a b
  | .vid g d => encTR 7 23 g d 0 0
  | .vcvtFi g d a => encTR 7 24 g d a 0
  | .vcvtIf g d a => encTR 7 25 g d a 0
  | .vtruncI g d a => encTR 7 26 g d a 0
  | .vpackBf g d a part k => encTR 7 27 g d a (part * 16 + k)
  | .vpackH g d a part k => encTR 7 28 g d a (part * 16 + k)
  | .vpackD8 g d a part k => encTR 7 29 g d a (part * 16 + k)
  | .vpackI8 g d a part k => encTR 7 30 g d a (part * 16 + k)
  | .vunpkBf g d a part => encTR 7 31 g d a (part * 16)
  | .vunpkH g d a part => encTR 7 32 g d a (part * 16)
  | .vunpkD8 g d a part => encTR 7 33 g d a (part * 16)
  | .vunpkI8 g d a part => encTR 7 34 g d a (part * 16)
  | .vld g v a k => encVXI 0 g v a k
  | .vst g v a k => encVXI 1 g v a k
  | .vlds g v a b => encTR 8 2 g v a b
  | .vsts g v a b => encTR 8 3 g v a b
  | .vldx g v a b => encTR 8 4 g v a b
  | .vstx g v a b => encTR 8 5 g v a b
  | .vldf g v a k => encVXI 6 g v a k
  | .vstf g v a k => encVXI 7 g v a k
  | .vqld g a k => encVXI 8 g 0 a k
  | .vqst g v a k => encVXI 9 g v a k
  | .vldd g v a k => encVXI 10 g v a k
  | .vstd g v a b => encTR 8 11 g v a b
  | .vprn24 g v a b => encTR 8 12 g v a b
  | .vprn48 g v a b => encTR 8 13 g v a b
  | .vsdot g v a b => encTR 8 14 g v a b
  | .vexpd g v a => encTR 8 15 g v a 0
  | .vdot4I8 g v a b => encTR 8 16 g v a b
  | .vdot2Bf g v a b => encTR 8 17 g v a b
  | .nset g s a => encTR 9 0 g s a 0
  | .nseti g s k => encTR 9 1 g s (wrapInt k 12 / 64) (wrapInt k 12 % 64)
  | .ngo g => encTR 9 2 g 0 0 0
  | .nstop g l => encTR 9 3 g 0 0 l
  | .cseq g a => encTR 9 4 g 0 a 0
  | .mscl g a => encTR 9 5 g 0 a 0
  | .tzero g t n m => encTR 9 6 g t n m
  | .tout g t a b => encTR 9 7 g t a b
  | .tin g t a b => encTR 9 8 g t a b
  | .tacc g t a b => encTR 9 9 g t a b
  | .tmov g t s => encTR 9 10 g t s 0
  | .wbld g b a u => encTR 9 11 g b a u
  | .wprn24 g b s => encTR 9 12 g b s 0
  | .wprn48 g b s => encTR 9 13 g b s 0
  | .tmma g t s a => encTR 9 14 g t s a
  | .ccp g t fl a b => encTR 11 0 g (t * 8 + fl) a b
  | .cnd g t fl a b => encTR 11 1 g (t * 8 + fl) a b
  | .cgat g t fl a b => encTR 11 2 g (t * 8 + fl) a b
  | .csct g t fl a b => encTR 11 3 g (t * 8 + fl) a b
  | .cwb g t fl a b => encTR 11 4 g (t * 8 + fl) a b
  | .cfill g t fl a b => encTR 11 5 g (t * 8 + fl) a b
  | .cred g t fl a b => encTR 11 6 g (t * 8 + fl) a b
  | .csig g t fl a b => encTR 11 7 g (t * 8 + fl) a b
  | .chbind g d c => encTR 12 0 g d c 0
  | .chbindUnbind g d => encTR 12 0 g d 0 1
  | .csnd g c a => encTR 12 1 g c a 0
  | .crcv g d c => encTR 12 2 g d c 0
  | .crad g d c => encTR 12 3 g d c 0
  | .fld g a => encTR 12 4 g 0 a 0
  | .fst g a b => encTR 12 5 g 0 a b
  | .famoAdd g a b => encTR 12 6 g 0 a b
  | .famoMax g a b => encTR 12 7 g 0 a b
  | .famoOr g a b => encTR 12 8 g 0 a b
  | .famoSwap g a b => encTR 12 9 g 0 a b
  | .xar g t fl a b => encTR 12 10 g (t * 8 + fl) a b
  | .xrs g t fl a b => encTR 12 11 g (t * 8 + fl) a b
  | .xag g t fl a b => encTR 12 12 g (t * 8 + fl) a b
  | .xbc g t fl a b => encTR 12 13 g (t * 8 + fl) a b
  | .xmrg g t fl a b => encTR 12 14 g (t * 8 + fl) a b
  | .xred g t fl a b => encTR 12 15 g (t * 8 + fl) a b
  | .xbar g t fl a b => encTR 12 16 g (t * 8 + fl) a b
  | .qldW g a b => encTR 13 0 g 0 a b
  | .qldH g a b => encTR 13 1 g 0 a b
  | .qldB g a b => encTR 13 2 g 0 a b
  | .qstW g d a b => encTR 13 3 g d a b
  | .qstH g d a b => encTR 13 4 g d a b
  | .qstB g d a b => encTR 13 5 g d a b
  | .amoAdd g a b => encTR 13 6 g 0 a b
  | .amoAnd g a b => encTR 13 7 g 0 a b
  | .amoOr g a b => encTR 13 8 g 0 a b
  | .amoXor g a b => encTR 13 9 g 0 a b
  | .amoMin g a b => encTR 13 10 g 0 a b
  | .amoMax g a b => encTR 13 11 g 0 a b
  | .amoMinu g a b => encTR 13 12 g 0 a b
  | .amoMaxu g a b => encTR 13 13 g 0 a b
  | .amoSwap g a b => encTR 13 14 g 0 a b
  | .amoCas g d a b => encTR 13 15 g d a b
  | .rwlRd g a => encTR 13 16 g 0 a 0
  | .rwlWr g a => encTR 13 17 g 0 a 0
  | .rwlRu g a => encTR 13 18 g 0 a 0
  | .rwlWu g a => encTR 13 19 g 0 a 0
  | .waita g a b => encTR 13 20 g 0 a b
  | .waitc g a b => encTR 13 21 g 0 a b
  | .asyncFaultDelivery | .resultLanding | .slipService | .translationAnswer | .overlayFill | .holdExpiry
  | .cycleAllowanceExpiry | .gsyncLineGrant | .gsyncEpisodeComplete | .rebase | .rebaseDone | .queuedAccessAtHome
  | .queuedResultReturn | .queuedStorePerformed | .mOpStart | .passStart | .passLanding | .tileRowTransfer
  | .mOpComplete | .commandStart | .workSteal | .commandBlockStep | .commandComplete | .channelMessageArrival
  | .channelCreditReturn | .heldRelease | .coreFreed | .arm | .launchAccept | .nodeArrival | .taskDispatch
  | .taskAging | .preemptionSaved | .foldComplete | .foldCleanupDone | .endDetectionSample | .hangWatchdogExpiry
  | .meshFlitHop | .calendarOwnershipChange | .ucieAdapterForward | .linkPacketSend | .linkPacketReceive | .ack
  | .nak | .ackTimerExpiry | .replayTimeout | .laneFailure | .retrainDone | .trainingRetry | .remoteWrite
  | .readRequest | .readResponse | .atomicRequest | .atomicResponse | .writeDone | .negativeAcknowledgement
  | .collectiveContribution | .reductionSlotExpiry | .collectiveResult | .mismatchNotice | .generationFlip
  | .oldGenerationCount | .time | .rotaBoundary | .rotaColumnApply | .prepare | .ready | .refuse | .sample
  | .counts | .capture | .commit | .abort | .done | .kfull | .voteReplyTimeout | .sampleTimer | .drainTimeout
  | .captureTimeout | .voteRetry | .kennelReinject | .exchangeComplete | .coreset | .shrink | .shrinkComplete
  | .shrinkHandlerTimeout | .teardown | .rdmaWrite | .rdmaRead | .atomicCmpSwap | .atomicFetchAdd
  | .unsupportedRequest | .hostSignalPost | .inval | .invalidationComplete | .ovlflush | .drainmax
  | .routeTableWrite | .attest | .hubRegisterWrite | .imageRegistration | .singleBitError | .uncorrectableError
  | .packageReset | .selfTestPass | .thermalTrip | .lstatGoodWrite | .vcCreditReturn => { word := 0, ext := 0, short := false }

/-- XA (R75). -/
def decXA (op g d a b : Nat) : Option Instr :=
  match op with
  | 0x00 => some (.add g d a b)
  | 0x01 => some (.sub g d a b)
  | 0x02 => some (.and g d a b)
  | 0x03 => some (.or g d a b)
  | 0x04 => some (.xor g d a b)
  | 0x05 => some (.andn g d a b)
  | 0x06 => some (.shl g d a b)
  | 0x07 => some (.shr g d a b)
  | 0x08 => some (.sar g d a b)
  | 0x09 => some (.rotr g d a b)
  | 0x0A => some (.slt g d a b)
  | 0x0B => some (.sltu g d a b)
  | 0x0C => some (.seq g d a b)
  | 0x0D => some (.sne g d a b)
  | 0x0E => some (.min g d a b)
  | 0x0F => some (.max g d a b)
  | 0x10 => some (.minu g d a b)
  | 0x11 => some (.maxu g d a b)
  | 0x12 => some (.mul g d a b)
  | 0x13 => some (.mulh g d a b)
  | 0x14 => some (.mulhu g d a b)
  | 0x15 => some (.div g d a b)
  | 0x16 => some (.divu g d a b)
  | 0x17 => some (.rem g d a b)
  | 0x18 => some (.remu g d a b)
  | 0x19 => if b = 0 then some (.clz g d a) else none
  | 0x1A => if b = 0 then some (.ctz g d a) else none
  | 0x1B => if b = 0 then some (.popc g d a) else none
  | 0x1C => some (.sel g d a b)
  | 0x1D => some (.bfx g d a b)
  | 0x1E => some (.bfi g d a b)
  | _ => none

/-- XI (R78): the field D, A and the immediate. -/
def decXI (op g d a : Nat) (k : Int) : Option Instr :=
  match op with
  | 0x0 => some (.addi g d a k)
  | 0x1 => some (.andi g d a k)
  | 0x2 => some (.ori g d a k)
  | 0x3 => some (.xori g d a k)
  | 0x4 => some (.shli g d a k)
  | 0x5 => some (.shri g d a k)
  | 0x6 => some (.sari g d a k)
  | 0x7 => some (.slti g d a k)
  | 0x8 => some (.sltui g d a k)
  | 0x9 => some (.seqi g d a k)
  | 0xA => some (.mini g d a k)
  | 0xB => some (.maxi g d a k)
  | 0xC => some (.muli g d a k)
  | _ => none

/-- XB (R80, R84). `o` is the sign-extended offset, `u` its raw field with the extension. -/
def decXB (op g a : Nat) (o : Int) (u : Nat) : Option Instr :=
  match op with
  | 0x0 => some (.br g a o)
  | 0x1 => some (.brn g a o)
  | 0x2 => some (.bz g a o)
  | 0x3 => some (.bnz g a o)
  | 0x4 => if a = 0 then some (.jmp g o) else none
  | 0x5 => if a = 0 then some (.call g o) else none
  | 0x6 => some (.jr g a o)
  | 0x7 => some (.calr g a o)
  | 0x8 => if a = 0 then some (.brlc g o) else none
  | 0x9 => if u < 64 then some (.loops g a u) else none
  | _ => none

/-- XM (R128). -/
def decXM (op g d a : Nat) (k : Int) : Option Instr :=
  match op with
  | 0x0 => some (.ldW g d a k)
  | 0x1 => some (.ldH g d a k)
  | 0x2 => some (.ldHu g d a k)
  | 0x3 => some (.ldB g d a k)
  | 0x4 => some (.ldBu g d a k)
  | 0x5 => some (.stW g d a k)
  | 0x6 => some (.stH g d a k)
  | 0x7 => some (.stB g d a k)
  | 0x8 => some (.ldf g d a k)
  | 0x9 => some (.ldfe g d a k)
  | 0xA => some (.stef g d a k)
  | 0xB => some (.stf g d a k)
  | 0xC => if d = 0 then some (.clrf g a k) else none
  | _ => none

/-- XS (R87 to R102), all but `wait`. -/
def decXS (op g d a b : Nat) : Option Instr :=
  match op with
  | 0x00 => if a < 64 ∧ b < 64 then some (.csrr g d (a * 64 + b)) else none
  | 0x01 => if a < 64 ∧ b < 64 then some (.csrw g d (a * 64 + b)) else none
  | 0x02 => if a < 64 ∧ b < 64 then some (.csrs g d (a * 64 + b)) else none
  | 0x03 => if a < 64 ∧ b < 64 then some (.csrc g d (a * 64 + b)) else none
  | 0x04 => if a < 4 ∧ b < 64 then some (.trap g d (a * 64 + b)) else none
  | 0x05 => if d = 0 ∧ a = 0 ∧ b = 0 then some (.eret g) else none
  | 0x07 => if d = 0 ∧ a < 4 ∧ b < 64 then some (.twait g (a * 64 + b)) else none
  | 0x08 => if d = 0 ∧ b = 0 then some (.gjoin g a) else none
  | 0x09 => if d = 0 ∧ b = 0 then some (.gleave g a) else none
  | 0x0A => if d = 0 ∧ b = 0 then some (.gsync g a) else none
  | 0x0B => if d = 0 ∧ a = 0 ∧ b = 0 then some (.fold g) else none
  | 0x0C => if a = 0 then some (.tdom g d b) else none
  | 0x0D => if a = 0 then some (.tbud g d b) else none
  | 0x0E => some (.snapr g d a b)
  | 0x0F => some (.snapw g d a b)
  | 0x10 => some (.tlook g d a b)
  | 0x11 => some (.tins g d a b)
  | 0x12 => if d = 0 then some (.tinvVa g a b) else if a = 0 ∧ b = 0 then some (.tinvEntry g d) else none
  | 0x13 => some (.pand g d a b)
  | 0x14 => some (.por g d a b)
  | 0x15 => some (.pxor g d a b)
  | 0x16 => some (.pandn g d a b)
  | 0x17 => if b = 0 then some (.pnez g d a) else none
  | 0x18 => some (.pget g d a b)
  | 0x19 => some (.pput g d a b)
  | 0x1A => if b = 0 then some (.pcnt g d a) else none
  | 0x1B => if b = 0 then some (.pfirst g d a) else none
  | 0x1C => if a = 0 then some (.rtime g d b) else none
  | _ => none

/-- VA (R108 to R114). -/
def decVA (op g d a b : Nat) : Option Instr :=
  match op with
  | 0x00 => some (.vaddF g d a b)
  | 0x01 => some (.vsubF g d a b)
  | 0x02 => some (.vmulF g d a b)
  | 0x03 => some (.vfmaF g d a b)
  | 0x04 => some (.vfmsF g d a b)
  | 0x05 => some (.vfnmaF g d a b)
  | 0x06 => some (.vminF g d a b)
  | 0x07 => some (.vmaxF g d a b)
  | 0x08 => if b = 0 then some (.vabsF g d a) else none
  | 0x09 => if b = 0 then some (.vnegF g d a) else none
  | 0x0A => some (.vdivF g d a b)
  | 0x0B => if b = 0 then some (.vsqrtF g d a) else none
  | 0x0C => if b = 0 then some (.vrsqrtF g d a) else none
  | 0x0D => if b = 0 then some (.vrcpF g d a) else none
  | 0x0E => if b = 0 then some (.vexp2F g d a) else none
  | 0x0F => if b = 0 then some (.vlog2F g d a) else none
  | 0x10 => some (.vfeq g d a b)
  | 0x11 => some (.vfne g d a b)
  | 0x12 => some (.vflt g d a b)
  | 0x13 => some (.vfle g d a b)
  | 0x14 => some (.vfun g d a b)
  | 0x15 => some (.vsel g d a b)
  | 0x16 => if b = 0 then some (.vsumF g d a) else none
  | 0x17 => if b = 0 then some (.vmaxrF g d a) else none
  | 0x18 => if b = 0 then some (.vminrF g d a) else none
  | 0x19 => if b = 0 then some (.vroundF g d a) else none
  | 0x1A => if b = 0 then some (.vtruncF g d a) else none
  | _ => none

/-- VB (R115 to R121). -/
def decVB (op g d a b : Nat) : Option Instr :=
  match op with
  | 0x00 => some (.vaddI g d a b)
  | 0x01 => some (.vsubI g d a b)
  | 0x02 => some (.vmulI g d a b)
  | 0x03 => some (.vmulhI g d a b)
  | 0x04 => some (.vand g d a b)
  | 0x05 => some (.vor g d a b)
  | 0x06 => some (.vxor g d a b)
  | 0x07 => some (.vshl g d a b)
  | 0x08 => some (.vshr g d a b)
  | 0x09 => some (.vsar g d a b)
  | 0x0A => some (.vminI g d a b)
  | 0x0B => some (.vmaxI g d a b)
  | 0x0C => some (.vminuI g d a b)
  | 0x0D => some (.vmaxuI g d a b)
  | 0x0E => some (.vieq g d a b)
  | 0x0F => some (.vilt g d a b)
  | 0x10 => some (.viltu g d a b)
  | 0x11 => if b = 0 then some (.vsumI g d a) else none
  | 0x12 => if b = 0 then some (.vbcast g d a) else none
  | 0x13 => some (.vgetl g d a b)
  | 0x14 => some (.vsetl g d a b)
  | 0x15 => some (.vperm g d a b)
  | 0x16 => some (.vrot g d a b)
  | 0x17 => if a = 0 ∧ b = 0 then some (.vid g d) else none
  | 0x18 => if b = 0 then some (.vcvtFi g d a) else none
  | 0x19 => if b = 0 then some (.vcvtIf g d a) else none
  | 0x1A => if b = 0 then some (.vtruncI g d a) else none
  | 0x1B => if b < 64 then some (.vpackBf g d a (b / 16) (b % 16)) else none
  | 0x1C => if b < 64 then some (.vpackH g d a (b / 16) (b % 16)) else none
  | 0x1D => if b < 64 then some (.vpackD8 g d a (b / 16) (b % 16)) else none
  | 0x1E => if b < 64 then some (.vpackI8 g d a (b / 16) (b % 16)) else none
  | 0x1F => if b < 64 ∧ b % 16 = 0 then some (.vunpkBf g d a (b / 16)) else none
  | 0x20 => if b < 64 ∧ b % 16 = 0 then some (.vunpkH g d a (b / 16)) else none
  | 0x21 => if b < 64 ∧ b % 16 = 0 then some (.vunpkD8 g d a (b / 16)) else none
  | 0x22 => if b < 64 ∧ b % 16 = 0 then some (.vunpkI8 g d a (b / 16)) else none
  | _ => none

/-- VM with a register or predicate B (R141). -/
def decVMr (op g d a b : Nat) : Option Instr :=
  match op with
  | 0x02 => some (.vlds g d a b)
  | 0x03 => some (.vsts g d a b)
  | 0x04 => some (.vldx g d a b)
  | 0x05 => some (.vstx g d a b)
  | 0x0B => some (.vstd g d a b)
  | 0x0C => some (.vprn24 g d a b)
  | 0x0D => some (.vprn48 g d a b)
  | 0x0E => some (.vsdot g d a b)
  | 0x0F => if b = 0 then some (.vexpd g d a) else none
  | 0x10 => some (.vdot4I8 g d a b)
  | 0x11 => some (.vdot2Bf g d a b)
  | _ => none

/-- VM with an immediate (R141). -/
def decVMi (op g d a : Nat) (k : Int) : Option Instr :=
  match op with
  | 0x00 => some (.vld g d a k)
  | 0x01 => some (.vst g d a k)
  | 0x06 => some (.vldf g d a k)
  | 0x07 => some (.vstf g d a k)
  | 0x08 => if d = 0 then some (.vqld g a k) else none
  | 0x09 => some (.vqst g d a k)
  | 0x0A => some (.vldd g d a k)
  | _ => none

/-- MA (R151). -/
def decMA (op g d a b : Nat) : Option Instr :=
  match op with
  | 0x00 => if b = 0 then some (.nset g d a) else none
  | 0x01 => if a < 64 ∧ b < 64 then some (.nseti g d (sextNat (a * 64 + b) 12)) else none
  | 0x02 => if d = 0 ∧ a = 0 ∧ b = 0 then some (.ngo g) else none
  | 0x03 => if d = 0 ∧ a = 0 then some (.nstop g b) else none
  | 0x04 => if d = 0 ∧ b = 0 then some (.cseq g a) else none
  | 0x05 => if d = 0 ∧ b = 0 then some (.mscl g a) else none
  | 0x06 => some (.tzero g d a b)
  | 0x07 => some (.tout g d a b)
  | 0x08 => some (.tin g d a b)
  | 0x09 => some (.tacc g d a b)
  | 0x0A => if b = 0 then some (.tmov g d a) else none
  | 0x0B => some (.wbld g d a b)
  | 0x0C => if b = 0 then some (.wprn24 g d a) else none
  | 0x0D => if b = 0 then some (.wprn48 g d a) else none
  | 0x0E => some (.tmma g d a b)
  | _ => none

/-- CC (R176). -/
def decCC (op g d a b : Nat) : Option Instr :=
  match op with
  | 0x00 => if d < 64 then some (.ccp g (d / 8) (d % 8) a b) else none
  | 0x01 => if d < 64 then some (.cnd g (d / 8) (d % 8) a b) else none
  | 0x02 => if d < 64 then some (.cgat g (d / 8) (d % 8) a b) else none
  | 0x03 => if d < 64 then some (.csct g (d / 8) (d % 8) a b) else none
  | 0x04 => if d < 64 then some (.cwb g (d / 8) (d % 8) a b) else none
  | 0x05 => if d < 64 then some (.cfill g (d / 8) (d % 8) a b) else none
  | 0x06 => if d < 64 then some (.cred g (d / 8) (d % 8) a b) else none
  | 0x07 => if d < 64 then some (.csig g (d / 8) (d % 8) a b) else none
  | _ => none

/-- CN (R191, R193, R195). -/
def decCN (op g d a b : Nat) : Option Instr :=
  match op with
  | 0x00 => if b = 0 then some (.chbind g d a) else if a = 0 ∧ b = 1 then some (.chbindUnbind g d) else none
  | 0x01 => if b = 0 then some (.csnd g d a) else none
  | 0x02 => if b = 0 then some (.crcv g d a) else none
  | 0x03 => if b = 0 then some (.crad g d a) else none
  | 0x04 => if d = 0 ∧ b = 0 then some (.fld g a) else none
  | 0x05 => if d = 0 then some (.fst g a b) else none
  | 0x06 => if d = 0 then some (.famoAdd g a b) else none
  | 0x07 => if d = 0 then some (.famoMax g a b) else none
  | 0x08 => if d = 0 then some (.famoOr g a b) else none
  | 0x09 => if d = 0 then some (.famoSwap g a b) else none
  | 0x0A => if d < 64 then some (.xar g (d / 8) (d % 8) a b) else none
  | 0x0B => if d < 64 then some (.xrs g (d / 8) (d % 8) a b) else none
  | 0x0C => if d < 64 then some (.xag g (d / 8) (d % 8) a b) else none
  | 0x0D => if d < 64 then some (.xbc g (d / 8) (d % 8) a b) else none
  | 0x0E => if d < 64 then some (.xmrg g (d / 8) (d % 8) a b) else none
  | 0x0F => if d < 64 then some (.xred g (d / 8) (d % 8) a b) else none
  | 0x10 => if d < 64 then some (.xbar g (d / 8) (d % 8) a b) else none
  | _ => none

/-- XQ (R135). -/
def decXQ (op g d a b : Nat) : Option Instr :=
  match op with
  | 0x00 => if d = 0 then some (.qldW g a b) else none
  | 0x01 => if d = 0 then some (.qldH g a b) else none
  | 0x02 => if d = 0 then some (.qldB g a b) else none
  | 0x03 => some (.qstW g d a b)
  | 0x04 => some (.qstH g d a b)
  | 0x05 => some (.qstB g d a b)
  | 0x06 => if d = 0 then some (.amoAdd g a b) else none
  | 0x07 => if d = 0 then some (.amoAnd g a b) else none
  | 0x08 => if d = 0 then some (.amoOr g a b) else none
  | 0x09 => if d = 0 then some (.amoXor g a b) else none
  | 0x0A => if d = 0 then some (.amoMin g a b) else none
  | 0x0B => if d = 0 then some (.amoMax g a b) else none
  | 0x0C => if d = 0 then some (.amoMinu g a b) else none
  | 0x0D => if d = 0 then some (.amoMaxu g a b) else none
  | 0x0E => if d = 0 then some (.amoSwap g a b) else none
  | 0x0F => some (.amoCas g d a b)
  | 0x10 => if d = 0 ∧ b = 0 then some (.rwlRd g a) else none
  | 0x11 => if d = 0 ∧ b = 0 then some (.rwlWr g a) else none
  | 0x12 => if d = 0 ∧ b = 0 then some (.rwlRu g a) else none
  | 0x13 => if d = 0 ∧ b = 0 then some (.rwlWu g a) else none
  | 0x14 => if d = 0 then some (.waita g a b) else none
  | 0x15 => if d = 0 then some (.waitc g a b) else none
  | _ => none

/-- The operation of a slot word, before the legality of its registers and immediates. `ext` is the extension byte of
the slot when its bundle has a header. -/
def decodeRaw (ext : Option Nat) (w : Nat) : Option Instr :=
  let e := (ext.getD 0) % 32
  let g := w / 2 ^ 24 % 16 + (ext.getD 0) / 32 % 8 * 16
  let d := w / 2 ^ 12 % 64 + e / 16 * 64
  let a := w / 2 ^ 6 % 64 + e / 8 % 2 * 64
  let b := w % 64 + e / 4 % 2 * 64
  let op6 := w / 2 ^ 18 % 64
  let op4 := w / 2 ^ 20 % 16
  let d4 := w / 2 ^ 14 % 64
  let a4 := w / 2 ^ 8 % 64
  let k13 := match ext with | none => sextNat w 8 | some _ => sextNat (e * 256 + w % 256) 13
  let trOk := e % 4 = 0
  if w = 0 ∧ ext.getD 0 = 0 then some .nop
  else match w / 2 ^ 28 with
  | 0x0 => if trOk then decXA op6 g d a b else none
  | 0x1 => decXI op4 g d4 a4 k13
  | 0x2 =>
    match w / 2 ^ 22 % 4 with
    | 0 => some (.li g (w / 2 ^ 16 % 64) (match ext with | none => sextNat w 16 | some _ => sextNat (e * 65536 + w % 65536) 21))
    | 1 => if e = 0 then some (.lhi g (w / 2 ^ 16 % 64) (w % 65536)) else none
    | 2 => some (.lpc g (w / 2 ^ 16 % 64) (match ext with | none => sextNat w 16 | some _ => sextNat (e * 65536 + w % 65536) 21))
    | _ => none
  | 0x3 =>
    decXB op4 g d4 (match ext with | none => sextNat w 14 | some _ => sextNat (e * 16384 + w % 16384) 19)
      (e * 16384 + w % 16384)
  | 0x4 => decXM op4 g d4 a4 k13
  | 0x5 =>
    if op6 = 6 then
      (if e = 0 then some (.wait g (w / 2 ^ 13 % 32) (w / 2 ^ 8 % 32) (w / 4 % 64) (w % 4)) else none)
    else if trOk then decXS op6 g d a b else none
  | 0x6 => if trOk then decVA op6 g d a b else none
  | 0x7 => if trOk then decVB op6 g d a b else none
  | 0x8 =>
    match decVMi op6 g (w / 2 ^ 12 % 64) (w / 2 ^ 6 % 64)
      (match ext with | none => sextNat w 6 | some _ => sextNat (e * 64 + w % 64) 11) with
    | some i => some i
    | none => if trOk then decVMr op6 g d a b else none
  | 0x9 => if trOk then decMA op6 g d a b else none
  | 0xB => if e = 0 then decCC op6 g d a b else none
  | 0xC => if e = 0 then decCN op6 g d a b else none
  | 0xD => if e = 0 then decXQ op6 g d a b else none
  | _ => none

/-- How a slot word fails (R19 step 2): ILLSLOT or ILLOP. -/
inductive SlotErr where
  | illslot
  | illop
  deriving DecidableEq, Repr

/-- A slot word decoded and checked (R19 step 2). -/
def decodeSlot (ext : Option Nat) (w : Nat) : Except SlotErr Instr :=
  match w / 2 ^ 28 with
  | 0xA | 0xE | 0xF => .error .illslot
  | _ =>
    match decodeRaw ext w with
    | some i => if wellFormed i then .ok i else .error .illop
    | none => .error .illop

/-- The header bits of a header word, as an instruction (R10). Its extension bytes belong to the slots. -/
def decodeHeader (w : Nat) : Option Instr :=
  if w / 2 ^ 28 = 15 ∧ w / 2 ^ 24 % 4 = 0 ∧ w / 2 ^ 32 = 0 then
    (if w / 2 ^ 27 % 2 = 1 then
      some (.endB (w / 2 ^ 26 % 2 = 1))
    else if w / 2 ^ 26 % 2 = 1 then some .vjoin
    else none)
  else none

/-- What the decoder reads from the words of one row of the opcode table. -/
def decodeTableWord (nbits w : Nat) : Option Instr :=
  if nbits = 32 then
    match decodeSlot none w with
    | .ok i => some i
    | .error _ => decodeHeader w
  else none

/-- A decoded slot of a bundle: number, extension byte, word, operation. -/
structure SlotOp where
  slot : Nat
  ext : Nat
  word : Nat
  op : Instr
  deriving DecidableEq, Repr

/-- A decoded bundle: the header bits, and its operations in slot order with the header's own instruction, if it has
one, first. -/
structure Bundle where
  endBit : Bool
  vj : Bool
  ops : List SlotOp
  deriving DecidableEq, Repr

/-- A decode trap: cause, subcause and EVAL (R20, R23). -/
structure DecodeTrap where
  cause : Nat
  sub : Nat
  val : Nat
  deriving DecidableEq, Repr

/-- The slots named by a list, as a mask (R20). -/
def slotMask (l : List SlotOp) : Nat :=
  (if l.any (·.slot = 0) then 1 else 0) + (if l.any (·.slot = 1) then 2 else 0) + (if l.any (·.slot = 2) then 4 else 0)
    + (if l.any (·.slot = 3) then 8 else 0)

/-- The destinations of R21 by name, as written: kind (0 scalar, 1 vector, 2 predicate, 3 CSR) and number. -/
def destNames (i : Instr) : List (Nat × Nat) :=
  let s := Machine.shape i
  ((s.xd.filter fun n => n ≠ 0 && !Machine.xPort n).map fun n => (0, n)) ++ s.vd.map (fun n => (1, n))
    ++ ((s.pd.filter (· ≠ 0)).map fun n => (2, n)) ++ s.csr.map fun n => (3, n)

/-- The members of a list that share a name with another member, or hold one name twice. -/
def clash {β : Type} [DecidableEq β] (names : SlotOp → List β) (l : List SlotOp) : List SlotOp :=
  l.filter fun o => (names o).any fun n =>
    1 < (l.foldl (fun c p => c + (names p).count n) 0)

/-- Slot operations of a class. -/
def ofClass (u : Machine.UnitClass) (l : List SlotOp) : List SlotOp := l.filter fun o => (Machine.shape o.op).cls = u

/-- The bundle rules of R20 to R22 in ascending order of subcause. -/
def bundleRules (e : Bool) (l : List SlotOp) : Option DecodeTrap :=
  let full := (if 2 < (ofClass .x l).length then ofClass .x l else [])
    ++ (if 2 < (ofClass .v l).length then ofClass .v l else [])
    ++ (if 1 < (ofClass .m l).length then ofClass .m l else [])
    ++ (if 2 < (ofClass .c l).length then ofClass .c l else [])
  let ctl := l.filter fun o => (Machine.shape o.op).ctl
  let dst := clash (fun o => (destNames o.op).dedup) l
  let prt := clash (fun o => (Machine.shape o.op).pops) l ++ clash (fun o => (Machine.shape o.op).pushes) l
  if full ≠ [] then some ⟨1, 1, slotMask full⟩
  else if 1 < ctl.length then some ⟨1, 2, slotMask ctl⟩
  else if dst ≠ [] then some ⟨1, 3, slotMask dst⟩
  else if prt ≠ [] then some ⟨1, 4, slotMask prt⟩
  else if e ∧ ctl ≠ [] then some ⟨1, 6, 1 + slotMask (ctl.filter (·.slot ≠ 0))⟩
  else none

/-- The slots of a bundle in order, the NOP left out (R12). -/
def decodeSlots (hdr : Bool) : List (Nat × Nat × Nat) → Except DecodeTrap (List SlotOp)
  | [] => .ok []
  | (k, e, w) :: l =>
    match decodeSlot (if hdr then some e else none) w with
    | .error .illslot => .error ⟨2, k, w⟩
    | .error .illop => .error ⟨3, k, w⟩
    | .ok .nop => decodeSlots hdr l
    | .ok i =>
      match decodeSlots hdr l with
      | .error t => .error t
      | .ok r => .ok ({ slot := k, ext := e, word := w, op := i } :: r)

/-- Decodes and checks a bundle in the order of R19, steps 1 to 3. -/
def decodeBundle (w0 w1 w2 w3 : Nat) : Except DecodeTrap Bundle :=
  let hdr := decide (w0 / 2 ^ 28 = 15)
  if hdr ∧ w0 / 2 ^ 24 % 4 ≠ 0 then .error ⟨1, 5, 1⟩
  else
    let slots := if hdr then [(1, w0 / 65536 % 256, w1), (2, w0 / 256 % 256, w2), (3, w0 % 256, w3)]
      else [(0, 0, w0), (1, 0, w1), (2, 0, w2), (3, 0, w3)]
    let e := hdr && w0 / 2 ^ 27 % 2 = 1
    let vj := hdr && w0 / 2 ^ 26 % 2 = 1
    match decodeSlots hdr slots with
    | .error t => .error t
    | .ok ops =>
      match bundleRules e ops with
      | some t => .error t
      | none =>
        .ok { endBit := e, vj := vj,
              ops := (match (if hdr then decodeHeader w0 else none) with
                | some i => [{ slot := 0, ext := 0, word := w0, op := i }]
                | none => []) ++ ops }

end Sys2Proof
end

