-- ==== Sys2Proof/Machine/Access.lean ====
section
/-! DEFINITION. Reaching the parts of the state: cores, threads, partitions, contexts, launches, and the tables that
system software keeps in HBM (context descriptors R335, core and rank maps). The error log (R358) and the recording of
a launch's faults (R222). -/

namespace Sys2Proof.Machine

/-- The outcome of a step of this machine. -/
abbrev Res := Host.Outcome State Fault Refusal

/-- A trap before it is taken: cause, subcause, EVAL (R216), and the faulting address for a fault record (R368). -/
structure Trap where
  cause : Nat
  sub : Nat
  val : Word
  fva : Nat
  deriving DecidableEq, Repr

/-- A trap whose EVAL is the faulting address. -/
def mkTrap (cause sub : Nat) (val : Word) : Trap := { cause, sub, val, fva := val.toNat }

/-- Updates the core whose turn it is. -/
def State.updCore (s : State) (f : Core → Core) : State := { s with core := f s.core }

/-- Updates the thread of the core whose turn it is. -/
def State.updTh (s : State) (f : Thread → Thread) : State := { s with core := { s.core with th := f s.core.th } }

/-- Updates the package outside its cores. -/
def State.updPkg (s : State) (f : Package → Package) : State := { s with pkg := f s.pkg }

/-- Says what became of the slot. -/
def State.mark (s : State) (i : Issue) : State := s.updCore fun c => { c with issue := i }

/-- A core as reset leaves it. -/
def Core.fresh (n : Nat) : Core := { num := n }

/-- A physical core; one that is listed nowhere is as reset leaves it. -/
def State.getCore (s : State) (n : Nat) : Core :=
  if s.core.num = n then s.core
  else match (s.todo ++ s.done).find? (·.num = n) with
    | some c => c
    | none => Core.fresh n

/-- Writes back a physical core. A core not listed yet joins the cores that have had their cycle. -/
def State.setCore (s : State) (c : Core) : State :=
  if s.core.num = c.num then { s with core := c }
  else if s.todo.any (·.num = c.num) then { s with todo := lmapIf (·.num = c.num) (fun _ => c) s.todo }
  else if s.done.any (·.num = c.num) then { s with done := lmapIf (·.num = c.num) (fun _ => c) s.done }
  else { s with done := insertBy (fun a b => a.num < b.num) c s.done }

/-- Updates a physical core. -/
def State.updCoreN (s : State) (n : Nat) (f : Core → Core) : State := s.setCore (f (s.getCore n))

/-- Every listed core. -/
def State.allCores (s : State) : List Core := s.core :: (s.todo ++ s.done)

/-- Exchanges the core whose turn it is with another, which it stands in for in the order of turns. A core not listed yet leaves
it among those that have had their cycle. -/
def State.swapCore (s : State) (n : Nat) : State :=
  if s.core.num = n then s
  else
    let here := fun (l : List Core) => lmapIf (·.num = n) (fun _ => s.core) l
    { s with core := s.getCore n, todo := here s.todo
             done := if (s.todo ++ s.done).any (·.num = n) then here s.done else insertBy (fun a b => a.num < b.num) s.core s.done }

/-- Runs `f` with a physical core as the core whose turn it is, and gives the turn back. -/
def State.onCore (s : State) (n : Nat) (f : State → State) : State :=
  if s.core.num = n then f s else (f (s.swapCore n)).swapCore s.core.num

/-- As `onCore`, for a function that also answers a value. -/
def State.onCoreV {α : Type} (s : State) (n : Nat) (f : State → α × State) : α × State :=
  if s.core.num = n then f s
  else
    let r := f (s.swapCore n)
    (r.1, r.2.swapCore s.core.num)

/-- As `onCore`, for a step that may end. -/
def State.onCoreR (s : State) (n : Nat) (f : State → Res) : Res :=
  if s.core.num = n then f s
  else
    match f (s.swapCore n) with
    | .next s1 => .next (s1.swapCore s.core.num)
    | r => r

/-- Takes the next number of the counter of free choices. -/
def State.tick (s : State) : Nat × State := (s.choice, { s with choice := s.choice + 1 })

/-- A partition; one that was never written is as reset leaves it. -/
def State.getPart (s : State) (p : Nat) : Partition := sget {} s.pkg.parts p

/-- Updates a partition. -/
def State.updPart (s : State) (p : Nat) (f : Partition → Partition) : State :=
  s.updPkg fun k => { k with parts := sset {} k.parts p (f (sget {} k.parts p)) }

/-- What a context keeps on the package. -/
def State.getCtx (s : State) (p c : Nat) : Ctx := sget {} (s.getPart p).ctxs c

/-- Updates a context. -/
def State.updCtx (s : State) (p c : Nat) (f : Ctx → Ctx) : State :=
  s.updPart p fun q => { q with ctxs := sset {} q.ctxs c (f (sget {} q.ctxs c)) }

/-- A link. -/
def State.getLink (s : State) (l : Nat) : Link := sget {} s.pkg.links l

/-- Updates a link. -/
def State.updLink (s : State) (l : Nat) (f : Link → Link) : State :=
  s.updPkg fun k => { k with links := sset {} k.links l (f (sget {} k.links l)) }

/-- Sends something out of the package. -/
def State.emit (s : State) (o : Out) : State := s.updPkg fun k => { k with out := k.out ++ [o] }

/-- The thread of a number, wherever it is: running, parked by a pre-emption, or saved with its context. -/
def State.findThread (s : State) (tid : Nat) : Option Thread :=
  match s.allCores.find? (fun c => c.th.tid = tid && c.phase ≠ .idle) with
  | some c => some c.th
  | none =>
    match s.pkg.parked.find? (·.tid = tid) with
    | some t => some t
    | none => s.pkg.parts.findSome? fun q => q.2.ctxs.findSome? fun x => x.2.saved.find? (·.tid = tid)

/-- Updates the thread of a number wherever it is. -/
def State.updThread (s : State) (tid : Nat) (f : Thread → Thread) : State :=
  match s.allCores.find? (fun c => c.th.tid = tid && c.phase ≠ .idle) with
  | some c => s.updCoreN c.num fun c => { c with th := f c.th }
  | none =>
    if s.pkg.parked.any (·.tid = tid) then s.updPkg fun k => { k with parked := lmapIf (·.tid = tid) f k.parked }
    else if s.pkg.parts.any (fun q => q.2.ctxs.any fun x => x.2.saved.any (·.tid = tid)) then
      s.updPkg fun k =>
        { k with parts := k.parts.map fun q =>
          (q.1, { q.2 with ctxs := q.2.ctxs.map fun x => (x.1, { x.2 with saved := lmapIf (·.tid = tid) f x.2.saved }) }) }
    else s

/-- The end of HBM in the physical address space (R235). -/
def hbmEnd : Nat := 0x6000000000

/-- A number of `n` bytes read from HBM. -/
def State.hbmLe (s : State) (pa n : Nat) : Nat := leGet s.pkg.hbm.mem pa n

/-- The descriptor of a slot of a partition's context table; none where it is unused or breaks a limit of R335. -/
def State.ctxDesc (s : State) (p slot : Nat) : Option CtxDesc :=
  let a := (s.getPart p).regs.ctxtab + 64 * slot
  let f := fun o n => s.hbmLe (a + o) n
  let d : CtxDesc :=
    { slot, gang := f 0 2, asid := f 2 2 % 1024, rank := f 4 2 % 1024, gangsz := f 6 2, root := f 8 8, save := f 16 8,
      kennel := f 24 8, ksize := f 32 4, ncore := f 36 4, cmap := f 40 8, pmap := f 48 8 }
  if d.gang ≠ 0 ∧ slot < 64 ∧ f 2 2 < 1024 ∧ f 4 2 < 1024 ∧ 1 ≤ d.gangsz ∧ d.gangsz ≤ 1024 ∧ d.save % 0x400000 = 0
      ∧ d.kennel % 4096 = 0 ∧ 1 ≤ d.ncore ∧ d.ncore ≤ 1024 ∧ f 56 8 = 0 ∧ 1 ≤ d.ksize ∧ d.ksize ≤ 65535
  then some d else none

/-! ### Image tables (R366) -/

/-- Where the entry of an image stands: 128 bytes for each image id (DESIGN CHOICE, log entry 134). -/
def State.imageEntry (s : State) (p id : Nat) : Nat := (s.getPart p).regs.imgtab + 128 * (id % 65536)

/-- The bytes of an image table entry: the id with the valid bit in [31], the mask of context slots, text VA and length, data VA and
length, and the two digests (R366, log entry 134). -/
def imageBytes (i : Image) : List Byte :=
  leBytes (i.id % 65536 + b2n i.valid * 2 ^ 31) 8 ++ leBytes i.slots.toNat 8 ++ leBytes i.textVa 8 ++ leBytes i.textLen 8
    ++ leBytes i.dataVa 8 ++ leBytes i.dataLen 8 ++ leBytes 0 16 ++ leBytes i.textHash 32 ++ leBytes i.dataHash 32

/-- An image as its entry in the table now has it, with the parts of the image file that the table does not hold. -/
def State.imageNow (s : State) (p : Nat) (i : Image) : Image :=
  let f := fun o n => s.hbmLe (s.imageEntry p i.id + o) n
  { i with
    valid := f 0 8 = i.id % 65536 + 2 ^ 31, slots := BitVec.ofNat 64 (f 8 8), textVa := f 16 8, textLen := f 24 8, dataVa := f 32 8
    dataLen := f 40 8, textHash := f 64 32, dataHash := f 96 32 }

/-- The images of a partition, as the device reads them from the image table. -/
def State.images (s : State) (p : Nat) : List Image := (s.getPart p).images.map (s.imageNow p)

/-- Writes the entry of an image. -/
def State.putEntry (s : State) (p : Nat) (i : Image) : State :=
  s.updPkg fun k => { k with hbm := { k.hbm with mem := bytesPut k.hbm.mem (s.imageEntry p i.id) (imageBytes i) } }

/-- Whether the memory of a physical address is ready (R367): its stack, and for a line of a COH page its die store. What is not ready is
not there (DESIGN CHOICE, log entry 138). -/
def State.memReady (s : State) (pa : Nat) (coh : Bool) : Bool :=
  s.pkg.regs.funcready.contains (32 * 32 + 4 + bits pa 14 12) && (!coh || s.pkg.regs.funcready.contains (32 * 32 + bits pa 14 12 / 2))

/-- Whether a context's gang holds the rota of its partition (R337). -/
def State.holdsRota (s : State) (p slot : Nat) : Bool :=
  match s.ctxDesc p slot with
  | some d => (s.getPart p).gang = d.gang
  | none => false

/-- The least slot from `k` on whose descriptor satisfies a test. -/
def findSlot (s : State) (p : Nat) (c : CtxDesc → Bool) : Nat → Nat → Option CtxDesc
  | _, 0 => none
  | k, n + 1 =>
    match s.ctxDesc p k with
    | some d => if c d then some d else findSlot s p c (k + 1) n
    | none => findSlot s p c (k + 1) n

/-- The context of a partition that a gang id names (R267). -/
def State.gangCtx (s : State) (p gang : Nat) : Option CtxDesc :=
  if gang = 0 then none else findSlot s p (fun d => d.gang = gang) 0 64

/-- The physical core of a logical core (R335). -/
def State.physCore (s : State) (d : CtxDesc) (l : Nat) : Option Nat :=
  let e := s.hbmLe (d.cmap + 2 * l) 2
  if l < d.ncore ∧ bit e 15 then some (e % 1024) else none

/-- The least logical core from `l` on that maps to a physical core. -/
def logFrom (s : State) (d : CtxDesc) (c : Nat) : Nat → Nat → Option Nat
  | _, 0 => none
  | l, n + 1 => if s.physCore d l = some c then some l else logFrom s d c (l + 1) n

/-- The logical core that a physical core has in a context. -/
def State.logCore (s : State) (d : CtxDesc) (c : Nat) : Option Nat := logFrom s d c 0 d.ncore

/-- The logical core of a physical core in a context: as the core map names it, or else as it did when last read. -/
def State.lcoreOf (s : State) (p slot c : Nat) : Nat :=
  match (s.ctxDesc p slot).bind fun d => s.logCore d c with
  | some l => l
  | none => match sget 0 (s.getCtx p slot).lmap c with
    | 0 => c
    | n + 1 => n

/-- The pod id of the package of a rank (R335). -/
def State.podId (s : State) (d : CtxDesc) (rank : Nat) : Nat := s.hbmLe (d.pmap + 2 * rank) 2 % 1024

/-- The partition that holds a core (R334). -/
def State.partOf (s : State) (c : Nat) : Option Nat :=
  match s.pkg.parts.find? (fun e => e.2.cores.contains c) with
  | some e => some e.1
  | none => none

/-- Whether the partition of a core pauses for a rebase (R250). -/
def State.paused (s : State) (core : Nat) : Bool :=
  match s.partOf core with
  | some p => (s.getPart p).rebasing
  | none => false

/-- The descriptor of the context of a task. -/
def State.taskCtx (s : State) (t : Task) : Option CtxDesc := s.ctxDesc t.part t.slot

/-- TASKID (R88, R273). -/
def Task.id (t : Task) : Word := BitVec.ofNat 32 (t.node % 4096 * 2 ^ 20 + t.serial % 2 ^ 20)

/-- The reader of the pair (partition, context slot) of a task. -/
def Task.ctx (t : Task) : Nat × Nat := (t.part, t.slot)

/-- Appends to a partition's error log: a ring of 256 (R358); an entry overwritten before it was read counts in ELLOST. -/
def State.logErr (s : State) (p addr req cause arg : Nat) : State :=
  s.updPart p fun q =>
    let r := q.regs
    { q with regs :=
      { r with
        errlog := sset ⟨0, 0, 0, 0, 0⟩ r.errlog (r.elhead % 256) ⟨s.pkg.time, addr, req, cause, arg % 65536⟩
        elhead := (r.elhead + 1) % 256
        elunread := r.elunread.filter (· ≠ r.elhead % 256) ++ [r.elhead % 256]
        ellost := if r.elunread.contains (r.elhead % 256) then Nat.min (r.ellost + 1) 0xFFFFFFFF else r.ellost } }

/-- The launch of a context (R265). -/
def State.getLaunch (s : State) (p slot : Nat) : Option Launch := (s.getPart p).launches.find? (·.slot = slot)

/-- Updates the launch of a context. -/
def State.updLaunch (s : State) (p slot : Nat) (f : Launch → Launch) : State :=
  s.updPart p fun q => { q with launches := lmapIf (·.slot = slot) f q.launches }

/-- Field of a launch record (R266) by word. -/
def Launch.word (l : Launch) (k : Nat) : Nat := (lget 0 l.record k).toNat

/-- Raises a launch's status; ranks ABORTED 3 over HANG 2 over RESIZED 4 over FAULT 1 over OK 0 (R289). -/
def statusRank : Nat → Nat
  | 3 => 4
  | 2 => 3
  | 4 => 2
  | 1 => 1
  | _ => 0

def Launch.raise (l : Launch) (st : Nat) : Launch :=
  if statusRank l.status < statusRank st then { l with status := st } else l

/-- Records a fault in the launch of a context (R222): the count, and the fields of the first fault; the error log takes an
entry with cause 0x10 (R359), which is all that is left once the launch's record has been written. `req` names who made
the request (R358). -/
def State.launchFaultBy (s : State) (req p slot cause : Nat) (ftask : Word) (fpc fva : Nat) : State :=
  let s1 := s.logErr p fva req 0x10 cause
  match s1.getLaunch p slot with
  | none => s1
  | some l =>
    if l.recDone then s1
    else
      s1.updLaunch p slot fun l =>
        let l1 := if l.faults = 0 then { l with cause := cause % 65536, ftask := ftask, fpc := fpc, fva := fva } else l
        ({ l1 with faults := Nat.min (l1.faults + 1) 0xFFFFFFFF }).raise 1

/-- REQ of the error log: a core, its copy engine, the walker, another rank (R358). -/
def reqCore (c : Nat) : Nat := 2 * 2 ^ 28 + c
def reqEngine (c : Nat) : Nat := 3 * 2 ^ 28 + c
def reqWalker : Nat := 5 * 2 ^ 28

/-- A fault of the running core. -/
def State.launchFault (s : State) (p slot cause : Nat) (ftask : Word) (fpc fva : Nat) : State :=
  s.launchFaultBy (reqCore s.core.num) p slot cause ftask fpc fva

/-- A sink event of a context: its hang watchdog starts again (R290). -/
def State.sink (s : State) (p slot : Nat) : State := s.updCtx p slot fun c => { c with wdog := 0 }

end Sys2Proof.Machine
end

