-- ==== Sys2Proof/Machine/Channel.lean ====
section
/-! DEFINITION. Channels as the cores use them (R190 to R192, R286, R314): the channel table, credits, messages, and
putting a packet on its way (R297, R300, R342). -/

namespace Sys2Proof.Machine

/-- A channel-table entry (R314). -/
structure ChanEnt where
  kind : Nat
  ty : Nat
  op : Nat
  count : Nat
  depth : Nat
  prank : Nat
  pcore : Nat
  group : Option Nat
  deriving DecidableEq, Repr

/-- Reads the entry of a channel of a context (R314). -/
def State.chanEnt (s : State) (p slot ch : Nat) : ChanEnt :=
  let a := (s.getPart p).regs.chanbase + 1024 * slot + 16 * ch
  let w0 := s.hbmLe a 4
  let w1 := s.hbmLe (a + 4) 4
  { kind := bits w0 1 0, ty := bits w0 5 4, op := bits w0 10 8, count := bits w0 21 16 + 1, depth := bits w0 29 24 + 1,
    prank := bits w1 9 0, pcore := bits w1 19 10, group := if bit w1 26 then some (bits w1 25 20) else none }

/-- The entry of a channel in the context of the running task. -/
def State.myChan (s : State) (ch : Nat) : ChanEnt := s.chanEnt s.core.th.task.part s.core.th.task.slot ch

/-- Bytes of one element of a channel (R192). -/
def ChanEnt.width (e : ChanEnt) : Nat := if e.ty = 2 then 2 else 4

/-- The logical core of the core whose turn it is, in its task's context; its own number where the map has none. -/
def State.myLog (s : State) : Nat :=
  s.lcoreOf s.core.th.task.part s.core.th.task.slot s.core.num

/-- The key of a core and channel in a context's tables. -/
def chKey (core ch : Nat) : Nat := core * 64 + ch

/-- The seat of a logical core in the bound set that a task belongs to: pipes of different sets do not mix (R286). -/
def Task.seat (t : Task) (l : Nat) : Nat := 1024 * (t.bound + 1) + l

/-- The end of a channel at which the running task stands: its logical core, or its seat for a pipe. -/
def State.myEnd (s : State) (ch : Nat) : Nat :=
  if (s.myChan ch).kind = 2 then s.core.th.task.seat s.myLog else s.myLog

/-! ### Timestamps across ranks (R252, R259) -/

/-- What this package has sent to other ranks is ordered before what comes back from them: the fabric timestamps of a partition
take in the timestamp of a thread that sends (R252, R259, log entry 108). -/
def State.exportTs (s : State) (part ts : Nat) : State :=
  s.updPart part fun q => { q with fts := (List.range 4).foldl (fun m d => sset 0 m d (Nat.max (sget 0 m d) ts)) q.fts }

/-- The timestamp that an answer, a message or a result of another rank brings (R252, R259). -/
def State.importTs (s : State) (part : Nat) : Nat := (s.getPart part).fts.foldl (fun n e => Nat.max n e.2) 0

/-- A thread joins accesses up to a timestamp (R252). -/
def State.joinTs (s : State) (tid ts : Nat) : State :=
  s.updThread tid fun t => { t with csr := { t.csr with pts := Nat.max t.csr.pts ts } }

/-- The timestamp of a task. -/
def State.ptsOf (s : State) (tid : Nat) : Nat := match s.findThread tid with | some t => t.csr.pts | none => 0

/-- Whether queued accesses of a task, or lock operations and waits, have not been performed (R251). -/
def State.outstanding (s : State) (core tid : Nat) : Bool :=
  (s.getCore core).qacc.any (·.tid = tid) || s.pkg.waiters.any (·.acc.tid = tid)

/-- Whether the first `n` queued operations of a task have been performed (R251). -/
def State.performedTo (s : State) (core tid n : Nat) : Bool :=
  !(s.getCore core).qacc.any (fun q => q.tid = tid && q.id < n) && !s.pkg.waiters.any fun w => w.acc.tid = tid && w.acc.id < n

/-- The oldest message that the running core may receive on a channel (R192, R312). -/
def State.headMsg (s : State) (ch : Nat) : Option ChanMsg :=
  let t := s.core.th.task
  let c := s.getCtx t.part t.slot
  let me := s.myEnd ch
  c.msgs.find? fun m => m.core = me && m.ch = ch && m.num = sget 0 c.recvNo (chKey me ch) % 2 ^ 22

/-- Takes that message: its place is given back to the sender, and its receipt joins the accesses before its sending (R192, R211,
R252, R255). -/
def State.dropMsg (s : State) (ch : Nat) : State :=
  match s.headMsg ch with
  | none => s
  | some m =>
    let t := s.core.th.task
    let me := s.myEnd ch
    let e := s.myChan ch
    let own := match s.taskCtx t with | some d => d.rank | none => 0
    let s1 := (s.updTh fun h => { h with csr := { h.csr with pts := Nat.max h.csr.pts m.ts } }).updCtx t.part t.slot fun c =>
      { c with
        msgs := c.msgs.erase m
        recvNo := sset 0 c.recvNo (chKey me ch) (sget 0 c.recvNo (chKey me ch) + 1)
        back := if e.kind = 2 ∨ e.prank = own then sset 0 c.back (chKey m.src ch) (sget 0 c.back (chKey m.src ch) + 1)
          else c.back }
    if e.kind = 2 ∨ e.prank = own then s1 else s1.emit (.chanCredit e.prank e.pcore ch)

/-- Whether a task's handler has taken the SHRINK of its core: its commands and M operations do not start there (R174, R189). -/
def State.shrinking (s : State) (core : Nat) : Bool :=
  let c := s.getCore core
  c.th.mode = .handler && (s.getPart c.th.task.part).shrink.contains core

/-- The class of a packet's tenant VC by its kind, and its VC with a dateline bit (R306). -/
def vcClass (kind : Nat) : Nat :=
  match kind with
  | 3 | 5 | 6 | 7 => 1
  | 9 | 10 => 2
  | 8 => 3
  | _ => 0
def vcOf (k : Packet) (hi : Nat) : Nat := if k.kind = 11 then 65 else 8 * (k.part % 8) + 2 * vcClass k.kind + hi

/-- The mark of a packet that came by no port of the switch: it stays within the package (R342). -/
def inside : Nat := 9

/-- A packet to this package's own endpoint that passes no switch. -/
def State.toSelf (s : State) (k : Packet) : State :=
  s.updPkg fun g => { g with inq := g.inq ++ [{ vc := vcOf k 0, gen := g.regs.rgen, pkt := k, port := inside, vcIn := vcOf k 0 }] }

/-! ### Operation numbers (R304) -/

/-- A TAG that no operation of a partition awaits an answer by, from number `no` on; `n` bounds the search. -/
def freeTag (l : List RemOp) (part gang no : Nat) : Nat → Nat
  | 0 => gang % 65536 * 2 ^ 15 + no % 2 ^ 15
  | n + 1 =>
    let t := gang % 65536 * 2 ^ 15 + no % 2 ^ 15
    if l.any fun r => r.tag = t && r.part = part then freeTag l part gang (no + 1) n else t

/-- The TAG of a new operation of a gang: the gang id in [30:15], as an answer carries it nowhere else (R305, R342, R344), and an
operation number (DESIGN CHOICE, log entry 132). -/
def State.newTag (s : State) (part gang : Nat) : Nat := freeTag s.pkg.rem part gang s.pkg.tagNo s.pkg.rem.length

/-- How many flits a packet takes: a head and its payload (R304). -/
def pktFlits (k : Packet) : Nat := 1 + (k.payload.length + 63) / 64

/-- Puts a packet into the mesh at the local port of a core, for another core of the package or for the hub (R297, R300): it stands
in the queue there from the next cycle on. -/
def State.meshSend (s : State) (core : Nat) (dest : Option Nat) (k : Packet) : State :=
  let f : Option Packet → MeshFlit := fun o =>
    { die := core / 256, router := core % 256, port := 4, part := k.part, dest, pkt := o, at_ := s.pkg.time + 1 }
  s.updPkg fun g => { g with mesh := g.mesh ++ List.replicate (pktFlits k - 1) (f none) ++ [f (some k)] }

/-- Puts a packet on its way from a core: to this package's own endpoint, or toward the hub (R300). -/
def State.inject (s : State) (core : Nat) (k : Packet) (own : Nat) : State :=
  if k.drank = own then s.toSelf k else s.meshSend core none k

/-- The logical core on which the running task's bound set was placed for role `r` (R285, R286): its kernel may have ended there
before. -/
def State.rolePeer (s : State) (r : Nat) : Nat :=
  let t := s.core.th.task
  match s.getLaunch t.part t.slot with
  | some l => match l.insts.find? (·.id = t.inst) with
    | some i => lget 0 i.cores r
    | none => 0
  | none => 0

/-- Puts a message on its way from a core, to a core of the package or to the hub. -/
def State.putMsg (s : State) (core : Nat) (dest : Option Nat) (k : Packet) (part : Nat) : State :=
  match dest with
  | some c => s.meshSend core (some c) k
  | none => (s.exportTs part k.ts).inject core k k.srank

/-- Sends a message on a channel (R192): the credit is taken, and the packet goes to the peer's core, once the queued accesses
issued before it have been performed (R251). -/
def State.sendMsg (s : State) (ch : Nat) (payload : List Byte) : State :=
  let t := s.core.th.task
  match s.taskCtx t with
  | none => s
  | some d =>
    let e := s.myChan ch
    let me := s.myEnd ch
    let key := chKey me ch
    let c := s.getCtx t.part t.slot
    let peer := match e.kind, t.role with
      | 2, some r => t.seat (s.rolePeer (r + 1))
      | _, _ => e.pcore
    let rank := if e.kind = 2 then d.rank else e.prank
    let k : Packet :=
      { drank := s.podId d rank, srank := s.podId d d.rank, part := t.part, kind := 8, chan := ch, score := me,
        dcore := peer, gang := d.gang, posOff := sget 0 c.sendNo key % 2 ^ 22, payload }
    let s1 := s.updCtx t.part t.slot fun c =>
      { c with used := sset 0 c.used key (sget 0 c.used key + 1), sendNo := sset 0 c.sendNo key (sget 0 c.sendNo key + 1),
               msgSent := c.msgSent + 1 }
    let dest := if k.drank = k.srank then s.physCore d (peer % 1024) else none
    if s.outstanding s.core.num s.core.th.tid then
      let q : QAcc := { tid := s.core.th.tid, task := t, id := s.core.th.qid, sends := some (.message dest k) }
      (s1.updCore fun c => { c with qacc := c.qacc ++ [q] }).updTh fun h => { h with qid := h.qid + 1 }
    else s1.putMsg s.core.num dest { k with ts := s.core.th.csr.pts } t.part

end Sys2Proof.Machine
end

