-- ==== Sys2Proof/Machine/Memory.lean ====
section
/-! DEFINITION. The scratchpad as its accesses see it: bytes and words, block writes with descriptors (R59), timestamps
(R248), the two views (R256, R257), poison (R361), owner tags and first touch (R348), banks (R126). -/

namespace Sys2Proof.Machine

/-- The end of a scratchpad (R125). -/
def spadEnd : Nat := 0x100000

/-- The physical word address that swizzled address `a` names; its own inverse (R256). -/
def swz (a : Nat) : Nat := a / 16384 * 16384 + a / 256 % 64 * 256 + (a / 4 % 64 ^^^ a / 256 % 64) * 4 + a % 4

/-- The physical block of a block address in a view (R256). -/
def viewBlock (sw : Bool) (a : Nat) : Nat := if sw then swz a / 64 * 64 else a / 64 * 64

/-- The bytes of a store as a number. -/
def Store.le (t : Store) (a n : Nat) : Nat := leGet t.mem a n

/-- A 32-bit word of a store. -/
def Store.word (t : Store) (a : Nat) : Word := BitVec.ofNat 32 (t.le a 4)

/-- Writes `n` bytes. -/
def Store.put (t : Store) (a v n : Nat) : Store := { t with mem := lePut t.mem a v n }

/-- The descriptor of the block that holds an address (R55). -/
def Store.descAt (t : Store) (a : Nat) : Desc := sget 0 t.desc (a / 64)

/-- Writes a whole block, with its descriptor where one is given, as one step; its poison is cleared (R59, R361). -/
def Store.putBlock (t : Store) (a : Nat) (b : Block) (d : Option Desc) : Store :=
  { t with
    mem := lePut t.mem (a / 64 * 64) b.toNat 64
    desc := match d with | some d => sset 0 t.desc (a / 64) d | none => t.desc
    poison := sset false t.poison (a / 64) false }

/-- Whether the block that holds an address is poisoned (R361). -/
def Store.bad (t : Store) (a : Nat) : Bool := sget false t.poison (a / 64)

/-- The full bit of the word that holds an address (R128). -/
def Store.full (t : Store) (a : Nat) : Bool := sget false t.fe (a / 4)

/-- Sets a full bit. -/
def Store.setFull (t : Store) (a : Nat) (b : Bool) : Store := { t with fe := sset false t.fe (a / 4) b }

/-- A load's timestamps at a group or line: the reader's pts after it, and the store (R248). -/
def Store.stampLoad (t : Store) (a pts lease : Nat) : Nat × Store :=
  let p := Nat.max pts (sget 0 t.wts (a / 64))
  (p, { t with rts := sset 0 t.rts (a / 64) (Nat.max (sget 0 t.rts (a / 64)) (p + lease)) })

/-- A write's timestamps (R248). -/
def Store.stampWrite (t : Store) (a pts : Nat) : Nat × Store :=
  let p := Nat.max pts (sget 0 t.rts (a / 64) + 1)
  (p, { t with wts := sset 0 t.wts (a / 64) p, rts := sset 0 t.rts (a / 64) p })

/-- The current scratchpad is stamped by a load of the running task. -/
def State.dirLoadStamp (s : State) (a : Nat) : State :=
  let th := s.core.th
  let r := s.core.spad.stampLoad a th.csr.pts th.csr.lease
  s.updCore fun c => { c with spad := r.2, th := { c.th with csr := { c.th.csr with pts := r.1 } } }

/-- The current scratchpad is stamped by a write of the running task. -/
def State.dirWriteStamp (s : State) (a : Nat) : State :=
  let r := s.core.spad.stampWrite a s.core.th.csr.pts
  s.updCore fun c => { c with spad := r.2, th := { c.th with csr := { c.th.csr with pts := r.1 } } }

/-- The values that unordered writes replaced, as an access of a core finds them (R257). -/
def unseen (l : List Mark) (core : Nat) : List Word := (l.filter fun m => !m.seen.contains core).map (·.old)

/-- The values of a word that a read of core `core` in one view may return: the current one, and those that unjoined writes in
the other view replaced (R257). Where there is a choice it is the next free choice. -/
def State.viewWord (s : State) (sw : Bool) (core a : Nat) (now : Word) : Word × State :=
  let olds := unseen (sget [] (if sw then s.core.linOld else s.core.swzOld) (a / 4)) core
  match olds with
  | [] => (now, s)
  | _ => ((olds ++ [now]).getD (Config.pick s.choice (olds.length + 1) % (olds.length + 1)) now,
          { s with choice := s.choice + 1 })

/-- Notes the value that a write in one view replaces, and the engine thread that writes, if one does (R257). -/
def State.noteView (s : State) (sw : Bool) (by_ : Option (Nat × Nat × Bool)) (a : Nat) : State :=
  let old : Mark := { old := s.core.spad.word (a / 4 * 4), by_ }
  s.updCore fun c =>
    if sw then { c with swzOld := sset [] c.swzOld (a / 4) (sget [] c.swzOld (a / 4) ++ [old]) }
    else { c with linOld := sset [] c.linOld (a / 4) (sget [] c.linOld (a / 4) ++ [old]) }

/-- Whether a write of core `core` in one view takes hold, where an unjoined write in the other view touched the word (R257). -/
def State.viewWins (s : State) (sw : Bool) (core a : Nat) : Bool × State :=
  match unseen (sget [] (if sw then s.core.linOld else s.core.swzOld) (a / 4)) core with
  | [] => (true, s)
  | _ => (Config.seesNew s.choice, { s with choice := s.choice + 1 })

/-- A direct load of `n` bytes within one word, in the linear view: the bytes from before the bundle (R127). -/
def State.dirLoad (s : State) (a n : Nat) : Nat × State :=
  let src := (s.core.env.before).getD s.core.spad
  let r := s.viewWord false s.core.num a (src.word (a / 4 * 4))
  (r.1.toNat / 2 ^ (8 * (a % 4)) % 2 ^ (8 * n), r.2.dirLoadStamp a)

/-- A load of a word whose full bit the load has observed: it comes after the write that set the bit, in either view (R127,
R258). -/
def State.fullLoad (s : State) (a : Nat) : Word × State :=
  (((s.core.env.before).getD s.core.spad).word a, s.dirLoadStamp a)

/-- A direct store of `n` bytes within one word; the descriptor stays (R58, R127). It is performed at its home, so the watchdog
of its context restarts (R235, R290). -/
def State.dirStore (s : State) (a v n : Nat) : State :=
  let w := s.viewWins false s.core.num a
  let s1 := (w.2.noteView false none a).sink s.core.th.task.part s.core.th.task.slot
  if w.1 then (s1.updCore fun c => { c with spad := c.spad.put a (v % 2 ^ (8 * n)) n }).dirWriteStamp a
  else s1.dirWriteStamp a

/-- Sets a full bit of the own scratchpad. -/
def State.setFull (s : State) (a : Nat) (b : Bool) : State :=
  s.updCore fun c => { c with spad := c.spad.setFull a b }

/-- The region of a scratchpad address (R348): 64 KiB each. -/
def spadRegion (a : Nat) : Nat := a / 65536

/-- The region of a tile, and of a slab. -/
def tileRegion (t : Nat) : Nat := 16 + t / 4
def slabRegion (b : Nat) : Nat := 40 + b / 16

/-- Where the block of a logical core stands in a context's save area, and the VALID word in it (R346, R347). -/
def CtxDesc.block (d : CtxDesc) (lcore : Nat) : Nat := d.save + 0x10000 + lcore * 0x400000
def CtxDesc.validAt (d : CtxDesc) (lcore : Nat) : Nat := d.block lcore + 0xBC00

/-- Whether a context holds an image of a region of a logical core (R348, VALID of R346). -/
def State.hasImage (s : State) (p slot lcore region : Nat) : Bool :=
  match s.ctxDesc p slot with
  | some d => d.save ≠ 0 && bit (s.hbmLe (d.validAt lcore) 8) region
  | none => false

/-- Whether the thread that now holds a core has its own image of a region in its task save area (R282). -/
def State.hasTaskImage (s : State) (tid region : Nat) : Bool := s.pkg.taskImgs.contains (tid, region)

/-- Whether a touch by a context proceeds at once: no exchange of the region is under way, and the tag is its own and no image of its
task waits, or the tag is none and it holds no image (R348). `tid` is the running thread, 0 for none. -/
def State.owns (s : State) (c : Core) (region p slot tid : Nat) : Bool :=
  !(c.exch.any (·.region = region)) && match sget .none c.owner region with
  | .ctx p' s' => p' = p && s' = slot && !s.hasTaskImage tid region
  | .none => !s.hasTaskImage tid region && !s.hasImage p slot (s.lcoreOf p slot c.num) region
  | .parked .. => false

/-- Takes a touch that proceeds: a tag of none becomes the toucher's. -/
def Core.tag (c : Core) (region p slot : Nat) : Core :=
  match sget Owner.none c.owner region with
  | .none => { c with owner := sset .none c.owner region (.ctx p slot) }
  | _ => c

/-- Asks for the exchange of a region; one exchange serves every touch that waits for it (R348). -/
def Core.askExch (c : Core) (region p slot : Nat) : Core :=
  if c.exch.any (·.region = region) then c else { c with exch := c.exch ++ [{ region, toucher := .ctx p slot }] }

/-- A touch of a region of the running core by its own task: none where it proceeds, else the state in which the
exchange has been asked for. -/
def State.touchWait (s : State) (region : Nat) : Option State :=
  let t := s.core.th.task
  if s.owns s.core region t.part t.slot s.core.th.tid then none
  else some (s.updCore fun c => c.askExch region t.part t.slot)

/-- Tags the region of a touch that proceeds. -/
def State.touched (s : State) (region : Nat) : State :=
  s.updCore fun c => c.tag region s.core.th.task.part s.core.th.task.slot

/-- The first region of a list that must wait for its exchange. -/
def State.touchAll (s : State) : List Nat → Option State
  | [] => none
  | r :: l =>
    match s.touchWait r with
    | some s1 => some ((s1.touchAll l).getD s1)
    | none => s.touchAll l

/-- Tags every region of a list. -/
def State.touchedAll (s : State) : List Nat → State
  | [] => s
  | r :: l => (s.touched r).touchedAll l

/-- Whether a slot makes a direct scratchpad access, a parameter block's capture among them (R177, R246). -/
def isDirect : Instr → Bool
  | .ldW .. | .ldH .. | .ldHu .. | .ldB .. | .ldBu .. | .stW .. | .stH .. | .stB .. | .ldf .. | .ldfe .. | .stef .. | .stf ..
  | .clrf .. | .vld .. | .vst .. | .vlds .. | .vsts .. | .vldx .. | .vstx .. | .vldf .. | .vstf .. | .vldd .. | .vstd ..
  | .mscl .. | .ccp .. | .cnd .. | .cgat .. | .csct .. | .cwb .. | .cfill .. | .cred .. | .csig .. | .xar .. | .xrs .. | .xag ..
  | .xbc .. | .xmrg .. | .xred .. | .xbar .. => true
  | _ => false

/-- The bank of a linear word address (R126, R256). -/
def bankOf (a : Nat) : Nat := a / 4 % 64

/-- Gives each word of a direct access, in lane order, the cycles until its bank serves it, two words a cycle (R126). -/
def bankPlan (banks : Sparse Nat) : List (Nat × Nat) → List (Nat × Nat) × Sparse Nat
  | [] => ([], banks)
  | (lane, a) :: l =>
    let n := sget 0 banks (bankOf a)
    let r := bankPlan (sset 0 banks (bankOf a) (n + 1)) l
    ((lane, n / 2) :: r.1, r.2)

/-- The banks after one cycle of service. -/
def bankTick (banks : Sparse Nat) : Sparse Nat :=
  (banks.filter fun e => 2 < e.2).map fun e => (e.1, e.2 - 2)

/-- The last cycle of a bank plan. -/
def planEnd (l : List (Nat × Nat)) : Nat := l.foldl (fun m e => Nat.max m e.2) 0

end Sys2Proof.Machine
end

