-- ==== Sys2Proof/Machine/Lanes.lean ====
section
/-! DEFINITION. Vectors and predicates by lane and bit (R31), and words from numbers. -/

namespace Sys2Proof.Machine

/-- Lane `i` of a vector (R31). -/
def lane (v : VReg) (i : Nat) : Word := v.extractLsb' (32 * i) 32

/-- The number whose 32-bit digits from digit `i` on are `f i`, `f (i+1)`, …. -/
def lanesNat (f : Nat → Word) (i : Nat) : Nat → Nat
  | 0 => 0
  | n + 1 => (f i).toNat + 2 ^ 32 * lanesNat f (i + 1) n

/-- The vector with the given lanes. -/
def ofLanes (f : Nat → Word) : VReg := BitVec.ofNat 2048 (lanesNat f 0 64)

/-- The predicate with the given bits. -/
def predNat (f : Nat → Bool) (i : Nat) : Nat → Nat
  | 0 => 0
  | n + 1 => b2n (f i) + 2 * predNat f (i + 1) n

def ofPred (f : Nat → Bool) : PReg := BitVec.ofNat 64 (predNat f 0 64)

/-- The bit mask of the lanes that a predicate selects (R106). -/
def laneMask (g : PReg) : VReg := ofLanes fun i => if g.getLsbD i then 0xFFFFFFFF else 0

/-- A 32-bit word from a number. -/
def w32 (n : Nat) : Word := BitVec.ofNat 32 n

/-- A 32-bit word from an integer (WRAP32 of R31). -/
def wInt (k : Int) : Word := BitVec.ofInt 32 k

/-- A vector with one lane replaced. -/
def setLane (v : VReg) (l : Nat) (w : Word) : VReg :=
  (v &&& ~~~((0xFFFFFFFF : VReg) <<< (32 * l))) ||| ((w.zeroExtend 2048 : VReg) <<< (32 * l))

end Sys2Proof.Machine
end

