-- ==== Sys2Proof/Machine/Snapshot.lean ====
section
/-! DEFINITION. The snapshot of a stopped task as words (R99, R221 to R225): what `snapr` reads and `snapw` writes. The
state holds the snapshot as entries; this file lays them out, and takes a written word back into its entry. -/

namespace Sys2Proof.Machine

/-- Scalar results not yet in lq, and queued vector loads not yet in vq. -/
def Thread.ql (t : Thread) : Nat := t.lqPend.length + t.vqPend.length

/-- M-unit operations issued and not completed. -/
def Thread.tl (t : Thread) : Nat := t.mq.length

/-- A pair of words of a 64-bit value. -/
def lo32 (v : PReg) : Word := v.truncate 32
def hi32 (v : PReg) : Word := (v >>> 32).truncate 32

/-- Replaces one half of a 64-bit value. -/
def setLo (v : PReg) (w : Word) : PReg := BitVec.ofNat 64 (v.toNat / 2 ^ 32 * 2 ^ 32 + w.toNat)
def setHi (v : PReg) (w : Word) : PReg := BitVec.ofNat 64 (w.toNat * 2 ^ 32 + v.toNat % 2 ^ 32)

/-- Whether a landing stands in the scalar and predicate region. -/
def Landing.isSp (l : Landing) : Bool := match l.dest with | .x .. | .p .. | .push .. | .flags => true | _ => false
def Landing.isV (l : Landing) : Bool := match l.dest with | .v .. => true | _ => false

/-- A scalar or predicate entry (R225). A result that only raises flags is a predicate entry of p0 with an empty mask. -/
def Landing.spWords (l : Landing) : List Word :=
  let head := fun kind push reg =>
    w32 (b2n l.valid * 2 ^ 31 + kind * 2 ^ 30 + l.flg.toNat * 2 ^ 24 + l.remain % 256 * 2 ^ 16 + push * 2 ^ 15 + reg)
  match l.dest with
  | .x n v => [head 0 0 n, v, 0, 0xFFFFFFFF, 0xFFFFFFFF]
  | .push k v => [head 0 1 (if k < 4 then 57 + k else k - 4), v, 0, 0xFFFFFFFF, 0xFFFFFFFF]
  | .p n v m => [head 1 0 n, lo32 v, hi32 v, lo32 m, hi32 m]
  | _ => [head 1 0 0, 0, 0, 0, 0]

/-- The port number of a push to a register; a register that is no link port is kept 4 higher, and is not legal (R226). -/
def pushPort (r : Nat) : Nat := if 57 ≤ r ∧ r ≤ 60 then r - 57 else r + 4

/-- The entry of five words (R225). -/
def spLanding (seq : Nat) (w : List Word) : Landing :=
  let h := (lget 0 w 0).toNat
  let v := setHi (setLo 0 (lget 0 w 1)) (lget 0 w 2)
  let m := setHi (setLo 0 (lget 0 w 3)) (lget 0 w 4)
  { remain := bits h 23 16, seq, flg := BitVec.ofNat 6 (bits h 29 24), pend := false, valid := bit h 31
    dest := if bit h 30 then .p (bits h 6 0) v m
      else if bit h 15 then .push (pushPort (bits h 6 0)) (lget 0 w 1) else .x (bits h 6 0) (lget 0 w 1) }

/-- Takes a written word of a scalar or predicate entry. -/
def Landing.setSp (l : Landing) (k : Nat) (w : Word) : Landing :=
  let e := spLanding l.seq (lset l.spWords k w)
  { e with pend := l.pend }

/-- The lanes that a mask of bits touches (R225 keeps lanes; a packing's finer mask stays with the entry). -/
def laneBits (m : VReg) : PReg := ofPred fun i => lane m i ≠ 0

/-- A vector entry (R225): four words and the lanes. -/
def Landing.vWord (l : Landing) (k : Nat) : Word :=
  match l.dest with
  | .v n v m =>
    if k = 0 then w32 (b2n l.valid * 2 ^ 31 + l.flg.toNat * 2 ^ 24 + l.remain % 256 * 2 ^ 16 + n)
    else if k = 1 then lo32 (laneBits m)
    else if k = 2 then hi32 (laneBits m)
    else if k = 3 then 0
    else lane v (k - 4)
  | _ => 0

/-- Takes a written word of a vector entry. -/
def Landing.setV (l : Landing) (k : Nat) (w : Word) : Landing :=
  match l.dest with
  | .v n v m =>
    if k = 0 then
      { l with valid := w.getLsbD 31, flg := BitVec.ofNat 6 (bits w.toNat 29 24), remain := bits w.toNat 23 16,
               dest := .v (bits w.toNat 5 0) v m }
    else if k = 1 then { l with dest := .v n v (laneMask (setLo (laneBits m) w)) }
    else if k = 2 then { l with dest := .v n v (laneMask (setHi (laneBits m) w)) }
    else if k = 3 then l
    else { l with dest := .v n (setLane v (k - 4) w) m }
  | _ => l

/-- A word of a slip entry (R225). -/
def Slip.word (e : Slip) (j : Nat) : Word :=
  match j with
  | 0 => w32 (b2n e.valid * 2 ^ 31 + e.slot % 4 * 2 ^ 29 + e.why % 8 * 2 ^ 24 + e.sq % 256 * 2 ^ 16 + e.hld % 16 * 2 ^ 8 + e.ext % 256)
  | 1 => e.sword
  | 2 => e.baddr
  | 3 => if e.pend.contains .g then 0 else lo32 e.ops.g
  | 4 => if e.pend.contains .g then 0 else hi32 e.ops.g
  | 5 => if e.pend.contains .a then 0 else e.ops.xa
  | 6 => if e.pend.contains .b then 0 else e.ops.xb
  | 7 => if e.pend.contains .d then 0 else e.ops.xd
  | _ => 0

/-- The operation of a rewritten slot word; a step of the device, which no slot holds, marks a word that does not decode
(R226). -/
def redecode (ext : Nat) (w : Word) : Instr :=
  match decodeSlot (some ext) w.toNat with
  | .ok i => i
  | .error _ => match decodeSlot none w.toNat with
    | .ok i => if ext = 0 then i else .packageReset
    | .error _ => .packageReset

/-- An entry whose checks are to be made again, as it is no longer the operation that passed them: a handler has rewritten its slot word,
its extension or its operands (DESIGN CHOICE, log entry 123). -/
def Slip.unchecked (e : Slip) : Slip := { e with checked := false, early := { e.early with place := none } }

/-- A written word of a slip entry as its field. -/
def Slip.putWord (e : Slip) (j : Nat) (w : Word) : Slip :=
  match j with
  | 0 =>
    let ext := bits w.toNat 7 0
    { e with valid := w.getLsbD 31, slot := bits w.toNat 30 29, why := bits w.toNat 26 24, sq := bits w.toNat 23 16
             hld := bits w.toNat 11 8, ext, pend := if bits w.toNat 26 24 = 2 then e.pend else []
             instr := if ext = e.ext then e.instr else redecode ext e.sword }
  | 1 => { e with sword := w, instr := if w = e.sword then e.instr else redecode e.ext w }
  | 2 => { e with baddr := w }
  | 3 => { e with ops := { e.ops with g := setLo e.ops.g w } }
  | 4 => { e with ops := { e.ops with g := setHi e.ops.g w } }
  | 5 => { e with ops := { e.ops with xa := w } }
  | 6 => { e with ops := { e.ops with xb := w } }
  | 7 => { e with ops := { e.ops with xd := w } }
  | _ => e

/-- Takes a written word of a slip entry. -/
def Slip.setWord (e : Slip) (j : Nat) (w : Word) : Slip :=
  let x := e.putWord j w
  if x.instr = e.instr ∧ x.ops = e.ops then x else x.unchecked

/-- A field of a nest configuration; COUNT reads 1 where it was never written (R157). -/
def MCfg.get (m : MCfg) (n : Nat) : Word := sget (if 8 ≤ n ∧ n % 4 = 0 then 1 else 0) m.sel n

/-- Writes a field; COUNT keeps bits [15:0] (R157), MODE its two bits (R158). -/
def MCfg.set (m : MCfg) (n : Nat) (w : Word) : MCfg :=
  let v := if 8 ≤ n ∧ n % 4 = 0 then w &&& 0xFFFF else if n = 4 then w &&& 3 else w
  { m with sel := sset (if 8 ≤ n ∧ n % 4 = 0 then 1 else 0) m.sel n v }

/-- The selector at word `k` of the shadow region (R223). -/
def cfgSel (k : Nat) : Nat := if k ≤ 4 then k else 8 + (k - 5)

/-- A word of the shadow region. -/
def MCfg.word (m : MCfg) (k : Nat) : Word := if k ≤ 28 then m.get (cfgSel k) else if k = 29 then m.cellseq else 0
def MCfg.setWord (m : MCfg) (k : Nat) (w : Word) : MCfg :=
  if k ≤ 28 then m.set (cfgSel k) w else if k = 29 then { m with cellseq := w } else m

/-- The M entries of a stopped task (R174, R225): operations not started and a nest stopped between passes. -/
def MOp.kept (m : MOp) : Bool := m.started.isNone || (m.stop && m.pass.isNone)

def MOp.word (m : MOp) (k : Nat) : Word :=
  if k = 0 then w32 (b2n (!m.dropped) * 2 ^ 31 + b2n m.started.isSome * 2 ^ 28)
  else if k = 1 then m.sword
  else if k = 2 then m.xa
  else if k = 3 then m.xb
  else if k < 34 then m.cfg.word (k - 4)
  else if k < 50 then lget 0x3F800000 m.scale (k - 34)
  else if k < 56 then w32 (lget 0 m.idx (k - 50))
  else 0

/-- Takes a written word of an M entry; KIND 1 makes it a stopped nest, KIND 0 an operation not started (R225). -/
def MOp.setWord (m : MOp) (k : Nat) (w : Word) : MOp :=
  if k = 0 then
    let m1 : MOp := { m with dropped := !w.getLsbD 31 }
    if bits w.toNat 30 28 = b2n m.started.isSome then m1
    else if bit w.toNat 28 then { m1 with started := some 0, stop := true } else { m1 with started := none, stop := false }
  else if k = 1 then { m with sword := w, instr := if w = m.sword then m.instr else redecode 0 w }
  else if k = 2 then { m with xa := w }
  else if k = 3 then { m with xb := w }
  else if k < 34 then { m with cfg := m.cfg.setWord (k - 4) w }
  else if k < 50 then { m with scale := lset ((List.range 16).map fun i => lget 0x3F800000 m.scale i) (k - 34) w }
  else if k < 56 then { m with idx := lset m.idx (k - 50) w.toNat }
  else m

/-- A copy entry (R225). -/
def Cmd.word (c : Cmd) (k : Nat) : Word :=
  match k with
  | 0 => w32 (b2n (!c.dropped) * 2 ^ 31 + bits c.sword.toNat 23 18 * 2 ^ 24
      + (if bits c.sword.toNat 31 28 = 0xC then 2 ^ 23 else 0) + c.tok % 8 * 2 ^ 20 + c.fl % 8 * 2 ^ 17 + c.slot % 4 * 2 ^ 15)
  | 1 => c.due
  | 2 => c.baddr
  | k => lget 0 c.blk (k - 3)

def Cmd.setWord (c : Cmd) (k : Nat) (w : Word) : Cmd :=
  match k with
  | 0 =>
    let n := w.toNat
    let sword := w32 ((if bit n 23 then 0xC else 0xB) * 2 ^ 28 + bits c.sword.toNat 27 24 * 2 ^ 24 + bits n 29 24 * 2 ^ 18
      + bits n 22 20 * 2 ^ 15 + bits n 19 17 * 2 ^ 12 + c.sword.toNat % 4096)
    { c with dropped := !w.getLsbD 31, tok := bits n 22 20, fl := bits n 19 17, slot := bits n 16 15, sword,
             instr := if sword = c.sword then c.instr else redecode 0 sword }
  | 1 => { c with due := w }
  | 2 => { c with baddr := w }
  | k => { c with blk := lset c.blk (k - 3) w }

/-- A fault record (R221). -/
def FaultRec.word (f : FaultRec) (k : Nat) : Word :=
  match k with
  | 0 => if f.valid then w32 (2 ^ 31 + f.sub % 256 * 2 ^ 16 + f.slot % 4 * 2 ^ 8 + f.cause % 256) else 0
  | 1 => f.baddr
  | 2 => f.sword
  | 3 => f.xa
  | 4 => f.xb
  | 5 => lo32 f.fva
  | 6 => hi32 f.fva
  | 7 => f.step
  | k => lget 0 f.ext (k - 8)

def FaultRec.setWord (f : FaultRec) (k : Nat) (w : Word) : FaultRec :=
  match k with
  | 0 => { f with valid := w.getLsbD 31, sub := bits w.toNat 23 16, slot := bits w.toNat 9 8, cause := bits w.toNat 7 0 }
  | 1 => { f with baddr := w }
  | 2 => { f with sword := w }
  | 3 => { f with xa := w }
  | 4 => { f with xb := w }
  | 5 => { f with fva := setLo f.fva w }
  | 6 => { f with fva := setHi f.fva w }
  | 7 => { f with step := w }
  | k => { f with ext := lset (f.ext ++ List.replicate (16 - f.ext.length) 0) (k - 8) w }

/-- The bits of a list of record numbers. -/
def recMask (f : Nat → Bool) : Nat := (predNat f 0 8)

/-- A word of the header (R224). The counters and tokens are those of the live engine. -/
def headWord (t : Thread) (n : Snap) (qs cp : Nat) (tok : Nat → Nat) (k : Nat) : Word :=
  match k with
  | 0 => 1
  | 1 => n.rpc
  | 2 => w32 (n.nsp * 2 ^ 24 + n.nv * 2 ^ 16 + n.nsl * 2 ^ 11 + (t.mq.countP (·.kept)) * 2 ^ 8 + t.cbuf.length * 4)
  | 3 => w32 (t.ql % 64 * 2 ^ 26 + qs % 64 * 2 ^ 20 + cp % 64 * 2 ^ 14 + t.tl % 8 * 2 ^ 11)
  | 4 => w32 (tok 0 + tok 1 * 2 ^ 8 + tok 2 * 2 ^ 16 + tok 3 * 2 ^ 24)
  | 5 => w32 (tok 4 + tok 5 * 2 ^ 8 + tok 6 * 2 ^ 16 + tok 7 * 2 ^ 24)
  | 6 => n.rrb
  | 7 => n.lc
  | 8 => n.ec
  | 9 => n.stop
  | 10 => w32 (t.lost % 256 * 2 ^ 16 + recMask (fun i => t.pendF.any fun f => f.val = w32 i) * 2 ^ 8
      + recMask (fun i => (sget {} t.recs i).valid))
  | 11 => w32 (b2n n.gw * 2 ^ 15 + n.grp % 64 * 2 ^ 9 + n.why % 4)
  | _ => 0

/-- An entry of a region: the `k`-th of those held, or one that a handler has made at that place. -/
def heldOr {α : Type} (l : List α) (made : List (Nat × α)) (k : Nat) : Option α :=
  match l[k]? with
  | some x => some x
  | none => (made.find? (·.1 = k)).map (·.2)

/-- Word `w` of the snapshot of a stopped task (R223). -/
def snapWord (t : Thread) (n : Snap) (qs cp : Nat) (tok : Nat → Nat) (w : Nat) : Word :=
  let of := fun (o : Option Word) => o.getD 0
  if w < 0x10 then headWord t n qs cp tok w
  else if w < 0x150 then of ((n.land.filter (·.isSp))[(w - 0x10) / 5]?.map fun l => lget 0 l.spWords ((w - 0x10) % 5))
  else if w < 0x1250 then of ((n.land.filter (·.isV))[(w - 0x150) / 68]?.map fun l => l.vWord ((w - 0x150) % 68))
  else if w < 0x12D0 then of (n.slips[(w - 0x1250) / 8]?.map fun e => e.word ((w - 0x1250) % 8))
  else if w < 0x1350 then lane (lget 0 n.holders ((w - 0x12D0) / 64)) ((w - 0x12D0) % 64)
  else if w < 0x1370 then t.shadow.word (w - 0x1350)
  else if w < 0x1470 then of ((heldOr (t.mq.filter (·.kept)) n.newM ((w - 0x1370) / 64)).map fun m => m.word ((w - 0x1370) % 64))
  else if w < 0x16D0 then of ((heldOr t.cbuf n.newC ((w - 0x1470) / 19)).map fun c => c.word ((w - 0x1470) % 19))
  else if w < 0x1790 then (sget {} t.recs ((w - 0x16D0) / 24)).word ((w - 0x16D0) % 24)
  else 0

/-- Whether a word of a thread's snapshot belongs to a captured result that an uncorrectable error has struck (R361). -/
def Thread.badWord (t : Thread) (w : Nat) : Bool :=
  match t.snap with
  | none => false
  | some n =>
    let bad := fun (o : Option Landing) => match o with | some l => l.bad | none => false
    if 0x10 ≤ w ∧ w < 0x150 then bad ((n.land.filter (·.isSp))[(w - 0x10) / 5]?)
    else if 0x150 ≤ w ∧ w < 0x1250 then bad ((n.land.filter (·.isV))[(w - 0x150) / 68]?)
    else false

/-- Changes the `k`-th element that satisfies a test. -/
def mapNth {α : Type} (c : α → Bool) (f : α → α) : List α → Nat → List α
  | [], _ => []
  | x :: l, k => if c x then (match k with | 0 => f x :: l | k + 1 => x :: mapNth c f l k) else x :: mapNth c f l k

/-- Entries with VALID clear, for places beyond those held (R225). -/
def blankSp : Landing := { remain := 0, seq := 0, flg := 0, pend := false, dest := .x 0 0, valid := false }
def blankV : Landing := { remain := 0, seq := 0, flg := 0, pend := false, dest := .v 0 0 0, valid := false }

/-- A blank slip entry: it stands in program order after those held, and takes from its thread what an operation presented at the
stop would (log entry 105). -/
def Thread.blankSlip (t : Thread) (n : Snap) (k : Nat) : Slip :=
  { slot := 0, why := 0, seq := (n.base + k) * 4, ext := 0, sword := 0, baddr := 0, rrb := n.rrb, instr := .nop, ops := {}, pend := []
    lanes := [], part := 0, sq := k, valid := false
    early := { scale := t.scale, scaleV := t.scaleV, shadow := t.shadow, tags := t.tags } }

/-- A blank M entry and a blank copy entry of a thread. -/
def Thread.blankM (t : Thread) : MOp :=
  { instr := .nop, seq := 0, slot := 0, sword := 0, baddr := 0, xa := 0, xb := 0, cfg := {}, scale := [], dropped := true, pts := t.csr.pts }
def Thread.blankCmd (t : Thread) (k : Nat) : Cmd :=
  { ref := t.cref + k, tid := t.tid, task := t.task, own := t.core, after := t.qid, instr := .nop, sword := 0, slot := 0, baddr := 0
    tok := 0, fl := 0, due := 0, blk := List.replicate 16 0, xa := 0, xb := 0, dropped := true, pts := t.csr.pts }

/-- Fills a list with blanks, so that it has an element `k`. -/
def padTo {α : Type} (l : List α) (blank : Nat → α) (k : Nat) : List α :=
  l ++ (List.range (k + 1 - l.length)).map fun j => blank (l.length + j)

/-- Changes the entry of place `k`, which a handler may thereby make. -/
def makeAt {α : Type} (made : List (Nat × α)) (blank : α) (k : Nat) (f : α → α) : List (Nat × α) :=
  if made.any (·.1 = k) then lmapIf (·.1 = k) (fun e => (k, f e.2)) made else made ++ [(k, f blank)]

/-- `snapw` of word `w` (R99, R224, R225): RO fields keep their value. -/
def snapSet (t : Thread) (n : Snap) (w : Nat) (v : Word) : Thread :=
  let put := fun (n : Snap) => { t with snap := some n }
  if w < 0x10 then
    match w with
    | 1 => put { n with rpc := v }
    | 6 => put { n with rrb := v }
    | 7 => put { n with lc := v }
    | 8 => put { n with ec := v }
    | 11 => put { n with gw := v.getLsbD 15 }
    | _ => t
  else if w < 0x150 then
    let k := (w - 0x10) / 5
    let l := n.land ++ List.replicate (k + 1 - n.land.countP (·.isSp)) blankSp
    put { n with land := mapNth (·.isSp) (fun l => l.setSp ((w - 0x10) % 5) v) l k }
  else if w < 0x1250 then
    let k := (w - 0x150) / 68
    let l := n.land ++ List.replicate (k + 1 - n.land.countP (·.isV)) blankV
    put { n with land := mapNth (·.isV) (fun l => l.setV ((w - 0x150) % 68) v) l k }
  else if w < 0x12D0 then
    let k := (w - 0x1250) / 8
    put { n with slips := mapNth (fun _ => true) (fun e => e.setWord ((w - 0x1250) % 8) v) (padTo n.slips (t.blankSlip n) k) k }
  else if w < 0x1350 then
    let k := (w - 0x12D0) / 64
    if k < n.holders.length then put { n with holders := lset n.holders k (setLane (lget 0 n.holders k) ((w - 0x12D0) % 64) v) } else t
  else if w < 0x1370 then { t with shadow := t.shadow.setWord (w - 0x1350) v }
  else if w < 0x1470 then
    let k := (w - 0x1370) / 64
    let f := fun (m : MOp) => m.setWord ((w - 0x1370) % 64) v
    if k < t.mq.countP (·.kept) then { t with mq := mapNth (·.kept) f t.mq k } else put { n with newM := makeAt n.newM t.blankM k f }
  else if w < 0x16D0 then
    let k := (w - 0x1470) / 19
    let f := fun (c : Cmd) => c.setWord ((w - 0x1470) % 19) v
    if k < t.cbuf.length then { t with cbuf := mapNth (fun _ => true) f t.cbuf k }
    else put { n with newC := makeAt n.newC (t.blankCmd k) k f }
  else if w < 0x1790 then
    let k := (w - 0x16D0) / 24
    { t with recs := sset {} t.recs k ((sget {} t.recs k).setWord ((w - 0x16D0) % 24) v) }
  else t

end Sys2Proof.Machine
end

