-- ==== Sys2Proof/Machine/Registers.lean ====
section
/-! DEFINITION. The core's shared operations on registers: the rotation (R26), results and their landing (R204), pending
registers (R206), what an operation takes at its issue (R207), the hold queue (R138, R192), the class counters (R134), and leaving
groups (R94). -/

namespace Sys2Proof.Machine

/-! ### Registers -/

def physX (rrb : Word) (n : Nat) : Nat :=
  if 32 ≤ n ∧ n ≤ 55 then 32 + (n - 32 + bits rrb.toNat 4 0) % 24 else n

def physV (rrb : Word) (n : Nat) : Nat :=
  if 32 ≤ n ∧ n ≤ 61 then 32 + (n - 32 + bits rrb.toNat 12 8) % 30 else n

def physP (rrb : Word) (n : Nat) : Nat :=
  if 64 ≤ n then 64 + (n - 64 + bits rrb.toNat 21 16) % 64 else n

/-- A physical scalar register; x0 reads 0 (R24). -/
def Thread.rx (t : Thread) (n : Nat) : Word := if n = 0 then 0 else sget 0 t.x n

/-- A physical vector register. -/
def Thread.rv (t : Thread) (n : Nat) : VReg := sget 0 t.v n

/-- A physical predicate register; p0 reads all ones (R24). -/
def Thread.rp (t : Thread) (n : Nat) : PReg := if n = 0 then -1 else sget 0 t.p n

/-- The rotation bases in force for the operation: those at its issue (R212). -/
def State.rrb (s : State) : Word := match s.core.env.served with | some _ => s.core.env.rrb | none => s.core.th.csr.rrb

/-- The channel bound to a link port (R191). -/
def State.portChan (s : State) (n : Nat) : Option Nat :=
  match sget 0 s.core.th.binds (n - 57) with
  | 0 => none
  | c + 1 => some c

/-- A scalar source as written: a port shows its oldest entry (R25). -/
def State.srcX (s : State) (n : Nat) : Word :=
  if n = 56 then s.core.th.lq.headD 0
  else if 57 ≤ n ∧ n ≤ 60 then
    match s.portChan n with
    | some ch => match s.headMsg ch with | some m => w32 (leNat m.payload) | none => 0
    | none => 0
  else s.core.th.rx (physX s.rrb n)

/-- A vector source as written; v62 shows the oldest entry of vq (R25). -/
def State.srcV (s : State) (n : Nat) : VReg :=
  if n = vqReg then s.core.th.vq.headD 0 else s.core.th.rv (physV s.rrb n)

/-- A predicate source as written. -/
def State.srcP (s : State) (n : Nat) : PReg := s.core.th.rp (physP s.rrb n)

/-- Puts a scalar source under the field that names it. -/
def Opnds.setX (o : Opnds) (r : Role) (v : Word) : Opnds :=
  match r with
  | .a => { o with xa := v }
  | .a1 => { o with xa1 := v }
  | .b => { o with xb := v }
  | .d => { o with xd := v }
  | .g | .c => o

def Opnds.setV (o : Opnds) (r : Role) (v : VReg) : Opnds :=
  match r with
  | .a => { o with va := v }
  | .b => { o with vb := v }
  | .d => { o with vd := v }
  | _ => o

def Opnds.setP (o : Opnds) (r : Role) (v : PReg) : Opnds :=
  match r with
  | .a => { o with pa := v }
  | .b => { o with pb := v }
  | .d => { o with pd := v }
  | .g => { o with g := v }
  | .a1 | .c => o

/-- All sources of an operation as read now (R204). -/
def State.opnds (s : State) (i : Instr) : Opnds :=
  let h := shape i
  let o0 : Opnds := { g := s.srcP h.g }
  let o1 := h.xs.foldl (fun o r => o.setX r.1 (s.srcX r.2)) o0
  let o2 := h.vs.foldl (fun o r => o.setV r.1 (s.srcV r.2)) o1
  h.ps.foldl (fun o r => o.setP r.1 (s.srcP r.2)) o2

/-- Pops the ports an operation reads (R25). -/
def State.pop (s : State) (i : Instr) : State :=
  (shape i).pops.foldl (fun s n =>
    if n = 56 then s.updTh fun t => { t with lq := t.lq.tail }
    else if n = 126 then s.updTh fun t => { t with vq := t.vq.tail }
    else match s.portChan n with | some ch => s.dropMsg ch | none => s) s

/-! ### What an operation takes at its issue beside its sources (R207) -/

/-- The thread as it was before the bundle (R204). -/
def State.thBefore (s : State) : Thread := s.core.env.th0.getD s.core.th

/-- A dimension of a task's domain; an undeclared one reads lo 0, hi 1, grain 1 (R98). -/
def Task.dim (t : Task) (k : Nat) : Nat × Nat × Nat := if k < t.ndim then lget (0, 1, 1) t.dims k else (0, 1, 1)

/-- The selectors of `tdom` (R98). -/
def Task.domWord (t : Task) (k : Nat) : Nat :=
  if k ≤ 2 then (t.dim k).1
  else if k ≤ 6 then (t.dim (k - 4)).2.1
  else if k ≤ 10 then (t.dim (k - 8)).2.2
  else if k = 12 then t.ndim
  else t.depth

/-- The selectors of `tbud` (R98). -/
def Thread.budWord (t : Thread) (k : Nat) : Word :=
  match k with
  | 0 => w32 t.task.spad
  | 1 => w32 t.task.accr
  | 2 => if t.limited && !t.spent then w32 t.left else 0xFFFFFFFF
  | 3 => w32 (t.task.hold - t.holdq.length)
  | _ => w32 t.task.hold


/-! ### The hold queue (R138, R186, R192) -/

/-- Whether the hold queue has no free entry. -/
def Thread.holdFull (t : Thread) : Bool := t.task.hold ≤ t.holdq.length

/-- Whether a held effect finds no entry: the queue is full, and the operation has reserved none at its issue. -/
def State.noHold (s : State) : Bool := s.core.th.holdFull && !s.core.th.holdq.contains (.reserved s.core.env.seq)

/-- A held effect takes its entry: the one that its operation reserved at issue, or a new one (R18). -/
def State.hold (s : State) (h : Held) : State :=
  s.updTh fun t =>
    { t with holdq := if t.holdq.contains (.reserved s.core.env.seq)
        then lmapIf (fun x => x = Held.reserved s.core.env.seq) (fun _ => h) t.holdq else t.holdq ++ [h] }

/-- An operation gives up the entry it reserved. -/
def State.unreserve (s : State) (seq : Nat) : State :=
  s.updTh fun t => { t with holdq := t.holdq.filter fun x => x ≠ Held.reserved seq }

/-- Whether an operation of a foldable task may take a hold entry at its issue: an atomic, a send, a port push, a command that may
make a signal (R138, R186, R192). -/
def takesHold (i : Instr) : Bool :=
  (shape i).pushes ≠ [] || match i with
    | .amoAdd .. | .amoAnd .. | .amoOr .. | .amoXor .. | .amoMin .. | .amoMax .. | .amoMinu .. | .amoMaxu .. | .amoSwap ..
    | .amoCas .. | .famoAdd .. | .famoMax .. | .famoOr .. | .famoSwap .. | .csnd .. | .csig .. | .ccp .. | .cnd ..
    | .cgat .. | .csct .. | .cwb .. | .cfill .. => true
    | _ => false

/-! ### Results -/

/-- Puts a result in flight: it lands in `lat` cycles (R204); the register of an operation that slipped is pending
until then (R206). -/
def State.result (s : State) (lat : Nat) (flg : Flags) (d : Dest) : State :=
  s.updTh fun t =>
    { t with inflight := t.inflight ++
        [{ remain := lat, seq := s.core.env.seq, flg, pend := s.core.env.served.isSome, dest := d }] }

/-- A scalar result for a destination as written: x0 discards it, a link port pushes it (R73, R74); a push of a foldable task is
captured into its hold entry (R192). -/
def State.putX (s : State) (lat d : Nat) (v : Word) : State :=
  if d = 0 then s
  else if 57 ≤ d ∧ d ≤ 60 then
    if s.core.th.task.foldable then
      match s.portChan d with
      | some ch => s.hold (.message ch (leBytes v.toNat 4))
      | none => s
    else s.result lat 0 (.push (d - 57) v)
  else s.result lat 0 (.x (physX s.rrb d) v)

/-- A predicate result, written where `mask` has ones; p0 keeps only the flags. -/
def State.putP (s : State) (lat d : Nat) (v mask : PReg) (flg : Flags) : State :=
  if d = 0 then s.result lat flg .flags else s.result lat flg (.p (physP s.rrb d) v mask)

/-- A vector result, written where `mask` has ones (R106). -/
def State.putV (s : State) (lat d : Nat) (v mask : VReg) (flg : Flags) : State :=
  s.result lat flg (.v (physV s.rrb d) v mask)

/-- A CSR write, in force for the next bundle (R87). -/
def State.putCsr (s : State) (n : Nat) (op : CsrOp) (v : Word) : State := s.result 1 0 (.csr n op v)

/-- Merges a CSR field write (R87). -/
def csrMerge (op : CsrOp) (old v : Word) : Word :=
  match op with
  | .write => v
  | .set => old ||| v
  | .clear => old &&& ~~~v

/-- RRB as stored: each base modulo its file (R26, R89). -/
def rrbStore (w : Word) : Word :=
  w32 (bits w.toNat 21 16 * 65536 + bits w.toNat 12 8 % 30 * 256 + bits w.toNat 4 0 % 24)

/-- A CSR register written whole; RO and RSV fields keep their value (R6, R88, R89). -/
def Thread.setCsr (t : Thread) (n : Nat) (w : Word) : Thread :=
  let c := t.csr
  match n with
  | 0x008 => { t with csr := { c with vflags := w.truncate 6 } }
  | 0x009 => { t with csr := { c with lc := w } }
  | 0x00A => { t with csr := { c with ec := w &&& 0x3F } }
  | 0x00B => { t with csr := { c with rrb := rrbStore w } }
  | 0x013 => { t with csr := { c with lease := if w.toNat % 65536 = 0 then 1 else w.toNat % 65536 } }
  | 0x020 => { t with csr := { c with trapvec := w &&& 0xFFFFFFF1 } }
  | 0x021 => { t with csr := { c with epc := w } }
  | 0x022 => { t with csr := { c with ecause := w &&& 0x8000FFFF } }
  | 0x023 => { t with csr := { c with evalw := w } }
  | 0x024 => { t with csr := { c with estat := w &&& 3 }, holdCnt := if w.getLsbD 1 then 65536 else t.holdCnt }
  | 0x025 => { t with csr := { c with escr := w } }
  | _ => t

/-- The CSRs that are stored registers, by number (R88). -/
def Thread.getCsr (t : Thread) (n : Nat) : Word :=
  let c := t.csr
  match n with
  | 0x004 => t.task.id
  | 0x008 => c.vflags.zeroExtend 32
  | 0x009 => c.lc
  | 0x00A => c.ec
  | 0x00B => c.rrb
  | 0x012 => w32 c.pts
  | 0x013 => w32 c.lease
  | 0x018 => c.gmask.truncate 32
  | 0x019 => (c.gmask >>> 32).truncate 32
  | 0x020 => c.trapvec
  | 0x021 => c.epc
  | 0x022 => c.ecause
  | 0x023 => c.evalw
  | 0x024 => c.estat
  | 0x025 => c.escr
  | 0x028 => 1
  | 0x029 => 6144
  | _ => 0

/-- The latch of `rtime` as a register that operations write and read (R102): a number that no CSR has. -/
def csrLatch : Nat := 0x1000

/-- The value of a CSR of a thread of the running core (R88), or of the latch of `rtime`. -/
def State.csrOf (s : State) (t : Thread) (n : Nat) : Word :=
  match n with
  | 0x000 => w32 (s.core.num % 1024 * 2 ^ 16 + s.myLog % 1024)
  | 0x001 => w32 (t.task.part % 8)
  | 0x002 => w32 (match s.taskCtx t.task with | some d => d.rank | none => 0)
  | 0x003 => w32 (match s.taskCtx t.task with | some d => d.gangsz | none => 0)
  | 0x010 => w32 s.pkg.time
  | 0x011 => w32 (s.pkg.time / 2 ^ 32)
  | 0x1000 => t.tlatch
  | _ => t.getCsr n

/-- The value of a CSR before the bundle (R87). -/
def State.csrVal (s : State) (n : Nat) : Word := s.csrOf s.thBefore n

/-- The word that an operation samples at its issue (R87, R98, R102). `tbud` with selector 3 counts the hold entries that lower slots of
its bundle have taken (DESIGN CHOICE, log entry 125). -/
def State.sample (s : State) (i : Instr) : Word :=
  match i with
  | .csrr _ _ c => s.csrVal c
  | .tdom _ _ k => w32 (s.core.th.task.domWord k)
  | .tbud _ _ k => s.core.th.budWord k
  | .rtime _ _ 0 => w32 s.pkg.time
  | .rtime _ _ 1 => w32 (s.pkg.time / 2 ^ 32)
  | .rtime .. => s.csrVal csrLatch
  | _ => 0

/-- What an operation takes as it is presented: the tables stand as they were before its bundle (R62, R100). -/
def State.takeEarly (s : State) (i : Instr) : Early :=
  let t := s.thBefore
  { scale := t.scale, scaleV := t.scaleV, shadow := t.shadow, val := s.sample i, time := s.pkg.time
    tags := match i with | .tlook .. => t.tags | _ => [] }

/-- What the operation took at its issue: now, or for a slip entry being served what the entry kept. -/
def State.early (s : State) (i : Instr) : Early :=
  match s.core.env.served with
  | some _ => s.core.env.early
  | none => s.takeEarly i

/-- A write of a whole register clears its poison (R361). -/
def Thread.cleanReg (t : Thread) (r : Nat × Nat) (whole : Bool) : Thread :=
  if whole then { t with rpoison := t.rpoison.filter (· ≠ r) } else t

/-- Writes a word of the snapshot of a thread (R99). -/
def State.snapPut (s : State) (tid w : Nat) (v : Word) : State :=
  let f := fun (t : Thread) => match t.snap with | some n => snapSet t n w v | none => t
  if tid = s.core.th.tid then s.updTh f else s.updThread tid f

/-- A register by kind and physical number: 0 scalar, 1 vector, 2 predicate, 3 CSR. -/
abbrev RegId := Nat × Nat

/-- The register of a landing. -/
def Dest.reg : Dest → Option RegId
  | .x n _ => some (0, n)
  | .p n _ _ => some (2, n)
  | .v n _ _ => some (1, n)
  | .csr n _ _ => some (3, n)
  | _ => none

/-- Writes a result where it lands, and ORs its flags into VFLAGS (R45, R106). A push goes to the channel that its port is bound to
as it lands, and is lost where none is (log entry 100). A result that an error has struck leaves its register poisoned (R361). -/
def State.landOne (s : State) (l : Landing) : State :=
  let s0 := s.updTh fun t => { t with csr := { t.csr with vflags := t.csr.vflags ||| l.flg } }
  let s1 := if l.bad then s0.updTh fun t => { t with rpoison := t.rpoison ++ (l.dest.reg.filter (!t.rpoison.contains ·)).toList } else s0
  match l.dest with
  | .x n v => s1.updTh fun t => { t.cleanReg (0, n) (!l.bad) with x := sset 0 t.x n v }
  | .p n v m => s1.updTh fun t => { t.cleanReg (2, n) (m = -1 && !l.bad) with p := sset 0 t.p n ((sget 0 t.p n &&& ~~~m) ||| (v &&& m)) }
  | .v n v m => s1.updTh fun t => { t.cleanReg (1, n) (m = -1 && !l.bad) with v := sset 0 t.v n ((sget 0 t.v n &&& ~~~m) ||| (v &&& m)) }
  | .push k v =>
    match s1.portChan (57 + k) with
    | some ch => s1.sendMsg ch (leBytes v.toNat 4)
    | none => s1
  | .csr n op v => s1.updTh fun t => t.setCsr n (csrMerge op (t.getCsr n) v)
  | .member g on => s1.updTh fun t =>
      let b : BitVec 64 := BitVec.ofNat 64 (2 ^ g)
      { t with csr := { t.csr with gmask := if on then t.csr.gmask ||| b else t.csr.gmask &&& ~~~b } }
  | .bind k ch => s1.updTh fun t =>
      { t with binds := sset 0 t.binds k (match ch with | some c => c + 1 | none => 0) }
  | .snap tid w v => s1.snapPut tid w v
  | .flags => s1

/-- Whether a landing writes a CSR, a binding or a group membership: no register a snapshot captures (R225). -/
def Landing.isCsr (l : Landing) : Bool :=
  match l.dest with
  | .csr .. | .member .. | .bind .. => true
  | _ => false

/-- The order in which results land: by cycle; in one cycle CSR writes first, as a landing flag is ORed into VFLAGS as written
(R45), then registers in program order (R204). -/
def Landing.before (a b : Landing) : Bool :=
  a.remain < b.remain || (a.remain = b.remain && ((a.isCsr && !b.isCsr) || (a.isCsr = b.isCsr && a.seq < b.seq)))

/-- Lands results in that order. -/
def State.landAll (s : State) (l : List Landing) : State := (sortBy Landing.before l).foldl State.landOne s

/-- Lands every result that is due. -/
def State.landDue (s : State) : State :=
  (s.updTh fun t => { t with inflight := t.inflight.filter (·.remain ≠ 0) }).landAll (s.core.th.inflight.filter (·.remain = 0))

/-! ### Pending registers (R206) -/

/-- RRB with every base one lower, modulo its file (ROTATE of R85). -/
def rotRrb (w : Word) : Word :=
  w32 ((bits w.toNat 21 16 + 63) % 64 * 65536 + (bits w.toNat 12 8 + 29) % 30 * 256 + (bits w.toNat 4 0 + 23) % 24)

/-- The registers an operation writes, under given rotation bases; x0, p0 and ports are none; a CSR counts as one (R21). The p64 that `brlc` writes
is named through the rotated bases (R85); the latch that `rtime` writes is one too (R102). -/
def destRegs (rrb : Word) (i : Instr) : List RegId :=
  let h := shape i
  ((h.xd.filter fun n => n ≠ 0 && !xPort n).map fun n => (0, physX rrb n)) ++ h.vd.map (fun n => (1, physV rrb n))
    ++ ((h.pd.filter (· ≠ 0)).map fun n =>
      (2, physP (match i with | .brlc .. => rotRrb rrb | _ => rrb) n)) ++ h.csr.map (fun n => (3, n))
    ++ match i with | .rtime _ _ 1 => [(3, csrLatch)] | _ => []

/-- The CSRs an operation reads. -/
def csrReads : Instr → List Nat
  | .csrr _ _ c => [c]
  | .brlc .. => [csrLC, csrEC, csrRRB]
  | .rtime _ _ 2 => [csrLatch]
  | _ => []

/-- The registers an operation reads, with the field of each; a CSR is read as the operation acts. -/
def srcRegs (rrb : Word) (i : Instr) : List (Role × RegId) :=
  let h := shape i
  ((.g, (2, physP rrb h.g)) :: (h.xs.filter fun r => !xPort r.2).map (fun r => (r.1, (0, physX rrb r.2))))
    ++ ((h.vs.filter fun r => r.2 ≠ vqReg).map fun r => (r.1, (1, physV rrb r.2)))
    ++ (h.ps.map fun r => (r.1, (2, physP rrb r.2))) ++ (csrReads i).map fun n => (.c, (3, n))

/-- Whether a register is pending from an operation of an earlier bundle than that of `seq` (R204, R206). -/
def Thread.pending (t : Thread) (seq : Nat) (r : RegId) : Bool :=
  t.slips.any (fun e => e.seq / 4 < seq / 4 && (destRegs e.rrb e.instr).contains r)
    || t.inflight.any (fun l => l.pend && l.seq / 4 < seq / 4 && l.dest.reg = some r)

/-- The fields of an operation whose source is pending. -/
def State.pendSrcs (s : State) (i : Instr) : List Role :=
  ((srcRegs s.rrb i).filter fun r => s.core.th.pending s.core.env.seq r.2).map (·.1)

/-- Whether a destination of an operation is pending. -/
def State.pendDest (s : State) (i : Instr) : Bool :=
  (destRegs s.rrb i).any (s.core.th.pending s.core.env.seq)

/-- Reads the sources that slip entries still waited for and that have now landed (R207). -/
def State.captureLanded (s : State) : State :=
  let t := s.core.th
  let slips := t.slips.map fun e =>
    let free := (srcRegs e.rrb e.instr).filter fun r => e.pend.contains r.1 && !t.pending e.seq r.2
    { e with
      pend := e.pend.filter fun r => !(free.any fun f => f.1 = r)
      ops := free.foldl (fun o f =>
        match f.2 with
        | (0, n) => o.setX f.1 (t.rx n)
        | (1, n) => o.setV f.1 (t.rv n)
        | (2, n) => o.setP f.1 (t.rp n)
        | _ => o) e.ops
      early := free.foldl (fun (x : Early) f => match f.2 with | (3, n) => { x with val := s.csrOf t n } | _ => x) e.early }
  s.updTh fun t => { t with slips := slips }

/-- Result holders in use: scalar and predicate, and vector (R210). -/
def Thread.heldX (t : Thread) : Nat :=
  t.inflight.countP fun l => match l.dest with | .x .. | .p .. | .push .. => true | _ => false
def Thread.heldV (t : Thread) : Nat := t.inflight.countP fun l => match l.dest with | .v .. => true | _ => false

/-- Whether the holders an operation needs are free (R210). -/
def Thread.holdersFree (t : Thread) (i : Instr) : Bool :=
  let h := shape i
  ((h.xd = [] && h.pd = []) || t.heldX < 64) && (h.vd = [] || t.heldV < 64)

/-! ### The class counters (R134, R153, R181) -/

/-- The class counter an operation counts in: 1 ql, 2 qs, 3 cp, 4 tl (R208). -/
def counterOf : Instr → Option Nat
  | .qldW .. | .qldH .. | .qldB .. | .amoAdd .. | .amoAnd .. | .amoOr .. | .amoXor .. | .amoMin .. | .amoMax ..
  | .amoMinu .. | .amoMaxu .. | .amoSwap .. | .amoCas .. | .rwlRd .. | .rwlWr .. | .rwlRu .. | .rwlWu .. | .waita ..
  | .waitc .. | .vqld .. | .fld .. | .famoAdd .. | .famoMax .. | .famoOr .. | .famoSwap .. => some 1
  | .qstW .. | .qstH .. | .qstB .. | .vqst .. | .fst .. => some 2
  | .ccp .. | .cnd .. | .cgat .. | .csct .. | .cwb .. | .cfill .. | .cred .. | .csig .. | .xar .. | .xrs .. | .xag ..
  | .xbc .. | .xmrg .. | .xred .. | .xbar .. => some 3
  | .ngo .. | .tzero .. | .tout .. | .tin .. | .tacc .. | .tmov .. | .wbld .. | .wprn24 .. | .wprn48 .. | .tmma .. =>
    some 4
  | _ => none

/-- Queued stores not yet performed and answered. -/
def isQStore : Instr → Bool
  | .qstW .. | .qstH .. | .qstB .. | .vqst .. | .fst .. => true
  | _ => false

def State.qs (s : State) : Nat :=
  (s.core.qacc.countP fun q => q.tid = s.core.th.tid && isQStore q.instr)
    + s.core.qack.count s.core.th.tid
    + s.pkg.rem.countP fun r => r.tid = s.core.th.tid && r.kind = .store

/-- Commands issued and not completed. -/
def State.cp (s : State) : Nat :=
  s.core.th.cbuf.length + s.pkg.cmds.countP (·.tid = s.core.th.tid)

/-- Operations of a class that are held as slip entries of earlier bundles: they count with those that a `wait` joins (R92), but
for one that waits for room in a queue, which has not issued (R134), and those behind it. -/
def State.heldOf (s : State) (k : Nat) : Nat :=
  let l := s.core.th.slips.filter fun e => counterOf e.instr = some k && e.seq / 4 < s.core.env.seq / 4
  l.countP fun e => !l.any fun o => o.why = 4 && o.seq ≤ e.seq

/-- The token that a command names (R176). -/
def tokenOf : Instr → Option Nat
  | .ccp _ t .. | .cnd _ t .. | .cgat _ t .. | .csct _ t .. | .cwb _ t .. | .cfill _ t .. | .cred _ t .. | .csig _ t ..
  | .xar _ t .. | .xrs _ t .. | .xag _ t .. | .xbc _ t .. | .xmrg _ t .. | .xred _ t .. | .xbar _ t .. => some t
  | _ => none

/-- Commands held as slip entries of earlier bundles that name a token: a `twait` joins them too (R93). -/
def State.heldTok (s : State) (n : Nat) : Nat :=
  s.core.th.slips.countP fun e => tokenOf e.instr = some n && e.seq / 4 < s.core.env.seq / 4

/-- Commands that name a token (R181). -/
def State.tok (s : State) (n : Nat) : Nat :=
  s.core.th.cbuf.countP (·.tok = n) + s.pkg.cmds.countP fun c => c.tid = s.core.th.tid && c.tok = n

/-- Whether an entry of the operation's class that was issued earlier is still held (R205 code 7, R208). -/
def State.olderHeld (s : State) (i : Instr) : Bool :=
  match counterOf i with
  | none => false
  | some k => s.core.th.slips.any fun e => e.seq < s.core.env.seq && counterOf e.instr = some k

/-! ### Groups: leaving (R94) -/

/-- The memberships of a task with those still to land. -/
def Thread.members (t : Thread) : BitVec 64 :=
  t.inflight.foldl (fun m l => match l.dest with
    | .member g true => m ||| BitVec.ofNat 64 (2 ^ g)
    | .member g false => m &&& ~~~(BitVec.ofNat 64 (2 ^ g))
    | _ => m) t.csr.gmask

def Thread.memberOf (t : Thread) (g : Nat) : Bool := t.members.getLsbD g

/-- Withdraws an arrival (R95). -/
def State.withdraw (s : State) (p slot tid : Nat) : State :=
  s.updCtx p slot fun c => { c with episodes := c.episodes.map fun e => { e with arrived := e.arrived.filter (· ≠ tid) } }

/-- What a task has performed comes before what the others do after the restart: an arrival at the open episodes of some groups
(R254). -/
def State.arrivePts (s : State) (p slot pts : Nat) (g : Nat → Bool) : State :=
  s.updCtx p slot fun c => { c with episodes := lmapIf (fun e => g e.grp) (fun (e : Episode) => { e with pts := Nat.max e.pts pts }) c.episodes }

/-- A task leaves all its groups: it ends, folds or is abandoned (R94). -/
def State.leaveAll (s : State) : State :=
  let t := s.core.th
  ((s.arrivePts t.task.part t.task.slot t.csr.pts fun g => t.csr.gmask.getLsbD g).withdraw t.task.part t.task.slot t.tid).updTh fun t =>
    { t with csr := { t.csr with gmask := 0 }, inflight := t.inflight.filter (fun l => match l.dest with
        | .member .. => false | _ => true), waitG := none, arrived := false }

end Sys2Proof.Machine
end

