-- ==== Sys2Proof/Machine/Capture.lean ====
section
/-! DEFINITION. Direct accesses of several words as their banks serve them (R126, R142 to R146, R177): lane addresses, what a load
sees (R127), the words served one by one, and what each access does once its last word is served. -/

namespace Sys2Proof.Machine

/-! ### Checks shared by direct accesses -/

/-- The budget event of an access at `a` whose last byte lies at or above the scratchpad grant (R275). -/
def State.spadBudget (s : State) (a last : Nat) : Option Trap :=
  if s.core.th.task.spad * 65536 ≤ last then some { cause := 0x0E, sub := 1, val := 0, fva := a } else none

/-- The checks of one access of `n` bytes in the order of R125. -/
def State.dirTrap (s : State) (a : Word) (n : Nat) : Option Trap :=
  if a.toNat % n ≠ 0 then some (mkTrap 7 0 a)
  else if spadEnd ≤ a.toNat then some (mkTrap 6 1 a)
  else s.spadBudget a.toNat (a.toNat + n - 1)

/-- What a load of this bundle sees: the scratchpad before it (R127). -/
def State.seen (s : State) : Store := s.core.env.before.getD s.core.spad

/-- A load that meets a poisoned block (R361). -/
def State.poisonTrap (s : State) (a : Word) : Option Trap := if s.seen.bad a.toNat then some (mkTrap 9 7 a) else none

/-- The first of two checks that fails. -/
def orTrap (a : Option Trap) (b : Option Trap) : Option Trap := match a with | some t => some t | none => b

/-! ### Lanes and words -/

/-- The vector of 64 lane values. -/
def vecOf (l : List (Word × Flags)) : VReg :=
  BitVec.ofNat 2048 (l.foldr (fun w n => w.1.toNat + 2 ^ 32 * n) 0)

/-- The lanes of an operation, in order. -/
def lanesOf (f : Nat → Word × Flags) : List (Word × Flags) := (List.range 64).map f

/-- The active lanes in order. -/
def activeLanes (g : PReg) : List Nat := (List.range 64).filter fun l => g.getLsbD l

/-- The word address of a lane of a direct vector access (R142). -/
def laneAddr (i : Instr) (o : Opnds) (l : Nat) : Nat :=
  match i with
  | .vlds .. | .vsts .. => (o.xa + w32 l * o.xb).toNat
  | .vldx .. | .vstx .. => (o.xa + lane o.vb l).toNat
  | .vld _ _ _ k | .vst _ _ _ k | .vldf _ _ _ k | .vstf _ _ _ k => (o.xa + wInt (k * 256) + w32 (4 * l)).toNat
  | _ => 0

/-- The regions of the active lanes. -/
def laneRegions (i : Instr) (o : Opnds) : List Nat :=
  ((activeLanes o.g).map fun l => spadRegion (laneAddr i o l)).eraseDups

/-- Reads words one after the other. -/
def State.readWords (s : State) (a : Nat) : Nat → List Word × State
  | 0 => ([], s)
  | n + 1 =>
    let r := s.dirLoad a 4
    let q := r.2.readWords (a + 4) n
    (w32 r.1 :: q.1, q.2)

/-- The number whose words are a list. -/
def wordsNat (l : List Word) : Nat := l.foldr (fun w n => w.toNat + 2 ^ 32 * n) 0

/-- The regions of a run. -/
def runRegions (r n : Nat) : List Nat := [spadRegion r, spadRegion (r + n - 1)].eraseDups

/-- The scale table that packings and described loads read (R62): that of the bundle before the last, as taken at issue. -/
def State.packScale (s : State) (k : Nat) : Word := scaleAt (s.early .nop).scaleV k

/-! ### Described accesses (R145, R146) -/

/-- The address of a described load (R145). -/
def vlddAddr (k : Int) (o : Opnds) : Word := o.xa + wInt (k * 64)

/-- The descriptors of the blocks of a described load's run, as the scratchpad holds them (R145); none for other accesses. -/
def State.runDescs (s : State) (i : Instr) (o : Opnds) : List Desc :=
  match i with
  | .vldd _ _ _ k =>
    let r := (vlddAddr k o).toNat
    (List.range (fmtWidth ((s.seen.descAt r).toNat % 256) / 8)).map fun b => s.seen.descAt (r + 64 * b)
  | _ => []

/-- The bits of an element of a run: it has a block for every 8 (R145). -/
def runWidth (ds : List Desc) : Nat := 8 * ds.length

/-- The scaled decode of element `j` of a run whose bytes are `v` (R145). A block that was rewritten since the run was checked may hold
another width: its elements are open values (log entry 118). -/
def State.runElem (s : State) (ds : List Desc) (v j : Nat) : Word × Flags :=
  let w := runWidth ds
  let d := (lget 0 ds (j * w / 512)).toNat
  let e := v / 2 ^ (w * j) % 2 ^ w
  if fmtWidth (d % 256) = w ∧ d / 4096 = 0 then withNF (scaledDecode (d % 256) e (s.packScale (d / 256 % 16)))
  else Config.openElem w d e

/-- Stores element `j`, of `w` bits, of a run at `r`. -/
def State.putElem (s : State) (r w j v : Nat) : State := s.dirStore (r + j * w / 8) v (w / 8)

/-- What `vstd` does (R59, R146): each block with an active element is written with its descriptor as one step, which clears its
poison also where some of its elements are inactive (log entry 101), and the flags are raised in the same cycle (R45). -/
def State.vstdPut (s : State) (o : Opnds) : State :=
  let d := o.xb.toNat % 65536
  let w := fmtWidth (d % 256)
  let r := o.xa.toNat
  let sc := s.packScale (bits o.xb.toNat 19 16)
  let l := (List.range 64).map fun j => scaledEncode d (lane o.vd j) sc
  let s1 := (activeLanes o.g).foldl (fun s j => s.putElem r w j (lget (0, 0) l j).1) s
  let s2 := ((activeLanes o.g).map fun j => (r + j * w / 8) / 64).eraseDups.foldl (fun s b =>
    s.updCore fun c =>
      { c with spad := { c.spad with desc := sset 0 c.spad.desc b (BitVec.ofNat 16 d),
                                     poison := sset false c.spad.poison b false } }) s1
  s2.updTh fun t => { t with csr := { t.csr with vflags := t.csr.vflags ||| laneFlags o.g (l.map fun e => ((0 : Word), e.2)) } }

/-! ### Full/empty vector accesses (R143) -/

/-- Whether the word at an address is full, for an operation that waits until it is (R129): in this cycle's state, and before the
bundle, as a load does not see what its own bundle stores (R127, log entry 102). -/
def State.fullNow (s : State) (a : Nat) : Bool := s.core.spad.full a && s.seen.full a

/-- Waits until every word of the active lanes is full, or empty (R143). -/
def untilAll (i : Instr) (want : Bool) (o : Opnds) (s : State) : Option Nat :=
  if (activeLanes o.g).all fun l => if want then s.fullNow (laneAddr i o l) else !s.core.spad.full (laneAddr i o l) then none
  else some 1

/-- Loads lanes and empties their words (R143). -/
def State.takeLanes (s : State) (i : Instr) (o : Opnds) (part : VReg) : List Nat → VReg × State
  | [] => (part, s)
  | l :: ls =>
    let a := laneAddr i o l
    let r := s.fullLoad a
    ((r.2.setFull a false).dirWriteStamp a).takeLanes i o (setLane part l r.1) ls

/-- A contiguous store of all 16 words of a block clears its poison (R361). -/
def State.cleanStored (s : State) (i : Instr) (o : Opnds) : State :=
  match i with
  | .vst .. | .vstf .. =>
    [0, 1, 2, 3].foldl (fun s b =>
      if bits o.g.toNat (16 * b + 15) (16 * b) = 65535 then
        s.updCore fun c => { c with spad := { c.spad with poison := sset false c.spad.poison (laneAddr i o (16 * b) / 64) false } }
      else s) s
  | _ => s

/-- What `vstf` does: it stores the active lanes and fills their words in one step, which clears the poison of the blocks that it
covers (R143, R361). -/
def State.vstfPut (s : State) (i : Instr) (o : Opnds) : State :=
  ((activeLanes o.g).foldl (fun s l => (s.dirStore (laneAddr i o l) (lane o.vd l).toNat 4).setFull (laneAddr i o l) true) s).cleanStored i o

/-! ### Fields of a captured block (R184) -/

/-- Word and double word `k` of the captured parameter block. -/
def Cmd.w (c : Cmd) (k : Nat) : Nat := (lget 0 c.blk k).toNat
def Cmd.q (c : Cmd) (k : Nat) : Nat := c.w k + c.w (k + 1) * 2 ^ 32

def Cmd.src (c : Cmd) : Nat := c.q 0
def Cmd.dst (c : Cmd) : Nat := c.q 2
def Cmd.rowlen (c : Cmd) : Nat := c.w 4
def Cmd.rows (c : Cmd) : Nat := c.w 5
def Cmd.sstr (c : Cmd) : Int := sextNat (c.w 6) 32
def Cmd.dstr (c : Cmd) : Int := sextNat (c.w 7) 32
def Cmd.ctl (c : Cmd) : Nat := c.w 8
def Cmd.arg0 (c : Cmd) : Nat := c.w 9
def Cmd.sig (c : Cmd) : Nat := c.q 10
def Cmd.sigval (c : Cmd) : Nat := c.w 12
def Cmd.sigctl (c : Cmd) : Nat := c.w 13
def Cmd.sigop (c : Cmd) : Nat := bits c.sigctl 2 1
def Cmd.arg1 (c : Cmd) : Nat := c.q 14

/-- The flags of a command (R176). -/
def Cmd.fe (c : Cmd) : Bool := bit c.fl 0
def Cmd.nosteal (c : Cmd) : Bool := bit c.fl 1
def Cmd.ord (c : Cmd) : Bool := bit c.fl 2

/-- Rank and VA of a pod-global address (R183). -/
def gaRank (a : Nat) : Nat := a / 2 ^ 54
def gaVa (a : Nat) : Nat := a % 2 ^ 48

def isColl : Instr → Bool
  | .xar .. | .xrs .. | .xag .. | .xbc .. | .xmrg .. | .xred .. | .xbar .. => true
  | _ => false
def isCsig : Instr → Bool
  | .csig .. => true
  | _ => false
def isCwb : Instr → Bool
  | .cwb .. => true
  | _ => false
def isCred : Instr → Bool
  | .cred .. => true
  | _ => false
def isCnd : Instr → Bool
  | .cnd .. => true
  | _ => false
def isCgat : Instr → Bool
  | .cgat .. => true
  | _ => false
def isCsct : Instr → Bool
  | .csct .. => true
  | _ => false
def isCfill : Instr → Bool
  | .cfill .. => true
  | _ => false

/-- Whether a command moves descriptors with its blocks; `cgat` always does (R185). -/
def Cmd.dh (c : Cmd) : Bool := bit c.ctl 0 || isCgat c.instr
def Cmd.sswz (c : Cmd) : Bool := if isColl c.instr then bit (c.w 5) 15 else bit c.ctl 1
def Cmd.dswz (c : Cmd) : Bool := if isColl c.instr then bit (c.w 5) 16 else bit c.ctl 2

/-- Whether a command makes a signal (R184, R185). -/
def Cmd.signals (c : Cmd) : Bool := isCsig c.instr || bit c.sigctl 0

/-- The distance of a command's due time from now (R179). At exactly 2^31 cycles the formula says not due and the sentence after it due:
the command is due (DESIGN CHOICE, log entry 113). -/
def Cmd.ahead (c : Cmd) (now : Nat) : Int := (c.due - w32 now).toInt

/-! ### A command enters the copy buffer (R177) -/

/-- Token, flags and the field of the due time of a command (R176). -/
def cmdFields : Instr → Option (Nat × Nat × Nat)
  | .ccp _ t f _ b | .cnd _ t f _ b | .cgat _ t f _ b | .csct _ t f _ b | .cwb _ t f _ b | .cfill _ t f _ b | .cred _ t f _ b
  | .csig _ t f _ b | .xar _ t f _ b | .xrs _ t f _ b | .xag _ t f _ b | .xbc _ t f _ b | .xmrg _ t f _ b | .xred _ t f _ b
  | .xbar _ t f _ b => some (t, f, b)
  | _ => none

/-- The command as it is captured. `b` is the field of the due time: x0 means now (R179). -/
def State.mkCmd (s : State) (i : Instr) (tok fl b : Nat) (o : Opnds) (blk : List Word) : Cmd :=
  let t := s.core.th
  let c : Cmd :=
    { ref := t.cref, tid := t.tid, task := t.task, own := s.core.num, after := t.qid, instr := i, sword := s.core.env.sword,
      slot := s.core.env.slot, baddr := s.core.env.pc, tok, fl, due := if b = 0 then w32 s.pkg.time else o.xb, blk, xa := o.xa,
      xb := o.xb, pts := t.csr.pts, behind := s.outstanding s.core.num t.tid }
  { c with held := t.task.foldable && c.signals }

/-- The number that a collective takes on its channel: the collectives that its core has issued there before (R195). -/
def State.takeChn (s : State) (c : Cmd) : Cmd × State :=
  if isColl c.instr then
    let ch := bits (c.w 5) 13 8
    let t := c.task
    let e := s.chanEnt t.part t.slot ch
    let n := sget 0 (s.getCtx t.part t.slot).chn ch
    ({ c with chn := n, member := match e.group with | some g => s.core.th.memberOf g | none => true },
      s.updCtx t.part t.slot fun x => { x with chn := sset 0 x.chn ch (n + 1) })
  else (c, s)

/-- A command captures its block and enters the copy buffer; a held signal takes its hold entry (R177, R186). -/
def State.enterCmd (s : State) (i : Instr) (tok fl b : Nat) (o : Opnds) : State :=
  let r := (s.touched (spadRegion o.xa.toNat)).readWords o.xa.toNat 16
  let c := r.2.takeChn (r.2.mkCmd i tok fl b o r.1)
  let s1 := c.2.updTh fun t => { t with cbuf := t.cbuf ++ [c.1], cref := t.cref + 1 }
  if c.1.held then s1.hold (.signal c.1.sig (w32 c.1.sigval) c.1.sigop c.1.baddr c.1.ref) else s1

/-! ### Service by the banks (R126, R246) -/

/-- The vector register that a bank-served load writes, and its latency from the last word (R141). -/
def laneLoad : Instr → Option (Nat × Nat)
  | .vld _ v _ _ => some (v, 4)
  | .vlds _ v _ _ => some (v, 4)
  | .vldx _ v _ _ => some (v, 6)
  | .vldd _ v _ _ => some (v, 6)
  | _ => none

/-- The address of word `l` of an access. -/
def wordAddr (i : Instr) (o : Opnds) (l : Nat) : Nat :=
  match i with
  | .vldd _ _ _ k => (vlddAddr k o).toNat + 4 * l
  | _ => laneAddr i o l

/-- Serves one word of a direct vector access. -/
def State.serveLane (s : State) (i : Instr) (o : Opnds) (part : VReg) (l : Nat) : VReg × State :=
  match laneLoad i with
  | some _ => let r := s.dirLoad (wordAddr i o l) 4; (setLane part l (w32 r.1), r.2)
  | none => (part, s.dirStore (wordAddr i o l) (lane o.vd l).toNat 4)

/-- Serves the words that fall in one step, in order. -/
def State.serveLanes (s : State) (i : Instr) (o : Opnds) (part : VReg) : List Nat → VReg × State
  | [] => (part, s)
  | l :: ls => let r := s.serveLane i o part l; r.2.serveLanes i o r.1 ls

/-- Vector accesses that are served word by word, each word one step (R246). -/
def progressive : Instr → Bool
  | .vld .. | .vlds .. | .vldx .. | .vst .. | .vsts .. | .vstx .. | .vldd .. => true
  | _ => false

/-- What an access served word by word does with its last word: the result of a load, of the words `part` and the descriptors
`ds` of its run, is put in flight (R141, R145); `late` cycles are added to its latency. -/
def State.served (s : State) (i : Instr) (o : Opnds) (part : VReg) (ds : List Desc) (late : Nat) : State :=
  match i with
  | .vldd _ v _ _ =>
    let l := lanesOf (s.runElem ds part.toNat)
    s.putV (late + 6) v (vecOf l) (laneMask o.g) (laneFlags o.g l)
  | _ => match laneLoad i with
    | some (v, lat) => s.putV (late + lat) v part (laneMask o.g) 0
    | none => s.cleanStored i o

/-- What the other accesses of several words do once their last word is served; a full/empty access only where its words all
satisfy its wait (R143). -/
def State.bankEffect (s : State) (i : Instr) (o : Opnds) (late : Nat) : Option State :=
  match i with
  | .vstd .. => some ((s.touchedAll (runRegions o.xa.toNat (8 * fmtWidth (o.xb.toNat % 65536 % 256)))).vstdPut o)
  | .vldf _ v _ _ =>
    if (untilAll i true o s).isSome then none
    else let r := (s.touchedAll (laneRegions i o)).takeLanes i o 0 (activeLanes o.g); some (r.2.putV (late + 4) v r.1 (laneMask o.g) 0)
  | .vstf .. => if (untilAll i false o s).isSome then none else some ((s.touchedAll (laneRegions i o)).vstfPut i o)
  | _ =>
    match cmdFields i with
    | some (t, f, b) => if 32 ≤ s.cp then none else some (s.enterCmd i t f b o)
    | none => none

end Sys2Proof.Machine
end

