-- ==== Sys2Proof/Machine/Region.lean ====
section
/-! DEFINITION. Regions of a core as images (R347): writing a region's image to a save area, filling a region from one,
zeroing it, and the exchange of a first touch (R348). -/

namespace Sys2Proof.Machine

/-- Bits of a map as bytes from `base` on: bit `w` for key `lo + w` (R347). -/
def packBits (m : Sparse Bool) (lo hi base : Nat) : Memory :=
  (m.filter fun e => lo ≤ e.1 && e.1 < hi).foldl (fun acc e =>
    let k := base + (e.1 - lo) / 8
    sset 0 acc k (sget 0 acc k ||| BitVec.ofNat 8 (2 ^ ((e.1 - lo) % 8)))) []

/-- The keys from `at_` on whose bits are set in the bytes from `base` to below `top`. -/
def unpackBits (m : Memory) (base top at_ : Nat) : Sparse Bool :=
  (m.filter fun e => base ≤ e.1 && e.1 < top).flatMap fun e =>
    (List.range 8).filterMap fun b => if e.2.getLsbD b then some (at_ + (e.1 - base) * 8 + b, true) else none

/-- Numbers of a map as little-endian fields of `n` bytes, `step` apart, from `base` on, over bytes already placed. -/
def packNums (m : Sparse Nat) (lo hi base step n : Nat) (acc : Memory) : Memory :=
  (m.filter fun e => lo ≤ e.1 && e.1 < hi).foldl (fun acc e => lePut acc (base + (e.1 - lo) * step) e.2 n) acc

/-- Fields of `n` bytes, `step` apart, in the bytes from `base` to below `top`, by number of the field. -/
def unpackNums (m : Memory) (base top step n : Nat) : List (Nat × Nat) :=
  (((m.filter fun e => base ≤ e.1 && e.1 < top).map fun e => (e.1 - base) / step).eraseDups).map fun k =>
    (k, leGet m (base + k * step) n)

/-- Puts fields into a map from `at_` on, over a range that has been dropped. -/
def putNums {α : Type} [DecidableEq α] (d : α) (f : Nat → α) (m : Sparse α) (at_ : Nat) (l : List (Nat × Nat)) : Sparse α :=
  l.foldl (fun m e => sset d m (at_ + e.1) (f e.2)) m

/-- A map of words or descriptors as a map of numbers. -/
def natMap {α : Type} (f : α → Nat) (m : Sparse α) : Sparse Nat := m.map fun e => (e.1, f e.2)

/-- Where a region's image stands in the block of its logical core, and its size (R347). -/
def imageOff (r : Nat) : Nat :=
  if r < 16 then 0xC000 + r * 0x14000 else if r < 40 then 0x14C000 + (r - 16) * 0x11000 else 0x2F0000 + (r - 40) * 0x15000
def imageSize (r : Nat) : Nat := if r < 16 then 0x14000 else if r < 40 then 0x11000 else 0x15000

/-- The image of a region with its first byte at `base`, as bytes (R347). -/
def Core.image (c : Core) (r base : Nat) : Memory :=
  if r < 16 then
    let lo := r * 65536
    let t := c.spad
    smove t.mem lo (lo + 65536) base
      ++ packBits t.fe (lo / 4) (lo / 4 + 16384) (base + 0x10000)
      ++ packNums (natMap BitVec.toNat t.desc) (lo / 64) (lo / 64 + 1024) (base + 0x10800) 2 2 []
      ++ packNums t.rts (lo / 64) (lo / 64 + 1024) (base + 0x11004) 8 4
          (packNums t.wts (lo / 64) (lo / 64 + 1024) (base + 0x11000) 8 4 [])
  else if r < 40 then
    let t := (r - 16) * 4
    packNums (natMap BitVec.toNat c.acc) (t * 4096) (t * 4096 + 16384) base 4 4 []
      ++ packBits c.tmode t (t + 4) (base + 0x10000)
  else
    let b := (r - 40) * 16 * 64
    packNums (natMap (fun d => d.data.toNat) c.wb) b (b + 1024) base 64 64 []
      ++ packNums (natMap (fun d => d.mask.toNat) c.wb) b (b + 1024) (base + 0x10000) 16 16 []
      ++ packNums (natMap (fun d => d.desc.toNat) c.wb) b (b + 1024) (base + 0x14000) 2 2 []

/-- The blocks of an image that a poisoned block, tile or slab of the region marks, counted from the image's start
(R361): the data of a block, or the first block of a tile or slab. -/
def Core.imagePoison (c : Core) (r : Nat) : List Nat :=
  if r < 16 then (List.range 1024).filter fun k => sget false c.spad.poison (r * 1024 + k)
  else if r < 40 then ((List.range 4).filter fun k => sget false c.tpoison ((r - 16) * 4 + k)).map (· * 256)
  else ((List.range 16).filter fun k => sget false c.wpoison ((r - 40) * 16 + k)).map (· * 64)

/-- Writes a region's image into a store at `base`. -/
def Store.putImage (st : Store) (c : Core) (r base : Nat) : Store :=
  { st with
    mem := splice st.mem base (base + imageSize r) ((c.image r base).filter fun e => e.2 ≠ 0)
    poison := (c.imagePoison r).foldl (fun m k => sset false m (base / 64 + k) true)
      (sdrop st.poison (base / 64) ((base + imageSize r) / 64)) }

/-- A region in the zero state: data 0, full/empty bits empty, descriptors 0x0000, timestamps 0, tiles +0 in FP32 mode,
masks 0 (R348). -/
def Core.zeroRegion (c : Core) (r : Nat) : Core :=
  if r < 16 then
    let lo := r * 65536
    let t := c.spad
    { c with
      spad := { mem := sdrop t.mem lo (lo + 65536), fe := sdrop t.fe (lo / 4) (lo / 4 + 16384),
                desc := sdrop t.desc (lo / 64) (lo / 64 + 1024), wts := sdrop t.wts (lo / 64) (lo / 64 + 1024),
                rts := sdrop t.rts (lo / 64) (lo / 64 + 1024), poison := sdrop t.poison (lo / 64) (lo / 64 + 1024) }
      linOld := sdrop c.linOld (lo / 4) (lo / 4 + 16384)
      swzOld := sdrop c.swzOld (lo / 4) (lo / 4 + 16384) }
  else if r < 40 then
    let t := (r - 16) * 4
    { c with acc := sdrop c.acc (t * 4096) (t * 4096 + 16384), tmode := sdrop c.tmode t (t + 4),
             tpoison := sdrop c.tpoison t (t + 4) }
  else
    let b := (r - 40) * 16
    { c with wb := sdrop c.wb (b * 64) (b * 64 + 1024), wpoison := sdrop c.wpoison b (b + 16) }

/-- Fills a region from the image at `base` of a store. -/
def Core.fillRegion (c : Core) (r base : Nat) (st : Store) : Core :=
  let m := st.mem
  let z := c.zeroRegion r
  let bad := fun k => sget false st.poison (base / 64 + k)
  if r < 16 then
    let lo := r * 65536
    let t := z.spad
    { z with
      spad := { mem := splice t.mem lo (lo + 65536) (smove m base (base + 65536) lo)
                fe := splice t.fe (lo / 4) (lo / 4 + 16384) (unpackBits m (base + 0x10000) (base + 0x10800) (lo / 4))
                desc := putNums 0 (BitVec.ofNat 16) t.desc (lo / 64) (unpackNums m (base + 0x10800) (base + 0x11000) 2 2)
                wts := putNums 0 id t.wts (lo / 64) (unpackNums m (base + 0x11000) (base + 0x13000) 8 4)
                rts := putNums 0 id t.rts (lo / 64)
                  ((unpackNums m (base + 0x11000) (base + 0x13000) 8 8).map fun e => (e.1, e.2 / 2 ^ 32))
                poison := ((List.range 1024).filter bad).foldl (fun p k => sset false p (lo / 64 + k) true) t.poison } }
  else if r < 40 then
    let t := (r - 16) * 4
    { z with
      acc := putNums 0 w32 z.acc (t * 4096) (unpackNums m base (base + 0x10000) 4 4)
      tmode := splice z.tmode t (t + 4) ((unpackBits m (base + 0x10000) (base + 0x10001) t).filter fun e => e.1 < t + 4)
      tpoison := ((List.range 4).filter fun k => bad (k * 256)).foldl (fun p k => sset false p (t + k) true) z.tpoison }
  else
    let b := (r - 40) * 16
    let zero : DBlock := ⟨0, 0, 0⟩
    let d := (unpackNums m base (base + 0x10000) 64 64).foldl (fun w e =>
      sset zero w (b * 64 + e.1) { sget zero w (b * 64 + e.1) with data := BitVec.ofNat 512 e.2 }) z.wb
    let k := (unpackNums m (base + 0x10000) (base + 0x14000) 16 16).foldl (fun w e =>
      sset zero w (b * 64 + e.1) { sget zero w (b * 64 + e.1) with mask := BitVec.ofNat 128 e.2 }) d
    let q := (unpackNums m (base + 0x14000) (base + 0x14800) 2 2).foldl (fun w e =>
      sset zero w (b * 64 + e.1) { sget zero w (b * 64 + e.1) with desc := BitVec.ofNat 16 e.2 }) k
    { z with wb := q
             wpoison := ((List.range 16).filter fun k => bad (k * 64)).foldl (fun p k => sset false p (b + k) true) z.wpoison }

/-- Where the image of a region of a logical core stands in a context's save area (R347). -/
def saveAddr (d : CtxDesc) (lcore r : Nat) : Nat := d.block lcore + imageOff r

/-- Where the image of a region of a parked task stands in the task save areas (R282). -/
def taskAddr (tid r : Nat) : Nat := tid * 0x400000 + imageOff r

/-- The first half of an exchange (R348): the region's image goes to its owner's save area, and the owner's VALID bit is
set. A context without a save area (SAVE = 0) keeps no image (log entry 9). -/
def State.spill (s : State) (core r : Nat) : State :=
  let c := s.getCore core
  match sget Owner.none c.owner r with
  | .none => s
  | .ctx p slot =>
    match s.ctxDesc p slot with
    | none => s
    | some d =>
      if d.save = 0 then s
      else
        let l := s.lcoreOf p slot core
        s.updPkg fun k =>
          let h := k.hbm.putImage c r (saveAddr d l r)
          { k with hbm := h.put (d.validAt l) (h.le (d.validAt l) 8 ||| 2 ^ r) 8 }
  | .parked _ _ tid =>
    s.updPkg fun k =>
      { k with taskSave := k.taskSave.putImage c r (taskAddr tid r)
               taskImgs := if k.taskImgs.contains (tid, r) then k.taskImgs else k.taskImgs ++ [(tid, r)] }

/-- The second half (R348): the region is filled from the toucher's image, or zeroed where it holds none, and tagged. An
image of the task that now holds the core comes first. -/
def State.fillFor (s : State) (core r p slot : Nat) : State :=
  let c := s.getCore core
  let tid := if c.phase ≠ .idle ∧ c.th.task.part = p ∧ c.th.task.slot = slot then c.th.tid else 0
  let tag := fun (c : Core) => { c with owner := sset .none c.owner r (.ctx p slot) }
  if s.hasTaskImage tid r then
    let s1 := s.updCoreN core fun c => tag (c.fillRegion r (taskAddr tid r) s.pkg.taskSave)
    s1.updPkg fun k => { k with taskImgs := k.taskImgs.filter (· ≠ (tid, r)) }
  else
    match s.ctxDesc p slot with
    | none => s.updCoreN core fun c => tag (c.zeroRegion r)
    | some d =>
      let l := s.lcoreOf p slot core
      if s.hasImage p slot l r then s.updCoreN core fun c => tag (c.fillRegion r (saveAddr d l r) s.pkg.hbm)
      else s.updCoreN core fun c => tag (c.zeroRegion r)

/-- The whole exchange of a region for a toucher (R348). -/
def State.exchange (s : State) (core r p slot : Nat) : State :=
  ((s.spill core r).fillFor core r p slot).updCoreN core fun c => { c with exch := c.exch.filter (·.region ≠ r) }

/-- Whether a touch of a region of any core by a context, outside that core's own task, proceeds at once; where it does
not, the exchange has been asked for (R348). -/
def State.remoteTouch (s : State) (core r p slot : Nat) : Bool × State :=
  let c := s.getCore core
  let tid := if c.phase ≠ .idle ∧ c.th.task.part = p ∧ c.th.task.slot = slot then c.th.tid else 0
  if s.owns c r p slot tid then (true, s.updCoreN core fun c => c.tag r p slot)
  else (false, s.updCoreN core fun c => c.askExch r p slot)

/-- The regions of a core that a context owns. -/
def Core.ownedBy (c : Core) (p slot : Nat) : List Nat :=
  (c.owner.filter fun e => e.2 = .ctx p slot).map (·.1)

/-! ### Deleted contexts (R366) -/

/-- The size of a leaf page of a level (R236). -/
def pageSize (lvl : Nat) : Nat :=
  match lvl with
  | 0 => 2 ^ 39
  | 1 => 2 ^ 30
  | 2 => 2 ^ 21
  | _ => 2 ^ 16

/-- The pages that a context's tables map: physical base and size (R236, R237). -/
def leavesOf (m : Memory) (t lvl : Nat) : Nat → List (Nat × Nat)
  | 0 => []
  | n + 1 =>
    (List.range (if lvl = 3 then 32 else 512)).flatMap fun i =>
      let e := leGet m (t + 8 * i) 8
      if !bit e 0 then []
      else if bit e 1 then (if lvl = 0 then [] else [(bits e 51 16 * 65536, pageSize lvl)])
      else if lvl = 3 then []
      else leavesOf m (bits e 51 8 * 256) (lvl + 1) n

/-- Zeroes a range of memory with its descriptors, full/empty bits, timestamps and poison (R366). -/
def Store.zeroRange (t : Store) (a n : Nat) : Store :=
  { mem := sdrop t.mem a (a + n), fe := sdrop t.fe (a / 4) ((a + n) / 4), desc := sdrop t.desc (a / 64) ((a + n) / 64),
    wts := sdrop t.wts (a / 64) ((a + n) / 64), rts := sdrop t.rts (a / 64) ((a + n) / 64),
    poison := sdrop t.poison (a / 64) ((a + n) / 64) }

/-- Every context that a partition's table describes. -/
def State.allCtxs (s : State) (p : Nat) : List CtxDesc := (List.range 64).filterMap (s.ctxDesc p)

/-- The memory that a context holds: the pages that its tables map, its save area and its kennel (R237, R335). -/
def CtxDesc.memory (d : CtxDesc) (m : Memory) : List (Nat × Nat) :=
  leavesOf m d.root 0 4 ++ (if d.save = 0 then [] else [(d.save, 0x10000 + d.ncore * 0x400000)])
    ++ (if d.kennel = 0 then [] else [(d.kennel, d.ksize * 4096)])

/-- Zeroes runs of memory. -/
def State.zeroRuns (s : State) (l : List (Nat × Nat)) : State :=
  s.updPkg fun k => { k with hbm := l.foldl (fun t r => t.zeroRange r.1 r.2) k.hbm }

/-- Whether a context of a slot is deleted: its descriptor names none any more, or one of another gang. -/
def State.deleted (s : State) (p k : Nat) : Bool :=
  match s.ctxDesc p k, (s.getCtx p k).desc with
  | none, _ => true
  | some d, some e => d.gang ≠ e.gang
  | some _, none => false

/-- The runs of memory that the deleted contexts of a partition release: what no context that is left holds (R6, R366). -/
def State.releasedRuns (s : State) (p : Nat) : List (Nat × Nat) :=
  let m := s.pkg.hbm.mem
  match (s.getPart p).ctxs.filterMap fun e => if s.deleted p e.1 then e.2.desc else none with
  | [] => []
  | l =>
    let live := (s.allCtxs p).flatMap fun d => d.memory m
    (l.flatMap fun d => d.memory m).filter fun r => !live.any fun x => x.1 < r.1 + r.2 && r.1 < x.1 + x.2

/-- The device reads the context table of a partition (R335): a context whose descriptor names none any more is deleted, its regions
are zeroed and their tags are none (R348), its memory, its save area and its kennel are zeroed (R6, R366); what was kept for it goes. -/
def State.sweep (s : State) (p : Nat) : State :=
  let gone := fun (o : Owner) => match o with | .ctx q k => decide (q = p) && s.deleted p k | _ => false
  let one := fun (c : Core) => ((c.owner.filter fun e => gone e.2).map (·.1)).foldl (fun (c : Core) r =>
    { c.zeroRegion r with owner := sset .none c.owner r .none }) c
  let s1 := ((s.getPart p).cores.foldl (fun s n => s.updCoreN n one) s).updPart p fun q =>
    { q with ctxs := q.ctxs.filter fun e => !s.deleted p e.1 }
  (s.allCtxs p).foldl (fun s d => s.updCtx p d.slot fun x => { x with desc := some d }) (s1.zeroRuns (s.releasedRuns p))

/-- Moves one region of a context from one core to another, exchanging there (R351). -/
def State.moveRegion (s : State) (src dst p slot : Nat) (r : Nat) : State :=
  let s1 := s.spill dst r
  let img : Store := ({} : Store).putImage (s1.getCore src) r 0
  let s2 := s1.updCoreN dst fun c => { c.fillRegion r 0 img with owner := sset .none c.owner r (.ctx p slot) }
  s2.updCoreN src fun c => { c.zeroRegion r with owner := sset .none c.owner r .none }

end Sys2Proof.Machine
end

