-- ==== Sys2Proof/Machine/Translate.lean ====
section
/-! DEFINITION. Virtual addresses (R233, R234), the page-table walk (R236 to R239), permissions (R240), the translation
caches (R241, R242), and the answer of the die's translation unit (R132). -/

namespace Sys2Proof.Machine

/-! ### The walk -/

/-- What a walk finds: a leaf, a fault with its XLATE subcause, or a table that lies past the end of memory. -/
inductive Walk where
  | leaf (e : TlbEnt)
  | fault (sub : Nat)
  | hole (pa : Nat)
  deriving DecidableEq, Repr

/-- The index of a level (R236). -/
def vaIndex (lvl va : Nat) : Nat :=
  match lvl with
  | 0 => bits va 47 39
  | 1 => bits va 38 30
  | 2 => bits va 29 21
  | _ => bits va 20 16

/-- WALK of R238 from a table of level `lvl` on; `n` is the number of levels left. -/
def walkFrom (m : Memory) (asid va t lvl : Nat) : Nat → Walk
  | 0 => .fault 6
  | n + 1 =>
    let a := t + 8 * vaIndex lvl va
    if hbmEnd ≤ a then .hole a
    else
      let e := leGet m a 8
      if !bit e 0 then .fault 2
      else if bits e 63 52 ≠ 0 then .fault 6
      else if bit e 1 then
        let pa := bits e 51 16 * 65536
        if lvl = 0 ∨ bits e 15 8 ≠ 0 ∨ bits e 3 2 = 3 ∨ (lvl = 1 ∧ bits e 29 16 ≠ 0) ∨ (lvl = 2 ∧ bits e 20 16 ≠ 0)
            ∨ hbmEnd ≤ pa + va % pageSize lvl then .fault 6
        else .leaf { asid, base := va / pageSize lvl * pageSize lvl, size := pageSize lvl, pa, attr := bits e 7 2 }
      else if lvl = 3 ∨ bits e 7 2 ≠ 0 ∨ (lvl ≤ 1 ∧ bits e 11 8 ≠ 0) then .fault 6
      else walkFrom m asid va (bits e 51 8 * 256) (lvl + 1) n

/-! ### Leaves -/

/-- The class of a leaf: 0 PRIV, 1 RSH, 2 COH (R237), and its other bits. -/
def attrClass (a : Nat) : Nat := a % 4
def attrSysa (a : Nat) : Bool := bit a 2
def attrXdev (a : Nat) : Bool := bit a 3
def attrRo (a : Nat) : Bool := bit a 4
def attrNx (a : Nat) : Bool := bit a 5

/-- The walk of a VA in a context: to memory that is ready (R367). -/
def State.walk (s : State) (d : CtxDesc) (va : Nat) : Walk :=
  match walkFrom s.pkg.hbm.mem d.asid va d.root 0 4 with
  | .leaf e =>
    let pa := e.pa + (va - e.base)
    if s.memReady pa (attrClass e.attr = 2) then .leaf e else .hole pa
  | w => w

/-- Whether a write to a place is refused (R240). -/
def Place.readOnly : Place → Bool
  | .spad .. => false
  | .mem _ a => attrClass a = 1 || attrRo a

def TlbEnt.covers (e : TlbEnt) (asid va : Nat) : Bool := e.asid = asid && e.base ≤ va && va < e.base + e.size

/-- The place of a VA that a leaf covers. -/
def TlbEnt.place (e : TlbEnt) (va : Nat) : Place := .mem (e.pa + (va - e.base)) e.attr

/-- The cached leaf of a VA. -/
def findEnt (l : List TlbEnt) (asid va : Nat) : Option TlbEnt := l.find? fun e => e.covers asid va

/-- Keeps a leaf in a cache of `n` entries; a full cache gives up one of its entries. -/
def keepEnt (l : List TlbEnt) (e : TlbEnt) (n choice : Nat) : List TlbEnt :=
  let l1 := l.filter fun x => !(x.asid = e.asid && x.base = e.base)
  if l1.length < n then l1 ++ [e] else ldel l1 (Config.evict choice n % n) ++ [e]

/-- What an access uses: a cached leaf, or the tables. Where the two differ the translation has not been invalidated yet,
and either may be used (R242, log entry 6). -/
def State.leafOf (s : State) (cached : Option TlbEnt) (d : CtxDesc) (va : Nat) : Walk × State :=
  let w := s.walk d va
  match cached with
  | none => (w, s)
  | some e =>
    if w = .leaf e then (w, s)
    else (if Config.usesCached s.choice then .leaf e else w, { s with choice := s.choice + 1 })

/-- A translation by the unit of a die, which keeps the leaf (R241). -/
def State.unitXlate (s : State) (die : Nat) (d : CtxDesc) (va : Nat) : Walk × State :=
  let mine := (s.pkg.dtlb.filter (·.1 = die)).map (·.2)
  let r := s.leafOf (findEnt mine d.asid va) d va
  match r.1 with
  | .leaf e =>
    if mine.contains e then r
    else
      let s1 := r.2
      (r.1, s1.updPkg fun k =>
        { k with dtlb := k.dtlb.filter (·.1 ≠ die) ++ (keepEnt mine e 4096 s1.choice).map fun e => (die, e) })
  | _ => r

/-- `TRANSLATION_ANSWER` (R132, R238): the unit of a core's die answers its micro-TLB miss; a fault is kept for the bundle
that waits. -/
def execTranslationAnswer (s : State) : Res :=
  s.onCoreR s.ev.c fun s =>
    match s.core.xreq with
    | none => .next s
    | some va =>
      let fail := fun (s : State) k => s.updCore fun c => { c with xreq := none, xans := c.xans ++ [(va, k)] }
      match s.taskCtx s.core.th.task with
      | none => .next (fail s 2)
      | some d =>
        let r := s.unitXlate (s.core.num / 256) d va
        match r.1 with
        | .hole pa => .fault (.noSuchPhysicalAddress pa)
        | .fault k => .next (fail r.2 k)
        | .leaf e => .next (r.2.updCore fun c => { c with xreq := none, utlb := keepEnt c.utlb e 64 r.2.choice })

/-! ### Where an address lies -/

/-- Start and end of the die scratchpad window (R233, R234). -/
def winStart : Nat := 0xFF0000000000
def winEnd : Nat := 0xFF0040000000

/-- The outcome of translating a queued operation: a place, an XLATE subcause, or a miss that the unit must answer. -/
inductive Located where
  | found (p : Place)
  | bad (sub : Nat)
  | miss
  deriving DecidableEq, Repr

/-- Translates a VA for the running core (R132, R233). -/
def State.locate (s : State) (va : Nat) : Located :=
  if va < spadEnd then .found (.spad s.core.num va)
  else if winStart ≤ va then
    let c := bits va 29 20
    if va < winEnd ∧ (s.getPart s.core.th.task.part).cores.contains c then .found (.spad c (va % spadEnd)) else .bad 4
  else
    match s.core.xans.find? (·.1 = va) with
    | some a => .bad a.2
    | none =>
      match s.taskCtx s.core.th.task with
      | none => .bad 2
      | some d =>
        match findEnt s.core.utlb d.asid va with
        | none => .miss
        | some e =>
          match (s.leafOf (some e) d va).1 with
          | .leaf e => .found (e.place va)
          | .fault k => .bad k
          | .hole _ => .miss

/-- Counts the choice that `locate` made, where it made one. -/
def State.located (s : State) (va : Nat) : State :=
  if va < spadEnd ∨ winStart ≤ va then s
  else
    match s.taskCtx s.core.th.task with
    | none => s
    | some d =>
      match findEnt s.core.utlb d.asid va with
      | none => s
      | some e => (s.leafOf (some e) d va).2

/-- The outcome of translating for an engine, a host request or a request from another rank: a place, or the ENGFAULT
subcause of R187. -/
inductive Reached where
  | found (p : Place)
  | bad (sub : Nat)
  | hole (pa : Nat)
  deriving DecidableEq, Repr

/-- Translates a VA of a context through a die's unit for an engine of core `own` (R183, R233); without an own core the
first range names nothing. -/
def State.reach (s : State) (die : Nat) (p : Nat) (d : CtxDesc) (own : Option Nat) (va : Nat) : Reached × State :=
  if va < spadEnd then
    match own with
    | some c => (.found (.spad c va), s)
    | none => (.bad 1, s)
  else if winStart ≤ va then
    let c := bits va 29 20
    if va < winEnd ∧ (s.getPart p).cores.contains c then (.found (.spad c (va % spadEnd)), s) else (.bad 1, s)
  else
    let r := s.unitXlate die d va
    (match r.1 with
      | .leaf e => .found (e.place va)
      | .fault _ => .bad 1
      | .hole pa => .hole pa, r.2)

end Sys2Proof.Machine
end

