-- ==== Sys2Proof/Machine/Home.lean ====
section
/-! DEFINITION. Accesses at the home of a line (R133, R235): the L1 and the page classes (R243, R244), timestamps (R248,
R249), words and blocks read and written at a place, atomics (R136), lock words (R137) and waits (R139). -/

namespace Sys2Proof.Machine

/-! ### Blocks -/

/-- `n` bytes of a block from byte `off` on. -/
def blkGet (b : Block) (off n : Nat) : Nat := b.toNat / 2 ^ (8 * off) % 2 ^ (8 * n)

/-- A block with `n` bytes from byte `off` on replaced. -/
def blkSet (b : Block) (off v n : Nat) : Block :=
  (b &&& ~~~(BitVec.ofNat 512 ((2 ^ (8 * n) - 1) * 2 ^ (8 * off)))) ||| BitVec.ofNat 512 (v % 2 ^ (8 * n) * 2 ^ (8 * off))

/-- The dirty bits of `n` bytes from byte `off` on. -/
def byteMask (off n : Nat) : BitVec 64 := BitVec.ofNat 64 ((2 ^ n - 1) * 2 ^ off)

/-! ### The L1 -/

/-- The line of a core's L1 that holds a VA as filled through a leaf (R241, R243). -/
def Core.line (c : Core) (asid va pa cls : Nat) : Option L1Line :=
  c.l1.find? fun l => l.asid = asid && l.va = va / 64 * 64 && l.pa = pa / 64 * 64 && l.cls = cls

/-- Writes the dirty bytes of a line back to its home (R244). -/
def Store.writeBack (t : Store) (l : L1Line) : Store :=
  if l.cls ≠ 0 then t
  else
    { t with
      mem := (List.range 64).foldl (fun m k =>
        if l.dirty.getLsbD k then sset 0 m (l.pa + k) (BitVec.ofNat 8 (blkGet l.data k 1)) else m) t.mem
      desc := if l.ddesc then sset 0 t.desc (l.pa / 64) l.desc else t.desc }

/-- Writes back and drops the lines of a core's L1 that satisfy a test. -/
def State.flushL1 (s : State) (core : Nat) (which : L1Line → Bool) : State :=
  let c := s.getCore core
  let s1 := s.updPkg fun k => { k with hbm := (c.l1.filter which).foldl Store.writeBack k.hbm }
  s1.updCoreN core fun c => { c with l1 := c.l1.filter fun l => !which l }

/-- Before an access that does not go through the L1 of the core that uses a PRIV page: the home of a line that an L1 holds is that
L1 (R235), so its dirty bytes go back and the line is dropped. -/
def State.recall (s : State) : Place → State
  | .spad .. => s
  | .mem pa a =>
    if attrClass a ≠ 0 then s
    else
      let has := fun (l : L1Line) => l.cls = 0 && l.pa = pa / 64 * 64
      ((s.allCores.filter fun c => c.l1.any has).map (·.num)).foldl (fun s n => s.flushL1 n has) s

/-- Keeps a line; a full L1 of 64 KiB evicts one of its lines (R244, log entry 5). -/
def State.keepLine (s : State) (core : Nat) (l : L1Line) : State :=
  let same := fun (x : L1Line) => x.asid = l.asid && x.va = l.va
  if (s.getCore core).l1.any (fun x => same x && x.pa = l.pa && x.cls = l.cls) then
    s.updCoreN core fun c => { c with l1 := lmapIf same (fun _ => l) c.l1 }
  else
    let s1 := s.flushL1 core same
    let c := s1.getCore core
    if c.l1.length < 1024 then s1.updCoreN core fun c => { c with l1 := c.l1 ++ [l] }
    else
      match c.l1[Config.evict s1.choice 1024 % 1024]? with
      | none => s1
      | some v =>
        let s2 := { s1 with choice := s1.choice + 1 }.flushL1 core (· = v)
        s2.updCoreN core fun c => { c with l1 := c.l1 ++ [l] }

/-- A fresh copy of a line from its home. -/
def State.freshLine (s : State) (asid va pa cls : Nat) : L1Line :=
  { asid, va := va / 64 * 64, pa := pa / 64 * 64, cls, data := blockGet s.pkg.hbm.mem (pa / 64 * 64),
    desc := s.pkg.hbm.descAt pa, dirty := 0, ddesc := false, wts := sget 0 s.pkg.hbm.wts (pa / 64),
    rts := sget 0 s.pkg.hbm.rts (pa / 64) }

/-- The line of an L1 for an access, filled where it is not there. -/
def State.lineFor (s : State) (core asid va pa cls : Nat) : L1Line × State :=
  match (s.getCore core).line asid va pa cls with
  | some l => (l, s)
  | none => let l := s.freshLine asid va pa cls; (l, s.keepLine core l)

/-! ### Timestamps of a thread (R248, R249) -/

/-- Who makes an access at a home: the task of a number, an engine thread by its command, or a
request from another rank at a die for a partition. -/
inductive Who where
  | task (tid : Nat)
  | cmd (part tid ref : Nat)
  | fabric (part die : Nat)
  deriving DecidableEq, Repr

/-- The partition that an access is made for. -/
def State.whoPart (s : State) : Who → Nat
  | .task tid => match s.findThread tid with | some t => t.task.part | none => 0
  | .cmd p .. => p
  | .fabric p _ => p

/-- The timestamp and lease that an access starts from: a command's step from its fork (R249). The spec gives LEASE to cores only;
an engine's or another rank's load applies a lease of 1 (DESIGN CHOICE, log entry 107). -/
def State.stampOf (s : State) : Who → Nat × Nat
  | .task tid => match s.findThread tid with | some t => (t.csr.pts, t.csr.lease) | none => (0, 1)
  | .cmd _ tid ref => (match s.pkg.cmds.find? (fun m => m.tid = tid && m.ref = ref) with | some m => m.fork | none => 0, 1)
  | .fabric p d => (sget 0 (s.getPart p).fts d, 1)

/-- The timestamp after an access goes back to its thread. -/
def State.setStamp (s : State) (w : Who) (pts : Nat) : State :=
  match w with
  | .task tid => s.updThread tid fun t => { t with csr := { t.csr with pts := pts } }
  | .cmd _ tid ref => s.updPkg fun k =>
    { k with cmds := lmapIf (fun m => m.tid = tid && m.ref = ref) (fun (m : Cmd) => { m with pts := Nat.max m.pts pts }) k.cmds }
  | .fabric p d => s.updPart p fun q => { q with fts := sset 0 q.fts d pts }

/-- The store that is the home of a place, and the key of its line there. -/
def State.homeStore (s : State) : Place → Store
  | .spad c _ => (s.getCore c).spad
  | .mem .. => s.pkg.hbm
def Place.addr : Place → Nat
  | .spad _ o => o
  | .mem p _ => p
def Place.plus (p : Place) (n : Nat) : Place :=
  match p with
  | .spad c o => .spad c (o + n)
  | .mem a t => .mem (a + n) t
def State.setHome (s : State) (p : Place) (t : Store) : State :=
  match p with
  | .spad c _ => s.updCoreN c fun x => { x with spad := t }
  | .mem .. => s.updPkg fun k => { k with hbm := t }

/-- Whether the line of a place has timestamps (R235). -/
def Place.stamped : Place → Bool
  | .spad .. => true
  | .mem _ a => attrClass a = 2

/-- The lines that a die store has room for: 768 MiB (R3). -/
def storeLines : Nat := 768 * 2 ^ 20 / 64

/-- The die whose store is home of a line: the one that owns its stack (R235). -/
def lineDie (l : Nat) : Nat := bits (64 * l) 14 12 / 2

/-- The store of a line's die holds the line; a full one gives up another, which goes to its stack (log entry 98). -/
def State.holdLine (s : State) (l : Nat) : State :=
  let mine := sget [] s.pkg.dstore (lineDie l)
  if mine.contains l then s
  else if mine.length < storeLines then s.updPkg fun k => { k with dstore := sset [] k.dstore (lineDie l) (mine ++ [l]) }
  else { s.updPkg fun k => { k with dstore := sset [] k.dstore (lineDie l) (ldel mine (Config.evict s.choice storeLines % storeLines) ++ [l]) } with choice := s.choice + 1 }

/-- Notes the partition whose page holds a line with timestamps, for its rebase (R250). -/
def State.noteLine (s : State) (w : Who) : Place → State
  | .spad .. => s
  | .mem a _ => (s.updPkg fun k => { k with lineOf := sset 0 k.lineOf (a / 64) (s.whoPart w + 1) }).holdLine (a / 64)

/-- A LOAD and a WRITE at the home (R248). -/
def State.stampLoadAt (s : State) (w : Who) (p : Place) : State :=
  if !p.stamped then s
  else
    let t := s.stampOf w
    let r := (s.homeStore p).stampLoad p.addr t.1 t.2
    ((s.setHome p r.2).noteLine w p).setStamp w r.1
def State.stampWriteAt (s : State) (w : Who) (p : Place) : State :=
  if !p.stamped then s
  else
    let r := (s.homeStore p).stampWrite p.addr (s.stampOf w).1
    ((s.setHome p r.2).noteLine w p).setStamp w r.1

/-! ### Reading and writing at a place -/

/-- The linear-view word at a place of a scratchpad as core `core` finds it, or of memory as its home holds it, with the choice that
R257 leaves where an unjoined write in the other view touched it. -/
def State.homeWord (s : State) (core : Nat) (p : Place) : Word × State :=
  match p with
  | .mem a _ => (s.pkg.hbm.word a, s)
  | .spad c o =>
    let x := s.getCore c
    match unseen (sget [] x.swzOld (o / 4)) core with
    | [] => (x.spad.word o, s)
    | olds =>
      ((olds ++ [x.spad.word o]).getD (Config.pick s.choice (olds.length + 1) % (olds.length + 1)) (x.spad.word o),
        { s with choice := s.choice + 1 })

/-- The word at a place as an access through the L1 of a core sees it (R243). -/
def State.readWord (s : State) (w : Who) (core asid va : Nat) (p : Place) : Word × State :=
  match p with
  | .spad .. => let r := s.homeWord core p; (r.1, r.2.stampLoadAt w p)
  | .mem pa a =>
    let cls := attrClass a
    if cls ≠ 2 then
      let r := s.lineFor core asid va pa cls
      (w32 (blkGet r.1.data (pa % 64) 4), r.2)
    else
      let pts := (s.stampOf w).1
      match (s.getCore core).line asid va pa cls with
      | some l =>
        if pts ≤ l.rts then (w32 (blkGet l.data (pa % 64) 4), s.setStamp w (Nat.max pts l.wts))
        else
          let s1 := s.stampLoadAt w p
          (s.pkg.hbm.word pa, s1.keepLine core (s1.freshLine asid va pa cls))
      | none =>
        let s1 := s.stampLoadAt w p
        (s.pkg.hbm.word pa, s1.keepLine core (s1.freshLine asid va pa cls))

/-- Stores `n` bytes within one word of a place: in the L1 for a PRIV page, at the home otherwise; the descriptor stays
(R58, R243). -/
def State.writeBytes (s : State) (w : Who) (core asid va : Nat) (p : Place) (v n : Nat) : State :=
  match p with
  | .spad c o =>
    let x := s.getCore c
    let olds := unseen (sget [] x.swzOld (o / 4)) core
    let wins := olds = [] || Config.seesNew s.choice
    let s1 : State := if olds = [] then s else { s with choice := s.choice + 1 }
    let s2 := s1.updCoreN c fun x =>
      { x with linOld := sset [] x.linOld (o / 4) (sget [] x.linOld (o / 4) ++ [{ old := x.spad.word (o / 4 * 4) }])
               spad := if wins then x.spad.put o (v % 2 ^ (8 * n)) n else x.spad }
    s2.stampWriteAt w p
  | .mem pa a =>
    if attrClass a = 0 then
      let r := s.lineFor core asid va pa 0
      r.2.keepLine core { r.1 with data := blkSet r.1.data (pa % 64) v n, dirty := r.1.dirty ||| byteMask (pa % 64) n }
    else (s.setHome p ((s.homeStore p).put pa (v % 2 ^ (8 * n)) n)).stampWriteAt w p

/-- Whether the block of a place is poisoned (R361). -/
def State.placeBad (s : State) (p : Place) : Bool := (s.homeStore p).bad p.addr

/-- Clears the poison of a block that a step covers whole (R361). -/
def State.cleanBlock (s : State) (p : Place) : State :=
  s.setHome p { s.homeStore p with poison := sset false (s.homeStore p).poison (p.addr / 64) false }

/-- A touch of the region of a scratchpad place by a context: whether it proceeds at once, and the state in which
otherwise its exchange has been asked for (R348). -/
def State.touchPlace (s : State) (part slot : Nat) : Place → Bool × State
  | .spad c o => s.remoteTouch c (spadRegion o) part slot
  | .mem .. => (true, s)

/-- Reads a word where it is kept, changes it, and writes it back as one step (R133, R136): a PRIV word in the L1 of the
core that uses it, any other at its home. `f` gives the new word; `none` makes the step a load. -/
def State.rmwWord (s : State) (w : Who) (core asid va : Nat) (p : Place) (f : Word → Option Word) : Word × State :=
  match p with
  | .mem pa a =>
    if attrClass a = 0 then
      let r := s.lineFor core asid va pa 0
      let old := w32 (blkGet r.1.data (pa % 64) 4)
      match f old with
      | none => (old, r.2)
      | some n => (old, r.2.writeBytes w core asid va p n.toNat 4)
    else
      let old := s.pkg.hbm.word pa
      match f old with
      | none => (old, s.stampLoadAt w p)
      | some n => (old, s.writeBytes w core asid va p n.toNat 4)
  | .spad .. =>
    let r := s.homeWord core p
    match f r.1 with
    | none => (r.1, r.2.stampLoadAt w p)
    | some n => (r.1, r.2.writeBytes w core asid va p n.toNat 4)

/-! ### Atomics, locks and waits -/

/-- The new word of an atomic (R136, R193): `b` the operand or new value, `c` the value compared. -/
def amoNew (i : Instr) (w b c : Word) : Option Word :=
  match i with
  | .amoAdd .. | .famoAdd .. => some (w + b)
  | .amoAnd .. => some (w &&& b)
  | .amoOr .. | .famoOr .. => some (w ||| b)
  | .amoXor .. => some (w ^^^ b)
  | .amoMin .. => some (if w.toInt ≤ b.toInt then w else b)
  | .amoMax .. | .famoMax .. => some (if w.toInt ≤ b.toInt then b else w)
  | .amoMinu .. => some (if w.toNat ≤ b.toNat then w else b)
  | .amoMaxu .. => some (if w.toNat ≤ b.toNat then b else w)
  | .amoSwap .. | .famoSwap .. => some b
  | .amoCas .. => some (if w = c then b else w)
  | _ => none

/-- A lock word (R137). -/
def lockW (w : Word) : Bool := w.getLsbD 31
def lockPref (w : Word) : Bool := w.getLsbD 30
def lockWW (w : Word) : Nat := bits w.toNat 29 16
def lockRD (w : Word) : Nat := bits w.toNat 15 0
def mkLock (w : Word) (wr : Bool) (ww rd : Nat) : Word := w32 (b2n wr * 2 ^ 31 + b2n (lockPref w) * 2 ^ 30 + ww * 2 ^ 16 + rd)

/-- An evaluation of a lock operation or wait (R137, R139): whether it is granted, the word it writes if it changes it, and
whether the operation is counted as a waiting writer afterwards. -/
structure Eval where
  granted : Bool
  new : Option Word
  counted : Bool
  deriving DecidableEq, Repr

/-- Evaluates a lock operation or a wait against a word; `first` on arrival. -/
def evalWait (i : Instr) (w b : Word) (counted first : Bool) : Eval :=
  match i with
  | .rwlRd .. =>
    if !lockW w ∧ lockRD w < 0xFFFF ∧ !(lockPref w ∧ 0 < lockWW w) then
      ⟨true, some (mkLock w false (lockWW w) (lockRD w + 1)), false⟩
    else ⟨false, none, false⟩
  | .rwlWr .. =>
    if !lockW w ∧ lockRD w = 0 then
      ⟨true, some (mkLock w true (if counted then lockWW w - 1 else lockWW w) 0), false⟩
    else if first ∧ lockWW w < 0x3FFF then ⟨false, some (mkLock w (lockW w) (lockWW w + 1) (lockRD w)), true⟩
    else ⟨false, none, counted⟩
  | .rwlRu .. => ⟨true, if lockRD w = 0 then none else some (mkLock w (lockW w) (lockWW w) (lockRD w - 1)), false⟩
  | .rwlWu .. => ⟨true, if lockW w then some (mkLock w false (lockWW w) (lockRD w)) else none, false⟩
  | .waita .. => ⟨decide (w ≠ b), none, false⟩
  | .waitc .. => ⟨decide (b.toInt ≤ w.toInt), none, false⟩
  | _ => ⟨true, none, false⟩

end Sys2Proof.Machine
end

