-- ==== Sys2Proof/Machine/Engine.lean ====
section
/-! DEFINITION. Scratchpad accesses of the M unit and of the copy engine (R156, R183, R256, R257): words and blocks in
either view, with the timestamps of an engine thread (R249). -/

namespace Sys2Proof.Machine

/-- The physical address of a word in a view. -/
def viewAddr (sw : Bool) (a : Nat) : Nat := if sw then swz a else a

/-- An engine thread as the marks of its writes name it (R257): a command by task and number, an M-unit operation by task and
sequence number. -/
abbrev Thr := Nat × Nat × Bool

/-- Reads a word of the running core's scratchpad in a view, for an engine of core `own`. -/
def State.engRead (s : State) (own : Nat) (sw : Bool) (a : Nat) : Word × State :=
  let p := viewAddr sw (a / 4 * 4)
  s.viewWord sw own p (s.core.spad.word p)

/-- Writes `n` bytes within one word in a view, for an engine thread of core `own`; the descriptor stays. -/
def State.engWrite (s : State) (own : Nat) (by_ : Thr) (sw : Bool) (a v n : Nat) : State :=
  let p := viewAddr sw a
  let r := s.viewWins sw own p
  let s1 := r.2.noteView sw (some by_) p
  if r.1 then s1.updCore fun c => { c with spad := c.spad.put p (v % 2 ^ (8 * n)) n } else s1

/-- A load and a write of an engine thread at the group of a physical address (R249): its timestamp after it. -/
def State.engStampLoad (s : State) (pts a : Nat) : Nat × State :=
  let r := s.core.spad.stampLoad a pts 1
  (r.1, s.updCore fun c => { c with spad := r.2 })
def State.engStampWrite (s : State) (pts a : Nat) : Nat × State :=
  let r := s.core.spad.stampWrite a pts
  (r.1, s.updCore fun c => { c with spad := r.2 })

/-- Reads the words of a block in a view, from word `k` on. -/
def State.engWords (s : State) (sw : Bool) (a k : Nat) : Nat → Nat × State
  | 0 => (0, s)
  | n + 1 =>
    let r := s.engRead s.core.num sw (a + 4 * k)
    let q := r.2.engWords sw a (k + 1) n
    (r.1.toNat + 2 ^ 32 * q.1, q.2)

/-- Writes the words of a block in a view, from word `k` on. -/
def State.engPut (s : State) (by_ : Thr) (sw : Bool) (a v k : Nat) : Nat → State
  | 0 => s
  | n + 1 => (s.engWrite s.core.num by_ sw (a + 4 * k) (v % 2 ^ 32) 4).engPut by_ sw a (v / 2 ^ 32) (k + 1) n

/-- Reads a block with its descriptor in a view: the block, the thread's timestamp, the state (R256, R258). -/
def State.engBlock (s : State) (sw : Bool) (pts a : Nat) : DBlock × Nat × State :=
  let r := s.engWords sw a 0 16
  let p := viewBlock sw a
  let t := r.2.engStampLoad pts p
  ({ data := BitVec.ofNat 512 r.1, desc := s.core.spad.descAt p, mask := 0 }, t.1, t.2)

/-- Writes a whole block, and its descriptor where one is given, in a view as one step (R59); its poison goes (R361). -/
def State.engPutBlock (s : State) (by_ : Thr) (sw : Bool) (pts a : Nat) (b : Block) (d : Option Desc) : Nat × State :=
  let p := viewBlock sw a
  let s1 := (s.engPut by_ sw a b.toNat 0 16).updCore fun c =>
    { c with spad :=
      { c.spad with
        desc := match d with | some d => sset 0 c.spad.desc (p / 64) d | none => c.spad.desc
        poison := sset false c.spad.poison (p / 64) false } }
  s1.engStampWrite pts p

/-- Whether the block of an address in a view is poisoned (R361). -/
def State.engBad (s : State) (sw : Bool) (a : Nat) : Bool := s.core.spad.bad (viewBlock sw a)

/-- The regions of a scratchpad run. -/
def runOf (a n : Nat) : List Nat := (List.range (spadRegion (a + n - 1) + 1 - spadRegion a)).map (· + spadRegion a)

/-- A touch of regions of the running core by an engine of a context: whether all proceed; those that do not have been
asked for (R348). -/
def State.touchList (s : State) (p slot : Nat) : List Nat → Bool × State
  | [] => (true, s)
  | r :: l =>
    let a := s.remoteTouch s.core.num r p slot
    let b := a.2.touchList p slot l
    (a.1 && b.1, b.2)

end Sys2Proof.Machine
end

