-- ==== Sys2Proof/Machine/Faults.lean ====
section
/-! DEFINITION. The end of a task by a fault (R222), the start of a fold (R279), and engine fault records (R220, R221). -/

namespace Sys2Proof.Machine

/-! ### The end of a task -/

/-- Drops the engine work of a task that folds, faults or is abandoned (R175, R189, R279 step 2): unstarted commands go,
running ones stop at their next block, M work goes, results and held effects go. -/
def State.dropWork (s : State) : State :=
  let tid := s.core.th.tid
  (s.updPkg fun k => { k with cmds := lmapIf (·.tid = tid) (fun (m : Cmd) => { m with stopped := true }) k.cmds }).updTh
    fun (t : Thread) =>
      { t with cbuf := [], mq := [], holdq := [], lq := [], lqPend := [], vq := [], vqPend := [], slips := [],
               inflight := [], snap := none }

/-- A task of the running core ends as faulted (R222): the fault is recorded in its launch and nothing is released. The
core is freed when its engine threads have stopped (R287). -/
def State.endFaulted (s : State) (cause : Nat) (fpc : Nat) (fva : Nat) : State :=
  let t := s.core.th.task
  let s1 := s.launchFault t.part t.slot cause t.id fpc fva
  (s1.leaveAll.dropWork).updCore fun c => { c with phase := .released }

/-- The start of a fold, or of the discarding of a task that a shrink will make again (R279 steps 1 and 2, R350). -/
def State.startFold (s : State) (rebirth : Bool) : State :=
  (s.leaveAll.dropWork).updCore fun c =>
    { c with phase := .folding rebirth, th := { c.th with csr := { c.th.csr with epc := c.th.pc } } }

/-! ### Engine fault records (R220, R221) -/

/-- The lowest free record. -/
def freeRec (m : Sparse FaultRec) (k : Nat) : Nat → Option Nat
  | 0 => none
  | n + 1 => if (sget {} m k).valid then freeRec m (k + 1) n else some k

/-- Records an engine or slip fault of a thread and makes it pending (R215, R220). -/
def Thread.addFault (t : Thread) (f : FaultRec) : Thread :=
  match freeRec t.recs 0 8 with
  | some k =>
    { t with recs := sset {} t.recs k { f with valid := true }, pendF := t.pendF ++ [⟨f.cause, f.sub, w32 k⟩] }
  | none => { t with lost := Nat.min (t.lost + 1) 255, pendF := t.pendF ++ [⟨f.cause, f.sub, 8⟩] }

/-- REQ of the error log for a recorded fault: the copy engine, or the core, of a number (R358). -/
def FaultRec.req (f : FaultRec) (core : Nat) : Nat := if f.copy then reqEngine core else reqCore core

/-- Records a fault of an engine thread of task thread `tid`. A task that has issued END ends as faulted (R222); one
that is gone has the fault recorded by its launch or the error log. -/
def State.engineFault (s : State) (tid : Nat) (task : Task) (f : FaultRec) : State :=
  match s.findThread tid with
  | none => s.logErr task.part f.fva.toNat (f.req 0) 0x10 (f.sub * 256 + f.cause)
  | some _ =>
    let past := s.allCores.find? fun c => c.th.tid = tid && (match c.phase with
      | .released | .folding _ | .cleaning => true | _ => false)
    let gone := s.allCores.any fun c => c.th.tid = tid && c.phase = .dropping
    if gone then s.logErr task.part f.fva.toNat (f.req 0) 0x10 (f.sub * 256 + f.cause)
    else match past with
    | some c =>
      s.launchFaultBy (f.req c.num) task.part task.slot (f.sub * 256 + f.cause) task.id f.baddr.toNat f.fva.toNat
    | none =>
      match s.allCores.find? (fun c => c.th.tid = tid && c.phase = .ending) with
      | some c => s.onCore c.num fun s => s.endFaulted (f.sub * 256 + f.cause) f.baddr.toNat f.fva.toNat
      | none => s.updThread tid fun t => t.addFault f

end Sys2Proof.Machine
end

