-- ==== Sys2Proof/Machine/Waits.lean ====
section
/-! DEFINITION. Lock operations and waits at their home (R137, R139): their evaluation, their answers, and the evaluations that a write
leads to. -/

namespace Sys2Proof.Machine

/-- Hands a word to the reserved entry of lq (R134). -/
def State.answer (s : State) (q : QAcc) (w : Word) : State :=
  s.updThread q.tid fun t =>
    { t with lqPend := lmapIf (·.id = q.id) (fun (r : QRes) => { r with val := some w }) t.lqPend }

/-- The fault record of a queued or fabric operation (R221, R361). -/
def QAcc.fault (q : QAcc) (sub : Nat) (fva : Nat) : FaultRec :=
  { sub, slot := q.slot, cause := 0x0A, baddr := q.baddr, sword := q.sword, xa := q.xa, xb := q.xb, fva := BitVec.ofNat 64 fva }

/-- A queued load, atomic or lock step that meets a poisoned block: ENGFAULT POISON, and 0 in lq (R361). -/
def State.poisonedQ (s : State) (q : QAcc) : State := (s.engineFault q.tid q.task (q.fault 0x0A q.va)).answer q 0

/-- The ASID of the context of a task. -/
def State.asidOf (s : State) (t : Task) : Nat := match s.taskCtx t with | some d => d.asid | none => 0

/-- Evaluates a lock operation or wait at its home (R137, R139). -/
def State.evalAt (s : State) (core : Nat) (q : QAcc) (counted first : Bool) : Eval × State :=
  let f := fun w => evalWait q.instr w q.b counted first
  let r := s.rmwWord (.task q.tid) core (s.asidOf q.task) q.va q.place fun w => (f w).new
  let e := f r.1
  let s1 : State := if e.new.isSome then r.2.sink q.task.part q.task.slot else r.2
  (e, if e.granted then s1.answer q r.1 else s1)

/-- The word at the place of a registered operation, and the wts of its line. -/
def State.waitWord (s : State) (w : Waiter) : Word × Nat :=
  match w.acc.place with
  | .spad c o => ((s.getCore c).spad.word o, sget 0 (s.getCore c).spad.wts (o / 64))
  | .mem pa a =>
    if attrClass a = 0 then
      match (s.getCore w.core).line (s.asidOf w.acc.task) w.acc.va pa 0 with
      | some l => (w32 (blkGet l.data (pa % 64) 4), 0)
      | none => (s.pkg.hbm.word pa, 0)
    else (s.pkg.hbm.word pa, sget 0 s.pkg.hbm.wts (pa / 64))

/-- Whether a word in the region that another context owns is not there to be seen (R348). -/
def State.ownsWord (s : State) (w : Waiter) : Bool :=
  match w.acc.place with
  | .spad c o =>
    decide (sget Owner.none (s.getCore c).owner (spadRegion o) = .ctx w.acc.task.part w.acc.task.slot)
      && !(s.getCore c).exch.any (·.region = spadRegion o)
  | .mem .. => true

/-- Whether a write has come to the word of a registered operation since it was last evaluated. -/
def State.wakes (s : State) (w : Waiter) : Bool := s.ownsWord w && s.waitWord w ≠ w.seen

/-- Evaluates a registered lock operation or wait again, after a write to its word (R137, R139): granted it leaves, else its
evaluation was a load (R246). A poisoned word is not evaluated (R361). -/
def State.wake (s : State) (k : Nat) : State :=
  match s.pkg.waiters[k]? with
  | none => s
  | some w =>
    if s.placeBad w.acc.place then (s.poisonedQ w.acc).updPkg fun g => { g with waiters := ldel g.waiters k }
    else
    let r := s.evalAt w.core w.acc w.counted false
    r.2.updPkg fun g =>
      { g with waiters := if r.1.granted then ldel g.waiters k
                          else lset g.waiters k { w with seen := r.2.waitWord w } }

/-- The operation that is evaluated next, in order of arrival (R137). -/
def State.wakeDue (s : State) : Option (Instr × Stim) :=
  match s.pkg.waiters.findIdx? s.wakes with
  | some k => some (.queuedAccessAtHome, { n := 1, k })
  | none => none

/-- Evaluates every registered operation that a write has reached; `n` bounds the evaluations. -/
def State.wakeAll (s : State) : Nat → State
  | 0 => s
  | n + 1 =>
    match s.pkg.waiters.findIdx? s.wakes with
    | some k => (s.wake k).wakeAll n
    | none => s

/-- A bound on the evaluations that one write can lead to: each grant may lead to one of every other operation. -/
def State.wakeFuel (s : State) : Nat := (s.pkg.waiters.length + 1) * (s.pkg.waiters.length + 1)

end Sys2Proof.Machine
end

