-- ==== Sys2Proof/Machine/Ops.lean ====
section
/-! DEFINITION. The core's shared operations on operations: bank service (R126), stops, taking an exception and returning from one
(R213 to R219), engine fault records (R220), the end of a task by a fault (R222) and the start of a fold (R279), and presenting an
operation (R14, R203, R205). -/

namespace Sys2Proof.Machine

/-! ### Bank service (R126) -/

/-- The slot of a slip entry as its operation is served. -/
def Slip.env (e : Slip) : Env :=
  { slot := e.slot, ext := e.ext, sword := e.sword, seq := e.seq, pc := e.baddr, rrb := e.rrb
    banked := e.why = 0 && e.lanes ≠ [], served := some e.ops, early := e.early, checked := e.checked }

/-- Whether a slip entry is a direct access that is partly served: some of its words have been, and some have not (R126). -/
def Slip.serving (e : Slip) : Bool := e.why = 0 && e.lanes ≠ [] && e.served ≠ 0

/-- Updates the slip entry of a sequence number. -/
def State.updSlip (s : State) (seq : Nat) (f : Slip → Slip) : State :=
  s.updTh fun t => { t with slips := lmapIf (·.seq = seq) f t.slips }

/-- Runs `f` with a slip entry as the slot being served, and gives the slot back. What a load sees is as it was (R127). -/
def State.onSlip (s : State) (e : Slip) (f : State → State) : State :=
  let env0 := s.core.env
  (f (s.updCore fun c => { c with env := { e.env with before := env0.before } })).updCore fun c => { c with env := env0 }

/-- The words that the banks serve in this cycle, and those left, one cycle nearer. -/
def Slip.now (e : Slip) : List Nat := (e.lanes.filter (·.2 = 0)).map (·.1)
def Slip.rest (e : Slip) : List (Nat × Nat) := (e.lanes.filter (·.2 ≠ 0)).map fun l => (l.1, l.2 - 1)

/-- Serves words of a direct vector access one after the other, each as one step, with the evaluations that a store leads to (R137,
R139, R246). -/
def State.serveSteps (s : State) (i : Instr) (o : Opnds) (part : VReg) : List Nat → VReg × State
  | [] => (part, s)
  | l :: ls =>
    let r := s.serveLane i o part l
    (r.2.wakeAll r.2.wakeFuel).serveSteps i o r.1 ls

/-- A described load takes blocks of its run, each whole and with its descriptor as one step (R59). -/
def State.takeBlocks (s : State) (e : Slip) : List Nat → Slip × State
  | [] => (e, s)
  | b :: l =>
    let r := s.serveLanes e.instr e.ops e.part ((List.range 16).map (16 * b + ·))
    r.2.takeBlocks
      { e with part := r.1, took := b :: e.took, descs := lset e.descs b (s.seen.descAt (wordAddr e.instr e.ops (16 * b))) } l

/-- Serves the words of a vector access that fall in this cycle; a described load takes a block with the first of its words. -/
def State.serveNow (s : State) (e : Slip) : Slip × State :=
  match e.instr with
  | .vldd .. => s.takeBlocks e ((e.now.map (· / 16)).eraseDups.filter (!e.took.contains ·))
  | _ => let r := s.serveSteps e.instr e.ops e.part e.now; ({ e with part := r.1 }, r.2)

/-- One cycle of bank service of the entry of a sequence number: the words of this cycle are served, and with the last of them a
vector access ends, its latency counted from there with `late` more cycles. An access that is not served word by word only counts
its words. -/
def State.bankStep (s : State) (seq late : Nat) : State :=
  match s.core.th.slips.find? (·.seq = seq) with
  | none => s
  | some e =>
    let note := fun (y x : Slip) =>
      { x with lanes := e.rest, part := y.part, took := y.took, descs := y.descs, served := x.served + e.now.length }
    s.onSlip e fun s1 =>
      if progressive e.instr then
        let s2 := s1.touchedAll ((e.now.map fun l => spadRegion (wordAddr e.instr e.ops l)).eraseDups)
        let r := s2.serveNow e
        if e.rest = [] then
          (r.2.served e.instr e.ops r.1.part r.1.descs late).updTh fun t => { t with slips := t.slips.filter (·.seq ≠ seq) }
        else r.2.updSlip seq (note r.1)
      else s1.updSlip seq (note e)

/-- One cycle of the service of the entries of a list that are partly served (R213): the last words of an access that is not served
word by word bring its whole effect, or leave it unserved where its wait does not hold. -/
def State.finishCycle (s : State) (late : Nat) : List Slip → State
  | [] => s
  | e :: l =>
    if progressive e.instr ∨ e.lanes.any (·.2 ≠ 0) then (s.bankStep e.seq late).finishCycle late l
    else
      let drop := fun (s : State) => s.updTh fun t => { t with slips := t.slips.filter (·.seq ≠ e.seq) }
      ((s.onSlip e fun s1 => match s1.bankEffect e.instr e.ops late with
        | some s2 => drop (s2.wakeAll s2.wakeFuel)
        | none => s1.updSlip e.seq fun x => { x with lanes := [] })).finishCycle late l

/-- Completes the service of the partly served accesses of the running core before a stop (R213), from the cycle `late` cycles
away on: the cycle after the last of them, and the state. `n` bounds the cycles. -/
def State.finishBanks (s : State) : Nat → Nat → Nat × State
  | 0, late => (late, s)
  | n + 1, late =>
    match sortBy (fun a b => a.seq < b.seq) (s.core.th.slips.filter (·.serving)) with
    | [] => (late, s)
    | e :: l => (s.finishCycle late (e :: l)).finishBanks n (late + 1)

/-! ### Stops (R213) -/

/-- The translation answers of the bundle being left are forgotten (R132, R292). -/
def State.dropAnswers (s : State) : State := s.updCore fun c => { c with xreq := none, xans := [], fillBad := none }

/-- The captured vector operands of a slip entry (R207). -/
def Slip.vecs (e : Slip) : List VReg :=
  ((shape e.instr).vs.filter fun r => !e.pend.contains r.1).map fun r =>
    match r.1 with | .a => e.ops.va | .b => e.ops.vb | _ => e.ops.vd

/-- Slip entries as a snapshot shows them, with the vector holders in use: the `k`-th entry has SEQ `k`, and HLD names the
holders of its captured vector operands (R225). -/
def captureSlips : List Slip → Nat → List VReg → List Slip × List VReg
  | [], _, hs => ([], hs)
  | e :: l, k, hs =>
    let n := e.vecs.length
    let h := hs.length
    let hld := (if 0 < n then 1 + h % 2 * 4 else 0) + (if 1 < n then 2 + (h + 1) % 2 * 8 else 0)
    let r := captureSlips l (k + 1) (hs ++ e.vecs)
    ({ e with lanes := [], served := 0, part := 0, descs := [], took := [], sq := k, hld } :: r.1, r.2)

/-- The order of two operations of a thread. -/
def Slip.older (a b : Slip) : Bool := a.seq < b.seq
def Landing.older (a b : Landing) : Bool := a.seq < b.seq

/-- The snapshot of the running task at a stop that lies `k` cycles away, with the results `keep` withheld (R213, R223 to R225). -/
def State.snapshot (s : State) (why k : Nat) (rpc : Word) (keep : List Landing) : Snap :=
  let t := s.core.th
  let land := (sortBy Landing.older keep).map fun l => { l with remain := l.remain - k }
  let sl := captureSlips (sortBy Slip.older t.slips) 0 []
  { rpc, rrb := t.csr.rrb, lc := t.csr.lc, ec := t.csr.ec, stop := w32 (s.pkg.time + k), why, gw := t.waitG.isSome
    grp := t.waitG.getD 0, land, slips := sl.1, nsp := land.countP (·.isSp), nv := land.countP (·.isV), nsl := sl.1.length
    holders := sl.2, base := t.bseq }

/-- The copy buffer in its order at a cycle: by how far away the due times lie, ties in program order (R179). -/
def bufferOrder (now : Nat) (l : List Cmd) : List Cmd := sortBy (fun a b => a.ahead now < b.ahead now) (sortBy (fun a b => a.ref < b.ref) l)

/-- Stops the task of the running core (R213): `late` is the distance of the stop point from the current cycle where no direct
access is partly served. Answers the cycles by which the stop point lies after this one. Program order leaves room for the entries
that a handler may make. The unstarted commands stand in buffer order as at the stop (R179, R223, log entry 120). -/
def State.stopTask (s : State) (why late : Nat) (rpc : Word) : Nat × State :=
  let b := (s.updCore fun c => { c with env := { c.env with before := none } }).finishBanks 256 late
  let k := b.1
  let s1 := b.2
  let lands := fun (l : Landing) => l.remain < k || l.isCsr
  let early := s1.core.th.inflight.filter lands
  let keep := s1.core.th.inflight.filter fun l => !lands l
  let s2 := (s1.updTh fun t => { t with inflight := [] }).landAll early
  let snap := s2.snapshot why k rpc keep
  let t := s2.core.th
  let s3 : State := s2.withdraw t.task.part t.task.slot t.tid
  (k, (s3.updTh fun t =>
    { t with snap := some snap, cbuf := bufferOrder (s.pkg.time + k) t.cbuf, inflight := [], slips := [], waitG := none, arrived := false, bubble := 0, frozen := 0
             bseq := t.bseq + 16 }).dropAnswers)

/-! ### Taking an exception and returning from one -/

/-- Whether an event folds the task: BUDGET in a foldable task (R216, R279). -/
def folds (s : State) (cause : Nat) : Bool := cause = 0x0E && s.core.th.task.foldable

/-- Takes an exception (R214, R215): EPC, ECAUSE and EVAL are written, ESTAT := 1, the transient state is captured, and
the handler's first bundle issues three cycles after the stop point; with TRAPVEC.EN = 0 the task ends as faulted; in
handler mode the task ends with this fault (R218). `late` is 1 for `trap`, whose stop point is the next cycle. -/
def State.takeTrap (s : State) (t : Trap) (async : Bool) (epc : Word) (late : Nat) : State :=
  let rec_ := sget {} s.core.th.recs t.val.toNat
  let isRec := async && t.val.toNat < 8 && rec_.valid
  let fpc := if isRec then rec_.baddr.toNat else epc.toNat
  let fva := if isRec then rec_.fva.toNat else t.val.toNat
  let code := t.sub % 256 * 256 + t.cause
  if folds s t.cause then s.startFold false
  else
    match s.core.th.mode with
    | .handler => s.endFaulted code fpc fva
    | .task =>
      let st := s.stopTask (if t.cause = 0x0A ∧ t.sub = 0x57 then 3 else 0) late epc
      let s1 := st.2.updTh fun h =>
        { h with csr := { h.csr with epc := epc, ecause := w32 (code + (if async then 2 ^ 31 else 0)), evalw := t.val, estat := 1 } }
      if s1.core.th.csr.trapvec.getLsbD 0 then
        (s1.logErr s1.core.th.task.part (if isRec then fva else t.fva) (if isRec then rec_.req s1.core.num else reqCore s1.core.num) 0x10 code).updTh fun h =>
          { h with mode := .handler, pc := h.csr.trapvec &&& 0xFFFFFFF0, bubble := 2 + st.1,
                   reported := if async && t.val.toNat < 8 then some t.val.toNat else none }
      else s1.endFaulted code fpc fva

/-- A synchronous trap of the slot being presented: the bundle has no effect (R19), EPC is its address. -/
def State.trapNow (s : State) (t : Trap) : State :=
  (s.takeTrap t false s.core.th.pc 0).mark (.aborted t.cause t.sub t.val t.fva)

/-- A check of a slipped operation fails at its service (R368): the operation has no effect, and the fault takes a
record and is pending; a BUDGET event folds a foldable task. After END the task ends as faulted (R222). -/
def State.serviceFault (s : State) (t : Trap) (o : Opnds) : State :=
  let a : Issue := .aborted t.cause t.sub t.val t.fva
  if folds s t.cause then (s.startFold false).mark a
  else if s.core.phase = .ending then (s.endFaulted (t.sub % 256 * 256 + t.cause) s.core.env.pc.toNat t.fva).mark a
  else
    (s.updTh fun h => h.addFault
      { sub := t.sub, slot := s.core.env.slot, cause := t.cause, baddr := s.core.env.pc, sword := s.core.env.sword,
        xa := o.xa, xb := o.xb, fva := BitVec.ofNat 64 t.fva }).mark a

/-- Whether a captured result may land (R226). -/
def Landing.legal (l : Landing) : Bool :=
  !l.valid || l.remain ≤ 255 && match l.dest with
    | .x n _ => n ≤ 55
    | .p n _ _ => n < 128
    | .v n _ _ => n ≤ 61
    | .push k _ => k < 4
    | _ => true

/-- Whether a slip entry may be presented (R226): its slot word decodes, a WHY of 7 has an earlier entry of its class, and its HLD
names holders in use. -/
def Slip.legal (all : List Slip) (holders : Nat) (e : Slip) : Bool :=
  !e.valid || (wellFormed e.instr && slotOp e.instr && e.why ≤ 7
    && (e.why ≠ 7 || (counterOf e.instr).isSome && all.any fun o => o.valid && o.sq < e.sq && counterOf o.instr = counterOf e.instr)
    && (!bit e.hld 0 || bits e.hld 2 2 < holders) && (!bit e.hld 1 || bits e.hld 3 3 < holders))

/-- Whether every entry of a snapshot is legal, with the M entries and the copy entries (R99, R226). -/
def Snap.legal (n : Snap) (mq : List MOp) (cbuf : List Cmd) : Bool :=
  n.land.all Landing.legal && n.slips.all (Slip.legal n.slips n.holders.length)
    && mq.all (fun m => counterOf m.instr = some 4) && cbuf.all fun m => counterOf m.instr = some 3

/-- A slip entry with the vector operands of the holders that its HLD names (R225); without a flag an operand is zero. -/
def Slip.refill (e : Slip) (hs : List VReg) : Slip :=
  let rs := (shape e.instr).vs.filter fun r => !e.pend.contains r.1
  let val := fun k => if bit e.hld k then lget 0 hs (bits e.hld (k + 2) (k + 2)) else 0
  { e with ops := (rs.zipIdx).foldl (fun (o : Opnds) r => o.setV r.1.1 (val r.2)) e.ops }

/-- The slip entries that a resumption presents again: those still valid, in the order of SEQ, numbered in program order in that
order (R225, R226). -/
def Snap.present (n : Snap) : List Slip :=
  let l := sortBy (fun (a b : Slip) => a.sq < b.sq) (n.slips.filter (·.valid))
  let q := sortBy (fun (a b : Nat) => a < b) (l.map (·.seq))
  (l.zipIdx).map fun e => { e.1.refill n.holders with seq := lget 0 q e.2 }

/-- The hold queue after a resumption: the entry that a slipped operation reserved follows it, or goes with it (R226). -/
def Snap.holds (n : Snap) (h : List Held) : List Held :=
  let l := sortBy (fun (a b : Slip) => a.sq < b.sq) (n.slips.filter (·.valid))
  let q := sortBy (fun (a b : Nat) => a < b) (l.map (·.seq))
  h.filterMap fun x => match x with
    | .reserved k => match l.findIdx? (·.seq = k) with
      | some j => some (.reserved (lget 0 q j))
      | none => none
    | x => some x

/-- The task of the running core goes on from its snapshot at `pc`, `k` cycles from now (R213, R219). An illegal entry raises ILLOP
at the resumption address before any entry lands (R226): its stop point is the cycle of the resumption, and the snapshot is captured
again. ECAUSE[15:8] and EVAL are 0 there, as no slot is at fault (log entry 103). -/
def State.resume (s : State) (pc : Word) (k : Nat) (mode : Mode) : State :=
  match s.core.th.snap with
  | none => s.updTh fun t => { t with pc := pc, mode := mode, bubble := k - 1 }
  | some n =>
    let s1 := s.updTh fun t =>
      { t with
        snap := none
        mode := mode
        pc := pc
        bubble := k - 1
        frozen := k - 1
        csr := { t.csr with rrb := rrbStore n.rrb, lc := n.lc, ec := n.ec &&& 0x3F }
        waitG := if n.gw then some n.grp else none
        arrived := false }
    let cbuf := (s1.core.th.cbuf ++ n.newC.map (·.2)).filter fun c => !c.dropped
    let mq := (s1.core.th.mq ++ n.newM.map (·.2)).filter fun m => !m.dropped
    let land := n.land.map fun l => { l with remain := l.remain + k }
    if n.legal mq cbuf then
      s1.updTh fun t =>
        { t with inflight := t.inflight ++ land.filter (·.valid), slips := t.slips ++ n.present, holdq := n.holds t.holdq
                 cref := if n.newC = [] then t.cref else t.cref + 32
                 cbuf, mq := mq.map fun (m : MOp) => if m.stop then { m with stop := false, nextAt := s.pkg.time + k + 2 } else m }
    else
      ((s1.updTh fun t => { t with inflight := land, slips := n.slips.map fun (e : Slip) => e.refill n.holders }).takeTrap
        (mkTrap 3 0 0) false n.rpc k).updTh fun t =>
          { t with snap := t.snap.map fun (x : Snap) => { x with newM := n.newM, newC := n.newC } }

/-! ### Presenting an operation -/

/-- What an operation does, for `present`: `wait` a stall with what it asks for (a translation, an exchange), `chk` the checks of its
entry in their order, `needs` the sources beside the guard that both read, `pre` those of the first checks that can be made while the
given sources are pending, `late` the checks made as it reads memory (poison, R361), `place` where a queued access goes, `rdy` the
reason for a slip, `words` the scratchpad words it touches by lane, and its effect. -/
structure Meaning where
  needs : List Role := []
  pre : List Role → Opnds → State → Option Trap := fun _ _ _ => none
  wait : Opnds → State → Option State := fun _ _ => none
  chk : Opnds → State → Option Trap := fun _ _ => none
  late : Opnds → State → Option Trap := fun _ _ => none
  place : Opnds → State → Option Place := fun _ _ => none
  rdy : Opnds → State → Option Nat := fun _ _ => none
  words : Opnds → State → List (Nat × Nat) := fun _ _ => []
  eff : Opnds → State → Res

/-- The checks of an operation that acts: those of its entry unless they have been made (R368), then those of its reads. -/
def Meaning.checks (m : Meaning) (made : Bool) (o : Opnds) (s : State) : Option Trap :=
  if made then m.late o s else orTrap (m.chk o s) (m.late o s)

/-- Operations that handler mode forbids (R217) and, apart from CSR access, that only handler mode allows. -/
def forbiddenIn (m : Mode) (i : Instr) : Bool :=
  let h := shape i
  match m with
  | .task =>
    match i with
    | .eret _ | .snapw .. => true
    | .csrr _ _ c | .csrw _ _ c | .csrs _ _ c | .csrc _ _ c => 0x21 ≤ c && c ≤ 0x25
    | _ => false
  | .handler =>
    h.cls = .c || (h.cls = .m && (match i with | .nstop .. => false | _ => true)) || h.pops ≠ [] || h.pushes ≠ []
      || match i with
        | .gjoin .. | .gleave .. | .gsync .. | .fold .. | .trap .. | .endB .. => true
        | .vqld .. | .vqst .. => true
        | .qldW .. | .qldH .. | .qldB .. | .qstW .. | .qstH .. | .qstB .. | .amoAdd .. | .amoAnd .. | .amoOr ..
        | .amoXor .. | .amoMin .. | .amoMax .. | .amoMinu .. | .amoMaxu .. | .amoSwap .. | .amoCas .. | .rwlRd ..
        | .rwlWr .. | .rwlRu .. | .rwlWu .. | .waita .. | .waitc .. => true
        | _ => false

/-- The PRIV trap of a slot (R216). -/
def privTrap (s : State) (i : Instr) : Trap :=
  match i with
  | .endB _ => mkTrap 4 0xFF 0
  | _ => mkTrap 4 s.core.env.slot s.core.env.sword

/-- Whether the guard suppresses an operation (R14, R15). -/
def suppressedBy (i : Instr) (g : PReg) : Bool :=
  let h := shape i
  match h.gu with
  | .lane0 => h.cls ≠ .nop && h.cls ≠ .hdr && h.cls ≠ .dev && !g.getLsbD 0
  | .memory => g = 0
  | .lanes => g = 0 && (h.pops ≠ [] || h.pushes ≠ [])
  | .operand => false

/-- The link port named by an operation that has no binding (R25, R190). -/
def State.unbound (s : State) (i : Instr) : Option Nat :=
  ((shape i).pops ++ (shape i).pushes).find? fun n => 57 ≤ n && n ≤ 60 && (s.portChan n).isNone

/-- Pushes on their way to a link port, in flight or in a slipped slot: each will need a place (R74, R211). -/
def Thread.pushesTo (t : Thread) (k : Nat) : Nat :=
  (t.inflight.countP fun l => match l.dest with | .push k' _ => k' = k | _ => false)
    + t.slips.countP fun e => (shape e.instr).pushes.contains (57 + k)

/-- The places of a channel that pushes on their way will need. -/
def State.pushesOn (s : State) (ch : Nat) : Nat :=
  ([0, 1, 2, 3].map fun k => if s.portChan (57 + k) = some ch then s.core.th.pushesTo k else 0).sum

/-- Whether the running core has a credit of a channel to give (R192): pushes on their way have theirs. -/
def State.hasCredit (s : State) (ch : Nat) : Bool :=
  let t := s.core.th.task
  sget 0 (s.getCtx t.part t.slot).used (chKey (s.myEnd ch) ch) + s.pushesOn ch < (s.myChan ch).depth

/-- Whether a push to a link port finds a place (R25, R74). A foldable task's push takes a hold entry instead. -/
def State.pushFree (s : State) (n : Nat) : Bool :=
  match s.portChan n with
  | none => true
  | some ch => s.core.th.task.foldable || s.hasCredit ch

/-- Whether a lane read as `vgetl` names it makes it push nothing (R117). While X(B) or the guard is pending, the values that their
registers hold decide (log entry 104). -/
def noPush (i : Instr) (o : Opnds) : Bool :=
  match i with
  | .vgetl .. => !o.g.getLsbD (o.xb.toNat % 64)
  | _ => false

/-- Whether a port holds the bundle (R25, R203). -/
def State.portStall (s : State) (i : Instr) : Bool :=
  let h := shape i
  h.pops.any (fun n =>
    if n = 56 then s.core.th.lq.isEmpty
    else if n = 126 then s.core.th.vq.isEmpty
    else match s.portChan n with | some ch => (s.headMsg ch).isNone | none => false)
    || (!noPush i (s.opnds i) && h.pushes.any fun n => !s.pushFree n)

/-- The pipe role trap of a link port used outside its bound set (R286). -/
def State.pipeRole (s : State) (ch : Nat) (send : Bool) : Bool :=
  (s.myChan ch).kind = 2 && match s.core.th.task.role with
    | none => true
    | some r => if send then r = 2 else r = 0

/-- The PORTDEAD traps of the link ports an operation names (R190, R286), also where a `vgetl` would push nothing (log entry 104). -/
def State.portTrap (s : State) (i : Instr) : Option Trap :=
  match s.unbound i with
  | some n => some (mkTrap 0x0B 1 (w32 n))
  | none =>
    let bad := fun send n => match s.portChan n with | some ch => s.pipeRole ch send | none => false
    match (shape i).pops.find? (fun n => 57 ≤ n && n ≤ 60 && bad false n) with
    | some n => some (mkTrap 0x0B 5 (w32 n))
    | none =>
      match (shape i).pushes.find? (bad true) with
      | some n => some (mkTrap 0x0B 5 (w32 n))
      | none => none

/-- A push of a foldable task that finds no hold entry (R138, R192). -/
def State.pushHold (s : State) (i : Instr) (o : Opnds) : Option Trap :=
  if s.core.th.task.foldable && (shape i).pushes ≠ [] && !noPush i o && s.noHold then some (mkTrap 0x0E 4 0) else none

/-- The vector holders that an entry has, or will have once its sources have landed (R207, R209): a pending source has its holder from
issue on, so that an operation with three vector sources does not slip but stalls its bundle (DESIGN CHOICE, log entry 127). -/
def Slip.holders (e : Slip) : Nat := (shape e.instr).vs.length

/-- Whether an operation of a foldable task takes a hold entry as it slips (R18, R138, R186, R192): a command where its block as it
stands makes a signal, also while the address of that block is pending, for the time being (log entry 121). -/
def State.takesEntry (s : State) (i : Instr) (o : Opnds) (pend : List Role) : Bool :=
  takesHold i && !(pend = [] && noPush i o)
    && ((cmdFields i).isNone || isCsig i || pend.contains .a || (s.seen.word (o.xa.toNat + 52)).getLsbD 0)

/-- Slips the slot (R205, R207, R209): a full buffer, or too few vector holders, stalls the bundle instead. In a foldable task a held
effect takes its entry now (R18, R138, R192). -/
def State.slip (s : State) (i : Instr) (o : Opnds) (why : Nat) (pend : List Role) (checked : Bool)
    (lanes : List (Nat × Nat)) (place : Option Place) : State :=
  let e : Slip :=
    { slot := s.core.env.slot, why, seq := s.core.env.seq, ext := s.core.env.ext, sword := s.core.env.sword,
      baddr := s.core.th.pc, rrb := s.core.th.csr.rrb, instr := i, ops := o, pend, lanes, part := 0, checked,
      early := { s.takeEarly i with place }, descs := if lanes = [] then [] else s.runDescs i o }
  let t := s.core.th
  let held := t.slips.foldl (fun n x => n + x.holders) 0
  if 4 ≤ t.slips.countP (·.slot = e.slot) ∨ (0 < e.holders ∧ 2 < held + e.holders) then s.mark .stalled
  else
    let s1 := (s.pop i).updTh fun t => { t with slips := t.slips ++ [e] }
    (if t.task.foldable && s.takesEntry i o pend && !t.holdFull then s1.hold (.reserved e.seq) else s1).mark
      (.slipped why)

/-- The entry being served has passed its checks, and keeps the place of its access (R132, R368). -/
def State.passed (s : State) (place : Option Place) : State :=
  s.updSlip s.core.env.seq fun e =>
    { e with checked := true, early := { e.early with place := if e.early.place.isSome then e.early.place else place } }

/-- The words of a direct access are served, in this cycle with the effect `act`, or over several (R126): `wait` puts the operation
into its slip entry, whose first words are served now. -/
def State.serveWords (s : State) (ws : List (Nat × Nat)) (act : State → Res) (wait : State → List (Nat × Nat) → State) : Res :=
  let plan := bankPlan s.core.banks ws
  let s1 := s.updCore fun c => { c with banks := plan.2 }
  if planEnd plan.1 = 0 then act s1
  else
    let s2 := wait s1 plan.1
    .next (if s2.core.issue = .stalled then s2 else (s2.bankStep s.core.env.seq 0).mark (.slipped 0))

/-- Serves the slip entry whose operands are `o` (R208). A failing check is a fault of the slipped operation (R368). -/
def presentSlip (i : Instr) (s : State) (m : Meaning) (o : Opnds) : Res :=
  if suppressedBy i o.g then .next (s.mark .suppressed) else
  match m.wait o s with
  | some s1 => .next (s1.mark .stalled)
  | none =>
    match orTrap (m.checks s.core.env.checked o s) (s.pushHold i o) with
    | some t => .next (s.serviceFault t o)
    | none =>
      match m.rdy o s with
      | some k => .next ((s.passed (m.place o s)).mark (.slipped k))
      | none =>
        if s.core.env.banked then m.eff o (s.mark .issued)
        else
          s.serveWords (m.words o s) (fun s1 => m.eff o (s1.mark .issued)) fun s1 plan =>
            (s1.passed none).updSlip s.core.env.seq fun e => { e with lanes := plan, why := 0, descs := s.runDescs i o, took := [] }

/-- Presents an operation, or serves its slip entry. At issue, in order: the mode (R19 step 4), suppression (R14), the stalls of its
ports (R203), pending registers (R206), the entry's wait and checks (R19 step 5), class order and holders (R208, R210), the entry's
reasons for a slip, the banks (R126), and the effect, with the ports popped. Where a source is pending, the checks that do not read
it are made now and the others at service (R207, R368). Where the guard is pending, its ports are popped and its port traps and port
stalls raised now, as if it stood (log entry 99). A direct access that must come after a queued access of its own bundle, which waits
at its home, slips (R247, log entry 34). -/
def present (i : Instr) (s : State) (m : Meaning) : Res :=
  match s.core.env.served with
  | some o => presentSlip i s m o
  | none =>
    let o := s.opnds i
    let pend := s.pendSrcs i
    let known := !pend.contains .g && !(m.needs.any pend.contains)
    if forbiddenIn s.core.th.mode i then .next (s.trapNow (privTrap s i))
    else if !pend.contains .g && suppressedBy i o.g then .next (s.mark .suppressed)
    else
      match s.portTrap i with
      | some t => .next (s.trapNow t)
      | none =>
        if s.portStall i then .next (s.mark .stalled)
        else if (shape i).ctl && (pend ≠ [] || s.pendDest i) then .next (s.mark .stalled)
        else if !known then
          match if pend.contains .g then none else m.pre pend o s with
          | some t => .next (s.trapNow t)
          | none => .next (s.slip i o 2 pend false [] none)
        else
          match m.wait o s with
          | some s1 => .next (s1.mark .stalled)
          | none =>
            match orTrap (m.checks false o s) (s.pushHold i o) with
            | some t => .next (s.trapNow t)
            | none =>
              let slip := fun k => s.slip i o k pend true [] (m.place o s)
              if pend ≠ [] then .next (slip 2)
              else if s.pendDest i then .next (slip 3)
              else if s.olderHeld i then .next (slip 7)
              else if !s.core.th.holdersFree i then .next (if (shape i).ctl then s.mark .stalled else slip 4)
              else if s.core.env.after then .next (slip 0)
              else
                match m.rdy o s with
                | some k => .next (slip k)
                | none =>
                  s.serveWords (m.words o s) (fun s1 => m.eff o ((s1.pop i).mark .issued)) fun s1 plan =>
                    s1.slip i o 0 [] true plan (m.place o s)

end Sys2Proof.Machine
end

