-- ==== Sys2Proof/Machine/Scalar.lean ====
section
/-! DEFINITION. The scalar operations of XA, XI and XL (R72 to R79): one definition per operation over the shared ALU
operations, which present the operation and put its result in flight with its latency. -/

namespace Sys2Proof.Machine

/-- An operation whose one effect is a scalar result after `lat` cycles (R75, R78, R79). -/
def alu (i : Instr) (d lat : Nat) (f : Opnds → Word) (s : State) : Res :=
  present i s { eff := fun o s => .next (s.putX lat d (f o)) }

/-- 1 for true, as a word. -/
def wBool (b : Bool) : Word := if b then 1 else 0

/-- Rotate right (R75). -/
def rotrW (a : Word) (n : Nat) : Word := a >>> (n % 32) ||| a <<< ((32 - n % 32) % 32)

/-- Signed and unsigned smaller and larger (R75). -/
def sminW (a b : Word) : Word := if a.toInt ≤ b.toInt then a else b
def smaxW (a b : Word) : Word := if b.toInt ≤ a.toInt then a else b
def uminW (a b : Word) : Word := if a.toNat ≤ b.toNat then a else b
def umaxW (a b : Word) : Word := if b.toNat ≤ a.toNat then a else b

/-- High halves of the 64-bit products (R75). -/
def mulhW (a b : Word) : Word := wInt (a.toInt * b.toInt / 2 ^ 32)
def mulhuW (a b : Word) : Word := w32 (a.toNat * b.toNat / 2 ^ 32)

/-- The divisions (R76): total, truncating toward zero; −2^31 ÷ −1 wraps to −2^31. -/
def divW (a b : Word) : Word := if b = 0 then 0xFFFFFFFF else wInt (a.toInt.tdiv b.toInt)
def divuW (a b : Word) : Word := if b = 0 then 0xFFFFFFFF else w32 (a.toNat / b.toNat)
def remW (a b : Word) : Word := if b = 0 then a else wInt (a.toInt - a.toInt.tdiv b.toInt * b.toInt)
def remuW (a b : Word) : Word := if b = 0 then a else w32 (a.toNat - a.toNat / b.toNat * b.toNat)

/-- Leading zeros of the low `n` bits (R75). -/
def clzW (a : Word) : Nat → Nat
  | 0 => 0
  | n + 1 => if a.getLsbD n then 0 else clzW a n + 1

/-- Trailing zeros from bit `i` on, over `n` bits (R75, R101). -/
def ctzFrom (f : Nat → Bool) (i : Nat) : Nat → Nat
  | 0 => 0
  | n + 1 => if f i then 0 else ctzFrom f (i + 1) n + 1

/-- Set bits among the low `n` (R75, R101). -/
def popFrom (f : Nat → Bool) : Nat → Nat
  | 0 => 0
  | n + 1 => b2n (f n) + popFrom f n

/-- Position and effective length of `bfx` and `bfi` (R77). -/
def bfPos (b : Word) : Nat := bits b.toNat 4 0
def bfEff (b : Word) : Nat := Nat.min (bits b.toNat 13 8) (32 - bfPos b)

/-- The extracted field (R77). -/
def bfxW (a b : Word) : Word := w32 (a.toNat / 2 ^ bfPos b % 2 ^ bfEff b)

/-- The inserted field (R77). -/
def bfiW (d a b : Word) : Word :=
  let m : Word := w32 ((2 ^ bfEff b - 1) * 2 ^ bfPos b)
  (d &&& ~~~m) ||| ((a <<< bfPos b) &&& m)

/-- `add`: X(A) + X(B) (R75). -/
def execAdd (g d a b : Nat) (s : State) : Res := alu (.add g d a b) d 1 (fun o => o.xa + o.xb) s

/-- `sub`: X(A) − X(B) (R75). -/
def execSub (g d a b : Nat) (s : State) : Res := alu (.sub g d a b) d 1 (fun o => o.xa - o.xb) s

/-- `and`: bitwise and (R75). -/
def execAnd (g d a b : Nat) (s : State) : Res := alu (.and g d a b) d 1 (fun o => o.xa &&& o.xb) s

/-- `or`: bitwise or (R75). -/
def execOr (g d a b : Nat) (s : State) : Res := alu (.or g d a b) d 1 (fun o => o.xa ||| o.xb) s

/-- `xor`: bitwise exclusive or (R75). -/
def execXor (g d a b : Nat) (s : State) : Res := alu (.xor g d a b) d 1 (fun o => o.xa ^^^ o.xb) s

/-- `andn`: X(A) & ~X(B) (R75). -/
def execAndn (g d a b : Nat) (s : State) : Res := alu (.andn g d a b) d 1 (fun o => o.xa &&& ~~~o.xb) s

/-- `shl`: left shift by X(B)[4:0] (R75). -/
def execShl (g d a b : Nat) (s : State) : Res := alu (.shl g d a b) d 1 (fun o => o.xa <<< (o.xb.toNat % 32)) s

/-- `shr`: right shift by X(B)[4:0], zeros entering (R75). -/
def execShr (g d a b : Nat) (s : State) : Res := alu (.shr g d a b) d 1 (fun o => o.xa >>> (o.xb.toNat % 32)) s

/-- `sar`: right shift by X(B)[4:0], the sign entering (R75). -/
def execSar (g d a b : Nat) (s : State) : Res := alu (.sar g d a b) d 1 (fun o => o.xa.sshiftRight (o.xb.toNat % 32)) s

/-- `rotr`: rotation right by X(B)[4:0] (R75). -/
def execRotr (g d a b : Nat) (s : State) : Res := alu (.rotr g d a b) d 1 (fun o => rotrW o.xa o.xb.toNat) s

/-- `slt`: signed less (R75). -/
def execSlt (g d a b : Nat) (s : State) : Res := alu (.slt g d a b) d 1 (fun o => wBool (o.xa.toInt < o.xb.toInt)) s

/-- `sltu`: unsigned less (R75). -/
def execSltu (g d a b : Nat) (s : State) : Res := alu (.sltu g d a b) d 1 (fun o => wBool (o.xa.toNat < o.xb.toNat)) s

/-- `seq`: equal (R75). -/
def execSeq (g d a b : Nat) (s : State) : Res := alu (.seq g d a b) d 1 (fun o => wBool (o.xa = o.xb)) s

/-- `sne`: not equal (R75). -/
def execSne (g d a b : Nat) (s : State) : Res := alu (.sne g d a b) d 1 (fun o => wBool (o.xa ≠ o.xb)) s

/-- `min`: signed smaller (R75). -/
def execMin (g d a b : Nat) (s : State) : Res := alu (.min g d a b) d 1 (fun o => sminW o.xa o.xb) s

/-- `max`: signed larger (R75). -/
def execMax (g d a b : Nat) (s : State) : Res := alu (.max g d a b) d 1 (fun o => smaxW o.xa o.xb) s

/-- `minu`: unsigned smaller (R75). -/
def execMinu (g d a b : Nat) (s : State) : Res := alu (.minu g d a b) d 1 (fun o => uminW o.xa o.xb) s

/-- `maxu`: unsigned larger (R75). -/
def execMaxu (g d a b : Nat) (s : State) : Res := alu (.maxu g d a b) d 1 (fun o => umaxW o.xa o.xb) s

/-- `mul`: low half of the product (R75). -/
def execMul (g d a b : Nat) (s : State) : Res := alu (.mul g d a b) d 3 (fun o => o.xa * o.xb) s

/-- `mulh`: high half of the signed product (R75). -/
def execMulh (g d a b : Nat) (s : State) : Res := alu (.mulh g d a b) d 3 (fun o => mulhW o.xa o.xb) s

/-- `mulhu`: high half of the unsigned product (R75). -/
def execMulhu (g d a b : Nat) (s : State) : Res := alu (.mulhu g d a b) d 3 (fun o => mulhuW o.xa o.xb) s

/-- `div`: signed quotient (R76) (R75). -/
def execDiv (g d a b : Nat) (s : State) : Res := alu (.div g d a b) d 12 (fun o => divW o.xa o.xb) s

/-- `divu`: unsigned quotient (R76) (R75). -/
def execDivu (g d a b : Nat) (s : State) : Res := alu (.divu g d a b) d 12 (fun o => divuW o.xa o.xb) s

/-- `rem`: signed remainder (R76) (R75). -/
def execRem (g d a b : Nat) (s : State) : Res := alu (.rem g d a b) d 12 (fun o => remW o.xa o.xb) s

/-- `remu`: unsigned remainder (R76) (R75). -/
def execRemu (g d a b : Nat) (s : State) : Res := alu (.remu g d a b) d 12 (fun o => remuW o.xa o.xb) s

/-- `clz`: leading zeros (R75). -/
def execClz (g d a : Nat) (s : State) : Res := alu (.clz g d a) d 1 (fun o => w32 (clzW o.xa 32)) s

/-- `ctz`: trailing zeros (R75). -/
def execCtz (g d a : Nat) (s : State) : Res := alu (.ctz g d a) d 1 (fun o => w32 (ctzFrom o.xa.getLsbD 0 32)) s

/-- `popc`: set bits (R75). -/
def execPopc (g d a : Nat) (s : State) : Res := alu (.popc g d a) d 1 (fun o => w32 (popFrom o.xa.getLsbD 32)) s

/-- `sel`: lane 0 of the guard selects (R15, R75). -/
def execSel (g d a b : Nat) (s : State) : Res := alu (.sel g d a b) d 1 (fun o => if o.g.getLsbD 0 then o.xa else o.xb) s

/-- `bfx`: extracted field (R77). -/
def execBfx (g d a b : Nat) (s : State) : Res := alu (.bfx g d a b) d 1 (fun o => bfxW o.xa o.xb) s

/-- `bfi`: inserted field (R77). -/
def execBfi (g d a b : Nat) (s : State) : Res := alu (.bfi g d a b) d 1 (fun o => bfiW o.xd o.xa o.xb) s

/-- `addi` (R78). -/
def execAddi (g d a : Nat) (k : Int) (s : State) : Res := alu (.addi g d a k) d 1 (fun o => o.xa + wInt k) s

/-- `andi` (R78). -/
def execAndi (g d a : Nat) (k : Int) (s : State) : Res := alu (.andi g d a k) d 1 (fun o => o.xa &&& wInt k) s

/-- `ori` (R78). -/
def execOri (g d a : Nat) (k : Int) (s : State) : Res := alu (.ori g d a k) d 1 (fun o => o.xa ||| wInt k) s

/-- `xori` (R78). -/
def execXori (g d a : Nat) (k : Int) (s : State) : Res := alu (.xori g d a k) d 1 (fun o => o.xa ^^^ wInt k) s

/-- `shli` (R78). -/
def execShli (g d a : Nat) (k : Int) (s : State) : Res := alu (.shli g d a k) d 1 (fun o => o.xa <<< (k.toNat % 32)) s

/-- `shri` (R78). -/
def execShri (g d a : Nat) (k : Int) (s : State) : Res := alu (.shri g d a k) d 1 (fun o => o.xa >>> (k.toNat % 32)) s

/-- `sari` (R78). -/
def execSari (g d a : Nat) (k : Int) (s : State) : Res := alu (.sari g d a k) d 1 (fun o => o.xa.sshiftRight (k.toNat % 32)) s

/-- `slti` (R78). -/
def execSlti (g d a : Nat) (k : Int) (s : State) : Res := alu (.slti g d a k) d 1 (fun o => wBool (o.xa.toInt < k)) s

/-- `sltui` (R78). -/
def execSltui (g d a : Nat) (k : Int) (s : State) : Res := alu (.sltui g d a k) d 1 (fun o => wBool (o.xa.toNat < (wInt k).toNat)) s

/-- `seqi` (R78). -/
def execSeqi (g d a : Nat) (k : Int) (s : State) : Res := alu (.seqi g d a k) d 1 (fun o => wBool (o.xa = wInt k)) s

/-- `mini` (R78). -/
def execMini (g d a : Nat) (k : Int) (s : State) : Res := alu (.mini g d a k) d 1 (fun o => sminW o.xa (wInt k)) s

/-- `maxi` (R78). -/
def execMaxi (g d a : Nat) (k : Int) (s : State) : Res := alu (.maxi g d a k) d 1 (fun o => smaxW o.xa (wInt k)) s

/-- `muli` (R78). -/
def execMuli (g d a : Nat) (k : Int) (s : State) : Res := alu (.muli g d a k) d 3 (fun o => o.xa * wInt k) s

/-- `li`: X(D) := SEXT(IMM) (R79). -/
def execLi (g d : Nat) (k : Int) (s : State) : Res := alu (.li g d k) d 1 (fun _ => wInt k) s

/-- `lhi`: IMM16 over the low half of X(D) as read at issue (R79). -/
def execLhi (g d i : Nat) (s : State) : Res :=
  alu (.lhi g d i) d 1 (fun o => w32 (i % 65536 * 65536 + o.xd.toNat % 65536)) s

/-- `lpc`: PC + SEXT(IMM) × 16 (R17, R79). -/
def execLpc (g d : Nat) (k : Int) (s : State) : Res :=
  alu (.lpc g d k) d 1 (fun _ => s.core.env.pc + wInt (k * 16)) s

/-- The NOP has no effect (R12). -/
def execNop (s : State) : Res := .next (s.mark .issued)

end Sys2Proof.Machine
end

