-- ==== Sys2Proof/Machine/Vector.lean ====
section
/-! DEFINITION. The vector operations on registers, majors VA and VB (R103 to R122): one definition per operation over
shared lanewise operations, which present the operation and put its lanes in flight with its latency and flags. -/

namespace Sys2Proof.Machine

/-- A lanewise operation: the guard masks lanes and flags (R106). -/
def vecOp (i : Instr) (d lat : Nat) (f : Opnds → Nat → Word × Flags) (s : State) : Res :=
  present i s
    { eff := fun o s =>
        let l := lanesOf (f o)
        .next (s.putV lat d (vecOf l) (laneMask o.g) (laneFlags o.g l)) }

/-- One FP32 source. -/
def vec1 (i : Instr) (d lat : Nat) (f : Word → Word × Flags) (s : State) : Res :=
  vecOp i d lat (fun o k => withNF (f (lane o.va k))) s

/-- Two FP32 sources. -/
def vec2 (i : Instr) (d lat : Nat) (f : Word → Word → Word × Flags) (s : State) : Res :=
  vecOp i d lat (fun o k => withNF (f (lane o.va k) (lane o.vb k))) s

/-- The fused forms (R109): the signs of the product and of V(D). -/
def vecFma (i : Instr) (d : Nat) (negP negD : Bool) (s : State) : Res :=
  vecOp i d 5 (fun o k =>
    let a := f32 (lane o.va k)
    let z := f32 (lane o.vd k)
    withNF (fmaN (if negP then a.neg else a) (f32 (lane o.vb k)) (if negD then z.neg else z))) s

/-- Two integer sources: no flag (R115). -/
def vecI (i : Instr) (d lat : Nat) (f : Word → Word → Word) (s : State) : Res :=
  vecOp i d lat (fun o k => (f (lane o.va k) (lane o.vb k), 0)) s

/-- A compare: one bit per lane, merged under the guard (R106, R112). -/
def vecCmp (i : Instr) (d : Nat) (f : Word → Word → Bool × Flags) (s : State) : Res :=
  present i s
    { eff := fun o s =>
        let l := (List.range 64).map fun k => let r := f (lane o.va k) (lane o.vb k); (wBool r.1, r.2)
        .next (s.putP 2 d (ofPred fun k => (lget (0, 0) l k).1 = 1) o.g (laneFlags o.g l)) }

/-- A reduction (R46, R114): the active lanes enter the tree, the others as the identity; lane 0 takes the result. -/
def vecRed (i : Instr) (d lat : Nat) (ident : Word) (nf : Bool) (f : Word → Word → Word × Flags) (s : State) : Res :=
  present i s
    { eff := fun o s =>
        let r := tree f 6 (lanesOf fun k => (if o.g.getLsbD k then lane o.va k else ident, 0))
        let l := r :: List.replicate 63 ((0, 0) : Word × Flags)
        let flg := if o.g = 0 then 0 else r.2 ||| (if nf && o.g.getLsbD 0 then nfOf r.1 else 0)
        .next (s.putV lat d (vecOf l) (laneMask o.g) flg) }

/-- Places 64 elements of `w` bits in part `q` (R120), and the mask of those that the guard keeps. -/
def packed (w q : Nat) (l : List Nat) : VReg :=
  BitVec.ofNat 2048 ((l.foldr (fun e n => e + 2 ^ w * n) 0) * 2 ^ (64 * w * q))

/-- A packing (R119, R120). -/
def vecPack (i : Instr) (d w q k fmt : Nat) (s : State) : Res :=
  present i s
    { eff := fun o s =>
        let sc := s.packScale k
        let l := (List.range 64).map fun j => scaledEncode fmt (lane o.va j) sc
        let m := (List.range 64).map fun j => if o.g.getLsbD j then 2 ^ w - 1 else 0
        let fl := l.map fun e => ((0 : Word), e.2)
        .next (s.putV 3 d (packed w q (l.map (·.1))) (packed w q m) (laneFlags o.g fl)) }

/-- Element `j` of part `q` of a register (R120). -/
def partElem (v : VReg) (w q j : Nat) : Nat := v.toNat / 2 ^ (64 * w * q + w * j) % 2 ^ w

/-- An unpacking (R121). -/
def vecUnpk (i : Instr) (d w q fmt : Nat) (s : State) : Res :=
  vecOp i d 3 (fun o j => let r := (rne32 (elemVal fmt (partElem o.va w q j))).1; (r, nfOf r)) s

/-- `vadd.f`: a + b (R108). -/
def execVaddF (g d a b : Nat) (s : State) : Res := vec2 (.vaddF g d a b) d 4 addF s

/-- `vsub.f`: a − b (R108). -/
def execVsubF (g d a b : Nat) (s : State) : Res := vec2 (.vsubF g d a b) d 4 subF s

/-- `vmul.f`: a × b (R108). -/
def execVmulF (g d a b : Nat) (s : State) : Res := vec2 (.vmulF g d a b) d 5 mulF s

/-- `vdiv.f`: a ÷ b (R108, R110). -/
def execVdivF (g d a b : Nat) (s : State) : Res := vec2 (.vdivF g d a b) d 16 divF s

/-- `vmin.f` (R41, R111). -/
def execVminF (g d a b : Nat) (s : State) : Res := vec2 (.vminF g d a b) d 2 (minmaxF false) s

/-- `vmax.f` (R41, R111). -/
def execVmaxF (g d a b : Nat) (s : State) : Res := vec2 (.vmaxF g d a b) d 2 (minmaxF true) s

/-- `vfma.f`: a × b + d (R108, R109). -/
def execVfmaF (g d a b : Nat) (s : State) : Res := vecFma (.vfmaF g d a b) d false false s

/-- `vfms.f`: a × b − d (R108, R109). -/
def execVfmsF (g d a b : Nat) (s : State) : Res := vecFma (.vfmsF g d a b) d false true s

/-- `vfnma.f`: −(a × b) + d (R108, R109). -/
def execVfnmaF (g d a b : Nat) (s : State) : Res := vecFma (.vfnmaF g d a b) d true false s

/-- `vsqrt.f` (R108, R110). -/
def execVsqrtF (g d a : Nat) (s : State) : Res := vec1 (.vsqrtF g d a) d 16 sqrtF s

/-- `vrsqrt.f` (R108, R110). -/
def execVrsqrtF (g d a : Nat) (s : State) : Res := vec1 (.vrsqrtF g d a) d 8 rsqrtF s

/-- `vrcp.f` (R108, R110). -/
def execVrcpF (g d a : Nat) (s : State) : Res := vec1 (.vrcpF g d a) d 8 rcpF s

/-- `vexp2.f` (R108, R110). -/
def execVexp2F (g d a : Nat) (s : State) : Res := vec1 (.vexp2F g d a) d 8 exp2F s

/-- `vlog2.f` (R108, R110). -/
def execVlog2F (g d a : Nat) (s : State) : Res := vec1 (.vlog2F g d a) d 8 log2F s

/-- Bit 31 cleared, or inverted; a NaN becomes the canonical one (R111). -/
def signF (invert : Bool) (a : Word) : Word × Flags :=
  let x := f32 a
  if x.isNan then (qnan, flagIf x.isSig fNV) else (if invert then a ^^^ 0x80000000 else a &&& 0x7FFFFFFF, 0)

/-- `vabs.f`: bit 31 cleared (R111). -/
def execVabsF (g d a : Nat) (s : State) : Res := vec1 (.vabsF g d a) d 2 (signF false) s

/-- `vneg.f`: bit 31 inverted (R111). -/
def execVnegF (g d a : Nat) (s : State) : Res := vec1 (.vnegF g d a) d 2 (signF true) s

/-- `vround.f` (R111). -/
def execVroundF (g d a : Nat) (s : State) : Res := vec1 (.vroundF g d a) d 2 (integralF false) s

/-- `vtrunc.f` (R111). -/
def execVtruncF (g d a : Nat) (s : State) : Res := vec1 (.vtruncF g d a) d 2 (integralF true) s

/-- `vfeq`: a = b (R112). -/
def execVfeq (g d a b : Nat) (s : State) : Res := vecCmp (.vfeq g d a b) d (compareF 0) s

/-- `vfne`: a ≠ b, or either is a NaN (R112). -/
def execVfne (g d a b : Nat) (s : State) : Res := vecCmp (.vfne g d a b) d (compareF 1) s

/-- `vflt`: a < b (R112). -/
def execVflt (g d a b : Nat) (s : State) : Res := vecCmp (.vflt g d a b) d (compareF 2) s

/-- `vfle`: a ≤ b (R112). -/
def execVfle (g d a b : Nat) (s : State) : Res := vecCmp (.vfle g d a b) d (compareF 3) s

/-- `vfun`: either is a NaN (R112). -/
def execVfun (g d a b : Nat) (s : State) : Res := vecCmp (.vfun g d a b) d (compareF 4) s

/-- `vsel`: the guard selects between V(A) and V(B); every lane is written (R113). -/
def execVsel (g d a b : Nat) (s : State) : Res :=
  present (.vsel g d a b) s
    { eff := fun o s => .next (s.putV 1 d ((o.va &&& laneMask o.g) ||| (o.vb &&& ~~~(laneMask o.g))) (-1) 0) }

/-- `vsum.f` (R46, R114). -/
def execVsumF (g d a : Nat) (s : State) : Res := vecRed (.vsumF g d a) d 7 0x80000000 true addF s

/-- `vmaxr.f` (R46, R114). -/
def execVmaxrF (g d a : Nat) (s : State) : Res := vecRed (.vmaxrF g d a) d 7 0xFF800000 true (minmaxF true) s

/-- `vminr.f` (R46, R114). -/
def execVminrF (g d a : Nat) (s : State) : Res := vecRed (.vminrF g d a) d 7 0x7F800000 true (minmaxF false) s

/-- `vsum.i` (R46, R116). -/
def execVsumI (g d a : Nat) (s : State) : Res := vecRed (.vsumI g d a) d 5 0 false (fun x y => (x + y, 0)) s

/-- `vadd.i` (R115). -/
def execVaddI (g d a b : Nat) (s : State) : Res := vecI (.vaddI g d a b) d 2 (· + ·) s

/-- `vsub.i` (R115). -/
def execVsubI (g d a b : Nat) (s : State) : Res := vecI (.vsubI g d a b) d 2 (· - ·) s

/-- `vmul.i` (R115). -/
def execVmulI (g d a b : Nat) (s : State) : Res := vecI (.vmulI g d a b) d 4 (· * ·) s

/-- `vmulh.i` (R115). -/
def execVmulhI (g d a b : Nat) (s : State) : Res := vecI (.vmulhI g d a b) d 4 mulhW s

/-- `vand` (R115). -/
def execVand (g d a b : Nat) (s : State) : Res := vecI (.vand g d a b) d 2 (· &&& ·) s

/-- `vor` (R115). -/
def execVor (g d a b : Nat) (s : State) : Res := vecI (.vor g d a b) d 2 (· ||| ·) s

/-- `vxor` (R115). -/
def execVxor (g d a b : Nat) (s : State) : Res := vecI (.vxor g d a b) d 2 (· ^^^ ·) s

/-- `vshl` (R115). -/
def execVshl (g d a b : Nat) (s : State) : Res := vecI (.vshl g d a b) d 2 (fun x y => x <<< (y.toNat % 32)) s

/-- `vshr` (R115). -/
def execVshr (g d a b : Nat) (s : State) : Res := vecI (.vshr g d a b) d 2 (fun x y => x >>> (y.toNat % 32)) s

/-- `vsar` (R115). -/
def execVsar (g d a b : Nat) (s : State) : Res := vecI (.vsar g d a b) d 2 (fun x y => x.sshiftRight (y.toNat % 32)) s

/-- `vmin.i` (R115). -/
def execVminI (g d a b : Nat) (s : State) : Res := vecI (.vminI g d a b) d 2 sminW s

/-- `vmax.i` (R115). -/
def execVmaxI (g d a b : Nat) (s : State) : Res := vecI (.vmaxI g d a b) d 2 smaxW s

/-- `vminu.i` (R115). -/
def execVminuI (g d a b : Nat) (s : State) : Res := vecI (.vminuI g d a b) d 2 uminW s

/-- `vmaxu.i` (R115). -/
def execVmaxuI (g d a b : Nat) (s : State) : Res := vecI (.vmaxuI g d a b) d 2 umaxW s

/-- `vieq`: a = b (R116). -/
def execVieq (g d a b : Nat) (s : State) : Res := vecCmp (.vieq g d a b) d (fun x y => (x == y, 0)) s

/-- `vilt`: a < b, signed (R116). -/
def execVilt (g d a b : Nat) (s : State) : Res := vecCmp (.vilt g d a b) d (fun x y => (x.toInt < y.toInt, 0)) s

/-- `viltu`: a < b, unsigned (R116). -/
def execViltu (g d a b : Nat) (s : State) : Res := vecCmp (.viltu g d a b) d (fun x y => (x.toNat < y.toNat, 0)) s

/-- `vbcast` (R117). -/
def execVbcast (g d a : Nat) (s : State) : Res := vecOp (.vbcast g d a) d 2 (fun o _ => (o.xa, 0)) s

/-- `vgetl`: a lane to a scalar, where the guard bit of that lane is set (R117). -/
def execVgetl (g d a b : Nat) (s : State) : Res :=
  present (.vgetl g d a b) s
    { eff := fun o s =>
        let k := o.xb.toNat % 64
        .next (if o.g.getLsbD k then s.putX 3 d (lane o.va k) else s) }

/-- `vsetl`: one lane from a scalar, where its guard bit is set (R117). -/
def execVsetl (g d a b : Nat) (s : State) : Res :=
  present (.vsetl g d a b) s
    { eff := fun o s =>
        let k := o.xb.toNat % 64
        .next (s.putV 3 d (ofLanes fun _ => o.xa) (ofLanes fun j => if j = k && o.g.getLsbD k then 0xFFFFFFFF else 0) 0) }

/-- `vperm` (R117). -/
def execVperm (g d a b : Nat) (s : State) : Res :=
  vecOp (.vperm g d a b) d 3 (fun o k => (lane o.va ((lane o.vb k).toNat % 64), 0)) s

/-- `vrot` (R117). -/
def execVrot (g d a b : Nat) (s : State) : Res :=
  vecOp (.vrot g d a b) d 3 (fun o k => (lane o.va ((k + o.xb.toNat % 64) % 64), 0)) s

/-- `vid` (R117). -/
def execVid (g d : Nat) (s : State) : Res := vecOp (.vid g d) d 2 (fun _ k => (w32 k, 0)) s

/-- FP32 to INT32 (R49, R118). -/
def toI32 (trunc : Bool) (a : Word) : Word × Flags := let r := toInt 32 trunc (f32 a); (w32 r.1, r.2)

/-- `vcvt.fi` (R118). -/
def execVcvtFi (g d a : Nat) (s : State) : Res := vecOp (.vcvtFi g d a) d 3 (fun o k => toI32 false (lane o.va k)) s

/-- `vtrunc.i` (R118). -/
def execVtruncI (g d a : Nat) (s : State) : Res := vecOp (.vtruncI g d a) d 3 (fun o k => toI32 true (lane o.va k)) s

/-- `vcvt.if` (R118). -/
def execVcvtIf (g d a : Nat) (s : State) : Res :=
  vecOp (.vcvtIf g d a) d 3 (fun o k => rne32 (ofInt (lane o.va k).toInt)) s

/-- `vpack.bf` (R119, R120). -/
def execVpackBf (g d a q k : Nat) (s : State) : Res := vecPack (.vpackBf g d a q k) d 16 q k 3 s

/-- `vpack.h` (R119, R120). -/
def execVpackH (g d a q k : Nat) (s : State) : Res := vecPack (.vpackH g d a q k) d 16 q k 4 s

/-- `vpack.d8` (R119, R120). -/
def execVpackD8 (g d a q k : Nat) (s : State) : Res := vecPack (.vpackD8 g d a q k) d 8 q k 1 s

/-- `vpack.i8` (R119, R120). -/
def execVpackI8 (g d a q k : Nat) (s : State) : Res := vecPack (.vpackI8 g d a q k) d 8 q k 2 s

/-- `vunpk.bf` (R121). -/
def execVunpkBf (g d a q : Nat) (s : State) : Res := vecUnpk (.vunpkBf g d a q) d 16 q 3 s

/-- `vunpk.h` (R121). -/
def execVunpkH (g d a q : Nat) (s : State) : Res := vecUnpk (.vunpkH g d a q) d 16 q 4 s

/-- `vunpk.d8` (R121). -/
def execVunpkD8 (g d a q : Nat) (s : State) : Res := vecUnpk (.vunpkD8 g d a q) d 8 q 1 s

/-- `vunpk.i8` (R121). -/
def execVunpkI8 (g d a q : Nat) (s : State) : Res := vecUnpk (.vunpkI8 g d a q) d 8 q 2 s

end Sys2Proof.Machine
end

