-- ==== Sys2Proof/Machine/Spad.lean ====
section
/-! DEFINITION. Scratchpad accesses, major XM and the direct accesses of VM (R125 to R130, R141 to R146), and the sparse
helpers and short dot products (R147 to R149). -/

namespace Sys2Proof.Machine

/-! ### Checks and first touch -/

/-- The first trap of a list of checks. -/
def firstTrap {α : Type} (f : α → Option Trap) : List α → Option Trap
  | [] => none
  | x :: l => match f x with | some t => some t | none => firstTrap f l

/-! ### Scalar accesses (R128) -/

/-- The address of an XM operation (R128). -/
def xmAddr (size : Nat) (k : Int) (o : Opnds) : Word := o.xa + wInt (k * size)

/-- The parts of a scalar access that its kinds share: exchange, checks, bank (R125, R126, R348). -/
def xmMeaning (size : Nat) (k : Int) (load : Bool) (rdy : Nat → State → Option Nat)
    (eff : Nat → Opnds → State → State) : Meaning :=
  { needs := [.a]
    wait := fun o s =>
      let a := xmAddr size k o
      match s.dirTrap a size with
      | some _ => none
      | none => s.touchWait (spadRegion a.toNat)
    chk := fun o s => s.dirTrap (xmAddr size k o) size
    late := fun o s => if load then s.poisonTrap (xmAddr size k o) else none
    rdy := fun o s => rdy (xmAddr size k o).toNat s
    words := fun o _ => [(0, (xmAddr size k o).toNat)]
    eff := fun o s =>
      let a := (xmAddr size k o).toNat
      .next (eff a o (s.touched (spadRegion a))) }

/-- Never waits. -/
def noWait (_ : Nat) (_ : State) : Option Nat := none

/-- A plain load: `ext` extends the bytes read (R128). -/
def xmLoad (i : Instr) (size d : Nat) (k : Int) (ext : Nat → Word) (s : State) : Res :=
  present i s (xmMeaning size k true noWait fun a _ s => let r := s.dirLoad a size; r.2.putX 3 d (ext r.1))

/-- A plain store (R127, R128). -/
def xmStore (i : Instr) (size : Nat) (k : Int) (s : State) : Res :=
  present i s (xmMeaning size k false noWait fun a o s => s.dirStore a o.xd.toNat size)

/-- `ld.w`: X(D) := MEM32 (R128). -/
def execLdW (g d a : Nat) (k : Int) (s : State) : Res := xmLoad (.ldW g d a k) 4 d k w32 s

/-- `ld.h`: X(D) := MEM16, sign-extended (R128). -/
def execLdH (g d a : Nat) (k : Int) (s : State) : Res := xmLoad (.ldH g d a k) 2 d k (fun v => wInt (sextNat v 16)) s

/-- `ld.hu`: X(D) := MEM16 (R128). -/
def execLdHu (g d a : Nat) (k : Int) (s : State) : Res := xmLoad (.ldHu g d a k) 2 d k w32 s

/-- `ld.b`: X(D) := MEM8, sign-extended (R128). -/
def execLdB (g d a : Nat) (k : Int) (s : State) : Res := xmLoad (.ldB g d a k) 1 d k (fun v => wInt (sextNat v 8)) s

/-- `ld.bu`: X(D) := MEM8 (R128). -/
def execLdBu (g d a : Nat) (k : Int) (s : State) : Res := xmLoad (.ldBu g d a k) 1 d k w32 s

/-- `st.w` (R128). -/
def execStW (g d a : Nat) (k : Int) (s : State) : Res := xmStore (.stW g d a k) 4 k s

/-- `st.h` (R128). -/
def execStH (g d a : Nat) (k : Int) (s : State) : Res := xmStore (.stH g d a k) 2 k s

/-- `st.b` (R128). -/
def execStB (g d a : Nat) (k : Int) (s : State) : Res := xmStore (.stB g d a k) 1 k s

/-- Waits until a word is full, or empty (R129). -/
def untilFull (want : Bool) (a : Nat) (s : State) : Option Nat :=
  if (if want then s.fullNow a else !s.core.spad.full a) then none else some 1

/-- `ldf`: waits until full; the bit stays (R128, R129). -/
def execLdf (g d a : Nat) (k : Int) (s : State) : Res :=
  present (.ldf g d a k) s
    (xmMeaning 4 k true (untilFull true) fun a _ s => let r := s.fullLoad a; r.2.putX 3 d r.1)

/-- `ldfe`: waits until full, reads, and empties (R128, R129). -/
def execLdfe (g d a : Nat) (k : Int) (s : State) : Res :=
  present (.ldfe g d a k) s
    (xmMeaning 4 k true (untilFull true) fun a _ s =>
      let r := s.fullLoad a
      ((r.2.setFull a false).dirWriteStamp a).putX 3 d r.1)

/-- `stef`: waits until empty, writes, and fills (R128, R129). -/
def execStef (g d a : Nat) (k : Int) (s : State) : Res :=
  present (.stef g d a k) s
    (xmMeaning 4 k false (untilFull false) fun a o s => (s.dirStore a o.xd.toNat 4).setFull a true)

/-- `stf`: writes and fills without waiting (R128). -/
def execStf (g d a : Nat) (k : Int) (s : State) : Res :=
  present (.stf g d a k) s
    (xmMeaning 4 k false noWait fun a o s => (s.dirStore a o.xd.toNat 4).setFull a true)

/-- `clrf`: empties; the data is unchanged (R128). -/
def execClrf (g a : Nat) (k : Int) (s : State) : Res :=
  present (.clrf g a k) s (xmMeaning 4 k false noWait fun a _ s => (s.setFull a false).dirWriteStamp a)

/-! ### Vector accesses (R142, R143) -/

/-- Whether the accesses of an operation are contiguous, from a multiple of 256. -/
def contiguous : Instr → Bool
  | .vld .. | .vst .. | .vldf .. | .vstf .. => true
  | _ => false

/-- The checks of one lane (R125, R142). -/
def State.laneTrap (s : State) (i : Instr) (o : Opnds) (l : Nat) : Option Trap :=
  let a := laneAddr i o l
  let bad := if contiguous i then (a + 2 ^ 32 - 4 * l) % 256 ≠ 0 else a % 4 ≠ 0
  if bad then some (mkTrap 7 0 (w32 a))
  else if spadEnd ≤ a then some (mkTrap 6 1 (w32 a))
  else s.spadBudget a (a + 3)

/-- The parts of a vector access that its kinds share. -/
def vmMeaning (i : Instr) (load : Bool) (rdy : Opnds → State → Option Nat) (eff : Opnds → State → State) : Meaning :=
  { needs := [.a, .b]
    wait := fun o s =>
      match firstTrap (s.laneTrap i o) (activeLanes o.g) with
      | some _ => none
      | none => s.touchAll (laneRegions i o)
    chk := fun o s => firstTrap (s.laneTrap i o) (activeLanes o.g)
    late := fun o s => if load then firstTrap (fun l => s.poisonTrap (w32 (laneAddr i o l))) (activeLanes o.g) else none
    rdy := rdy
    words := fun o _ => (activeLanes o.g).map fun l => (l, laneAddr i o l)
    eff := fun o s => .next (eff o (s.touchedAll (laneRegions i o))) }

/-- A load of the active lanes (R142). -/
def vmLoad (i : Instr) (v lat : Nat) (s : State) : Res :=
  present i s (vmMeaning i true (fun _ _ => none) fun o s =>
    let r := s.serveLanes i o 0 (activeLanes o.g)
    r.2.putV lat v r.1 (laneMask o.g) 0)

/-- A store of the active lanes, in lane order; a contiguous store of all 16 words of a block clears its poison (R142,
R361). -/
def vmStore (i : Instr) (s : State) : Res :=
  present i s (vmMeaning i false (fun _ _ => none) fun o s =>
    (s.serveLanes i o 0 (activeLanes o.g)).2.cleanStored i o)

/-- `vld` (R142). -/
def execVld (g v a : Nat) (k : Int) (s : State) : Res := vmLoad (.vld g v a k) v 4 s

/-- `vst` (R142). -/
def execVst (g v a : Nat) (k : Int) (s : State) : Res := vmStore (.vst g v a k) s

/-- `vlds` (R142). -/
def execVlds (g v a b : Nat) (s : State) : Res := vmLoad (.vlds g v a b) v 4 s

/-- `vsts` (R142). -/
def execVsts (g v a b : Nat) (s : State) : Res := vmStore (.vsts g v a b) s

/-- `vldx` (R142). -/
def execVldx (g v a b : Nat) (s : State) : Res := vmLoad (.vldx g v a b) v 6 s

/-- `vstx` (R142). -/
def execVstx (g v a b : Nat) (s : State) : Res := vmStore (.vstx g v a b) s

/-- `vldf`: waits until all words are full, loads them and empties them as one step (R143). -/
def execVldf (g v a : Nat) (k : Int) (s : State) : Res :=
  let i := Instr.vldf g v a k
  present i s (vmMeaning i true (untilAll i true) fun o s =>
    let r := s.takeLanes i o 0 (activeLanes o.g)
    r.2.putV 4 v r.1 (laneMask o.g) 0)

/-- `vstf`: waits until all words are empty, stores them and fills them as one step (R143). -/
def execVstf (g v a : Nat) (k : Int) (s : State) : Res :=
  let i := Instr.vstf g v a k
  present i s (vmMeaning i false (untilAll i false) fun o s => s.vstfPut i o)

/-! ### Described accesses (R145, R146) -/

/-- The subcause of a descriptor that is not a valid one with numbers; `dense` refuses compressed formats too (R57). -/
def descSub (dense : Bool) (d : Nat) : Option Nat :=
  if !fmtValid (d % 256) then some 1
  else if d / 4096 ≠ 0 then some 2
  else if fmtWidth (d % 256) = 0 || (dense && fmtKeep (d % 256) ≠ 0) then some 3
  else none

/-- The blocks of a run after the first. -/
def laterBlocks (r w : Nat) : List Nat := (List.range (w / 8 - 1)).map fun k => r + 64 * (k + 1)

/-- The check of a block of the run (R145). -/
def State.runTrap (s : State) (w b : Nat) : Option Trap :=
  let d := (s.seen.descAt b).toNat
  match descSub false d with
  | some c => some (mkTrap 0x10 c (w32 b))
  | none => if fmtWidth (d % 256) ≠ w then some (mkTrap 0x10 4 (w32 b)) else none

/-- The checks of `vldd` in order (R145). -/
def State.vlddTrap (s : State) (r : Word) : Option Trap :=
  if r.toNat % 64 ≠ 0 then some (mkTrap 7 0 r)
  else if spadEnd ≤ r.toNat then some (mkTrap 6 1 r)
  else
    let d := (s.seen.descAt r.toNat).toNat
    match descSub false d with
    | some c => some (mkTrap 0x10 c r)
    | none =>
      let w := fmtWidth (d % 256)
      if spadEnd < r.toNat + 8 * w then some (mkTrap 6 2 r)
      else orTrap (firstTrap (s.runTrap w) (laterBlocks r.toNat w)) (s.spadBudget r.toNat (r.toNat + 8 * w - 1))

/-- The regions of the run at an address. Its descriptors are to be checked again: `vldd` reads them with its data, so that one that slips
is checked again as its service begins, and a failure then is delivered as R368 states (log entry 106). -/
def vlddRegions (s : State) (r : Nat) : List Nat := runRegions r (8 * fmtWidth ((s.seen.descAt r).toNat % 256))

/-- `vldd` (R145). -/
def execVldd (g v a : Nat) (k : Int) (s : State) : Res :=
  present (.vldd g v a k) s
    { needs := [.a]
      wait := fun o s =>
        let r := vlddAddr k o
        if spadEnd ≤ r.toNat ∨ r.toNat % 64 ≠ 0 then none
        else
          match s.touchAll [spadRegion r.toNat] with
          | some s1 => some s1
          | none => match s.vlddTrap r with
            | some _ => none
            | none => s.touchAll (vlddRegions s r.toNat)
      late := fun o s =>
        let r := vlddAddr k o
        let w := fmtWidth ((s.seen.descAt r.toNat).toNat % 256)
        orTrap (s.vlddTrap r) (firstTrap (fun b => s.poisonTrap (w32 b)) (r.toNat :: laterBlocks r.toNat w))
      words := fun o s =>
        let r := (vlddAddr k o).toNat
        (List.range (2 * fmtWidth ((s.seen.descAt r).toNat % 256))).map fun j => (j, r + 4 * j)
      eff := fun o s =>
        let ds := s.runDescs (.vldd g v a k) o
        let q := (s.touchedAll (vlddRegions s (vlddAddr k o).toNat)).serveLanes (.vldd g v a k) o 0 (List.range (2 * runWidth ds))
        .next (q.2.served (.vldd g v a k) o q.1 ds 0) }

/-- The checks of `vstd` in order (R146). -/
def State.vstdTrap (s : State) (r : Word) (d : Nat) : Option Trap :=
  if r.toNat % 64 ≠ 0 then some (mkTrap 7 0 r)
  else if spadEnd ≤ r.toNat then some (mkTrap 6 1 r)
  else
    match descSub true d with
    | some c => some (mkTrap 0x10 c r)
    | none =>
      let w := fmtWidth (d % 256)
      if spadEnd < r.toNat + 8 * w then some (mkTrap 6 2 r) else s.spadBudget r.toNat (r.toNat + 8 * w - 1)

/-- `vstd` (R146). While X(B) alone is pending, the checks of the address are made at issue (R125). -/
def execVstd (g v a b : Nat) (s : State) : Res :=
  present (.vstd g v a b) s
    { needs := [.a, .b]
      pre := fun pend o _ =>
        if pend.contains .a then none
        else if o.xa.toNat % 64 ≠ 0 then some (mkTrap 7 0 o.xa)
        else if spadEnd ≤ o.xa.toNat then some (mkTrap 6 1 o.xa)
        else none
      wait := fun o s =>
        let d := o.xb.toNat % 65536
        match s.vstdTrap o.xa d with
        | some _ => none
        | none => s.touchAll (runRegions o.xa.toNat (8 * fmtWidth (d % 256)))
      chk := fun o s => s.vstdTrap o.xa (o.xb.toNat % 65536)
      words := fun o _ =>
        ((activeLanes o.g).map fun j => (o.xa.toNat + j * fmtWidth (o.xb.toNat % 65536 % 256) / 8) / 4 * 4).eraseDups.map fun a => (0, a)
      eff := fun o s => .next ((s.touchedAll (runRegions o.xa.toNat (8 * fmtWidth (o.xb.toNat % 65536 % 256)))).vstdPut o) }

/-! ### Sparse helpers and short dot products (R147 to R149) -/

/-- Whether lane `i` is among the `keep` largest of its group of `n`; a tie goes to the lower lane (R147). -/
def kept (v : VReg) (n keep i : Nat) : Bool :=
  let mag := fun j => (lane v j).toNat % 2 ^ 31
  (((List.range n).map fun k => i / n * n + k).countP fun j =>
    mag i < mag j || (mag i = mag j && j < i)) < keep

/-- A pruning (R147). -/
def prune (i : Instr) (v b n keep : Nat) (s : State) : Res :=
  present i s
    { eff := fun o s =>
        let ks := (List.range 64).filter fun j => kept o.va n keep j
        let m : PReg := ofPred fun j => ks.contains j
        let l := ks.map fun j => (lane o.va j, (0 : Flags))
        .next ((s.putV 4 v (vecOf (l ++ List.replicate 32 (0, 0))) (laneMask o.g) 0).putP 4 b m o.g 0) }

/-- `vprn.24` (R147). -/
def execVprn24 (g v a b : Nat) (s : State) : Res := prune (.vprn24 g v a b) v b 4 2 s

/-- `vprn.48` (R147). -/
def execVprn48 (g v a b : Nat) (s : State) : Res := prune (.vprn48 g v a b) v b 8 4 s

/-- The positions of the set bits of a keep mask, ascending (R148). -/
def keepPos (m : PReg) : List Nat := activeLanes m

/-- `vexpd` (R148). -/
def execVexpd (g v a : Nat) (s : State) : Res :=
  present (.vexpd g v a) s
    { eff := fun o s =>
        let ps := keepPos o.g
        let l := lanesOf fun i => (if o.g.getLsbD i then lane o.va (ps.idxOf i) else 0, 0)
        .next (s.putV 4 v (vecOf l) (-1) 0) }

/-- `vsdot` (R148). -/
def execVsdot (g v a b : Nat) (s : State) : Res :=
  present (.vsdot g v a b) s
    { eff := fun o s =>
        let ps := keepPos o.g
        let t := lanesOf fun j =>
          if j < ps.length then mulF (lane o.va j) (lane o.vb (lget 0 ps j)) else (0x80000000, 0)
        let r := tree addF 6 t
        let q := addF (lane o.vd 0) r.1
        .next (s.putV 8 v (vecOf (q :: List.replicate 63 (0, 0))) (-1) (r.2 ||| q.2 ||| nfOf q.1)) }

/-- `vdot4.i8` (R149). -/
def execVdot4I8 (g v a b : Nat) (s : State) : Res :=
  vecOp (.vdot4I8 g v a b) v 4 (fun o i =>
    let x := (lane o.va i).toNat
    let y := (lane o.vb i).toNat
    let t := fun j => sextNat (x / 2 ^ (8 * j)) 8 * sextNat (y / 2 ^ (8 * j)) 8
    (lane o.vd i + wInt (t 0 + t 1 + t 2 + t 3), 0)) s

/-- A sum of three exact terms, two of them products; NaN operands and invalid combinations raise NV (R149). -/
def dot2 (d a b : Word) : Word × Flags :=
  let h := fun (w : Word) k => decodeBin 8 7 (w.toNat / 2 ^ (16 * k) % 65536)
  let p := (h a 0).mul (h b 0)
  let q := (h a 1).mul (h b 1)
  let pq := p.1.add q.1
  let r := (f32 d).add pq.1
  let w := rne32 r.1
  (w.1, w.2 ||| flagIf r.1.isNan fNV)

/-- `vdot2.bf` (R149). -/
def execVdot2Bf (g v a b : Nat) (s : State) : Res :=
  vecOp (.vdot2Bf g v a b) v 5 (fun o i => withNF (dot2 (lane o.vd i) (lane o.va i) (lane o.vb i))) s

end Sys2Proof.Machine
end

