-- ==== Sys2Proof/Machine/Queue.lean ====
section
/-! DEFINITION. Queued accesses: the operations of major XQ and of the fabric, and the queued accesses of VM (R131 to
R140, R144, R193); their performance at the home, their results and their answers. -/

namespace Sys2Proof.Machine

/-! ### The issue checks -/

/-- What the checks of a queued operation need: its access size, its offset, whether it writes, whether it is a lock
operation, whether a foldable task holds its effect, and whether the offset is X(B) (R132, R135, R138). -/
structure QForm where
  size : Nat
  off : Opnds → Int := fun _ => 0
  write : Bool := false
  lock : Bool := false
  held : Bool := false
  offs : Bool := false

/-- The VA that a queued operation names (R131). -/
def qVa (f : QForm) (o : Opnds) : Nat :=
  (((o.xa.toNat + o.xa1.toNat % 65536 * 2 ^ 32 : Nat) : Int) + f.off o) % (2 ^ 48 : Int) |>.toNat

/-- A trap of a queued operation: EVAL holds VA[47:16] (R132). -/
def vaTrap (cause sub va : Nat) : Trap := { cause, sub, val := w32 (va / 65536), fva := va }

/-- The permission and hold checks of R132, once the place is known. -/
def placeTrap (f : QForm) (va : Nat) (p : Place) (s : State) : Option Trap :=
  let t := s.core.th
  if f.write && p.readOnly then some (vaTrap 9 3 va)
  else if t.task.foldable && f.lock then some (vaTrap 9 4 va)
  else if t.task.foldable && f.held && s.noHold then some (mkTrap 0x0E 4 0)
  else none

/-- The issue checks of a queued operation in the order of R132. -/
def qTrap (f : QForm) (o : Opnds) (s : State) : Option Trap :=
  let va := qVa f o
  if 65536 ≤ o.xa1.toNat then some (vaTrap 8 3 va)
  else if va % f.size ≠ 0 then some { cause := 7, sub := 0, val := w32 va, fva := va }
  else
    match s.locate va with
    | .bad k => some (vaTrap 8 k va)
    | .miss => none
    | .found p => placeTrap f va p s

/-- The place of an access whose translation was made at its issue (R132). -/
def State.keptPlace (s : State) : Option Place := (s.early .nop).place

/-- A bundle waits while the die's unit has not answered (R132). -/
def qWait (f : QForm) (o : Opnds) (s : State) : Option State :=
  let va := qVa f o
  if s.keptPlace.isSome ∨ 65536 ≤ o.xa1.toNat ∨ va % f.size ≠ 0 then none
  else
    match s.locate va with
    | .miss => some (s.updCore fun c => { c with xreq := some va })
    | _ => none

/-- The place of a checked access: as translated at its issue, where it was. -/
def State.placeOf (s : State) (va : Nat) : Place :=
  match s.keptPlace with
  | some p => p
  | none =>
    match s.locate va with
    | .found p => p
    | _ => .mem 0 0

/-! ### Issue -/

/-- The queued access of an operation as it issues. -/
def State.mkQ (s : State) (i : Instr) (va : Nat) (p : Place) (o : Opnds) : QAcc :=
  { tid := s.core.th.tid, task := s.core.th.task, id := s.core.th.qid, instr := i, va, place := p, b := o.xb, c := o.xd,
    g := o.g, v := o.vd, slot := s.core.env.slot, sword := s.core.env.sword, baddr := s.core.env.pc, xa := o.xa, xb := o.xb
    hdl := decide (s.core.th.mode = .handler) }

/-- Puts an access on its way, with the entry of lq it reserves (R134). -/
def State.sendQ (s : State) (q : QAcc) : State :=
  (s.updCore fun c => { c with qacc := c.qacc ++ [q] }).updTh fun t => { t with qid := t.qid + 1 }

def State.reserveLq (s : State) : State :=
  s.updTh fun t => { t with lqPend := t.lqPend ++ [{ id := t.qid, val := none }] }

def State.reserveVq (s : State) (n : Nat) : State :=
  s.updTh fun t => { t with vqPend := t.vqPend ++ [{ id := t.qid, val := 0, left := n }] }

/-- Whether lq, or the counter ql, has no room (R134): a place that the same bundle frees by a pop is there from the next cycle on
(R211). -/
def lqFull (_ : Opnds) (s : State) : Option Nat :=
  let t := s.core.th
  if 32 ≤ s.thBefore.lq.length + t.lqPend.length ∨ 32 ≤ t.ql then some 4 else none

def vqFull (_ : Opnds) (s : State) : Option Nat :=
  let t := s.core.th
  if 4 ≤ s.thBefore.vq.length + t.vqPend.length ∨ 32 ≤ t.ql then some 4 else none

def qsFull (_ : Opnds) (s : State) : Option Nat := if 32 ≤ s.qs then some 4 else none

/-- The sources of the address of a queued operation (R131): the pair, and X(B) where that is an offset. The operand of an atomic or a
wait is no part of it. -/
def QForm.needs (f : QForm) : List Role := if f.offs then [.a, .a1, .b] else [.a, .a1]

/-- The check of the pair that can be made while the offset is pending (R132, R207): XLATE. Its EVAL would need the offset, and is an
open value (log entry 119). -/
def QForm.pre (f : QForm) (pend : List Role) (o : Opnds) (_ : State) : Option Trap :=
  let base := o.xa.toNat + o.xa1.toNat % 65536 * 2 ^ 32
  if !f.offs || pend.contains .a || pend.contains .a1 || o.xa1.toNat < 65536 then none
  else some { cause := 8, sub := 3, val := Config.openEval base, fva := base }

/-- The shape of every queued operation that returns a word to lq. -/
def lqMeaning (i : Instr) (f : QForm) : Meaning :=
  { needs := f.needs
    pre := f.pre
    wait := qWait f
    chk := qTrap f
    place := fun o s => some (s.placeOf (qVa f o))
    rdy := lqFull
    eff := fun o s =>
      let va := qVa f o
      let p := s.placeOf va
      .next (((s.located va).reserveLq).sendQ (s.mkQ i va p o)) }

/-- The offset X(B) of loads and stores. -/
def offB (o : Opnds) : Int := o.xb.toInt

/-- `qld.w` (R135). -/
def execQldW (g a b : Nat) (s : State) : Res := present (.qldW g a b) s (lqMeaning (.qldW g a b) { size := 4, off := offB, offs := true })

/-- `qld.h` (R135). -/
def execQldH (g a b : Nat) (s : State) : Res := present (.qldH g a b) s (lqMeaning (.qldH g a b) { size := 2, off := offB, offs := true })

/-- `qld.b` (R135). -/
def execQldB (g a b : Nat) (s : State) : Res := present (.qldB g a b) s (lqMeaning (.qldB g a b) { size := 1, off := offB, offs := true })

/-- The shape of the queued stores. -/
def qsMeaning (i : Instr) (f : QForm) (data : Opnds → Word) : Meaning :=
  { needs := f.needs
    pre := f.pre
    wait := qWait f
    chk := qTrap f
    place := fun o s => some (s.placeOf (qVa f o))
    rdy := qsFull
    eff := fun o s =>
      let va := qVa f o
      let p := s.placeOf va
      .next ((s.located va).sendQ { s.mkQ i va p o with b := data o }) }

/-- `qst.w` (R135). -/
def execQstW (g d a b : Nat) (s : State) : Res :=
  present (.qstW g d a b) s (qsMeaning (.qstW g d a b) { size := 4, off := offB, offs := true, write := true } fun o => o.xd)

/-- `qst.h` (R135). -/
def execQstH (g d a b : Nat) (s : State) : Res :=
  present (.qstH g d a b) s (qsMeaning (.qstH g d a b) { size := 2, off := offB, offs := true, write := true } fun o => o.xd)

/-- `qst.b` (R135). -/
def execQstB (g d a b : Nat) (s : State) : Res :=
  present (.qstB g d a b) s (qsMeaning (.qstB g d a b) { size := 1, off := offB, offs := true, write := true } fun o => o.xd)

/-- The checks of an atomic. -/
def amoForm : QForm := { size := 4, write := true, held := true }

/-- An atomic; in a foldable task its modification is held and the issue reads the word (R138). -/
def amoMeaning (i : Instr) : Meaning :=
  { needs := amoForm.needs
    wait := qWait amoForm
    chk := qTrap amoForm
    place := fun o s => some (s.placeOf (qVa amoForm o))
    rdy := lqFull
    eff := fun o s =>
      let va := qVa amoForm o
      let p := s.placeOf va
      let s1 := (s.located va).reserveLq
      if s.core.th.task.foldable then
        .next ((s1.hold (.amo i va o.xb o.xd false s.core.env.pc)).sendQ (s.mkQ (.qldW 0 2 0) va p o))
      else .next (s1.sendQ (s.mkQ i va p o)) }

/-- `amo.add` (R136). -/
def execAmoAdd (g a b : Nat) (s : State) : Res := present (.amoAdd g a b) s (amoMeaning (.amoAdd g a b))
/-- `amo.and` (R136). -/
def execAmoAnd (g a b : Nat) (s : State) : Res := present (.amoAnd g a b) s (amoMeaning (.amoAnd g a b))
/-- `amo.or` (R136). -/
def execAmoOr (g a b : Nat) (s : State) : Res := present (.amoOr g a b) s (amoMeaning (.amoOr g a b))
/-- `amo.xor` (R136). -/
def execAmoXor (g a b : Nat) (s : State) : Res := present (.amoXor g a b) s (amoMeaning (.amoXor g a b))
/-- `amo.min` (R136). -/
def execAmoMin (g a b : Nat) (s : State) : Res := present (.amoMin g a b) s (amoMeaning (.amoMin g a b))
/-- `amo.max` (R136). -/
def execAmoMax (g a b : Nat) (s : State) : Res := present (.amoMax g a b) s (amoMeaning (.amoMax g a b))
/-- `amo.minu` (R136). -/
def execAmoMinu (g a b : Nat) (s : State) : Res := present (.amoMinu g a b) s (amoMeaning (.amoMinu g a b))
/-- `amo.maxu` (R136). -/
def execAmoMaxu (g a b : Nat) (s : State) : Res := present (.amoMaxu g a b) s (amoMeaning (.amoMaxu g a b))
/-- `amo.swap` (R136). -/
def execAmoSwap (g a b : Nat) (s : State) : Res := present (.amoSwap g a b) s (amoMeaning (.amoSwap g a b))
/-- `amo.cas` (R136). -/
def execAmoCas (g d a b : Nat) (s : State) : Res := present (.amoCas g d a b) s (amoMeaning (.amoCas g d a b))

/-- The checks of a lock operation (R132, R138). -/
def lockForm : QForm := { size := 4, write := true, lock := true }

/-- `rwl.rd` (R137). -/
def execRwlRd (g a : Nat) (s : State) : Res := present (.rwlRd g a) s (lqMeaning (.rwlRd g a) lockForm)
/-- `rwl.wr` (R137). -/
def execRwlWr (g a : Nat) (s : State) : Res := present (.rwlWr g a) s (lqMeaning (.rwlWr g a) lockForm)
/-- `rwl.ru` (R137). -/
def execRwlRu (g a : Nat) (s : State) : Res := present (.rwlRu g a) s (lqMeaning (.rwlRu g a) lockForm)
/-- `rwl.wu` (R137). -/
def execRwlWu (g a : Nat) (s : State) : Res := present (.rwlWu g a) s (lqMeaning (.rwlWu g a) lockForm)

/-- `waita` (R139). -/
def execWaita (g a b : Nat) (s : State) : Res := present (.waita g a b) s (lqMeaning (.waita g a b) { size := 4 })
/-- `waitc` (R139). -/
def execWaitc (g a b : Nat) (s : State) : Res := present (.waitc g a b) s (lqMeaning (.waitc g a b) { size := 4 })

/-- The 64-byte blocks of a vector run with an active lane. -/
def liveBlocks (g : PReg) : List Nat :=
  (List.range 4).filter fun k => (List.range 16).any fun i => g.getLsbD (16 * k + i)

/-- `vqld` (R144). -/
def execVqld (g a : Nat) (k : Int) (s : State) : Res :=
  let f : QForm := { size := 256, off := fun _ => k * 256 }
  present (.vqld g a k) s
    { needs := f.needs
      wait := qWait f
      chk := qTrap f
      place := fun o s => some (s.placeOf (qVa f o))
      rdy := vqFull
      eff := fun o s =>
        let va := qVa f o
        let bs := liveBlocks o.g
        .next (((s.located va).reserveVq bs.length).sendQ { s.mkQ (.vqld g a k) va (s.placeOf va) o with blocks := bs }) }

/-- `vqst` (R144). -/
def execVqst (g v a : Nat) (k : Int) (s : State) : Res :=
  let f : QForm := { size := 256, off := fun _ => k * 256, write := true }
  present (.vqst g v a k) s
    { needs := f.needs
      wait := qWait f
      chk := qTrap f
      place := fun o s => some (s.placeOf (qVa f o))
      rdy := qsFull
      eff := fun o s =>
        let va := qVa f o
        .next ((s.located va).sendQ { s.mkQ (.vqst g v a k) va (s.placeOf va) o with blocks := liveBlocks o.g }) }

/-! ### Fabric operations (R193) -/

/-- The rank that a pair names, and the own rank and size of the gang (R183, R335). -/
def fabRank (o : Opnds) : Nat := bits o.xa1.toNat 31 22
def fabVa (o : Opnds) : Nat := o.xa.toNat + o.xa1.toNat % 65536 * 2 ^ 32
def State.myRank (s : State) : Nat := match s.taskCtx s.core.th.task with | some d => d.rank | none => 0
def State.myGangsz (s : State) : Nat := match s.taskCtx s.core.th.task with | some d => d.gangsz | none => 1

/-- The checks of a fabric operation in the order of R193. -/
def fabTrap (f : QForm) (o : Opnds) (s : State) : Option Trap :=
  let hi := w32 (o.xa1.toNat / 65536)
  let va := fabVa o
  let addr := o.xa.toNat + o.xa1.toNat * 2 ^ 32
  if bits o.xa1.toNat 21 16 ≠ 0 then some { cause := 8, sub := 3, val := hi, fva := addr }
  else if s.myGangsz ≤ fabRank o then some { cause := 8, sub := 5, val := hi, fva := addr }
  else if o.xa.toNat % 4 ≠ 0 then some { cause := 7, sub := 0, val := o.xa, fva := va }
  else if fabRank o = s.myRank then
    match s.locate va with
    | .bad k => some (vaTrap 8 k va)
    | .miss => none
    | .found p => placeTrap f va p s
  else if s.core.th.task.foldable && f.held && s.noHold then some (mkTrap 0x0E 4 0)
  else none

/-- A fabric operation on the own rank waits for its translation (R132, R193). -/
def fabWait (o : Opnds) (s : State) : Option State :=
  if s.keptPlace.isSome ∨ bits o.xa1.toNat 21 16 ≠ 0 ∨ fabRank o ≠ s.myRank ∨ s.myGangsz ≤ fabRank o ∨ o.xa.toNat % 4 ≠ 0 then none
  else
    match s.locate (fabVa o) with
    | .miss => some (s.updCore fun c => { c with xreq := some (fabVa o) })
    | _ => none

/-- The ATOP of a fabric atomic (R305). -/
def fabAtop : Instr → Nat
  | .famoAdd .. => 1
  | .famoMax .. => 2
  | .famoOr .. => 3
  | _ => 4

/-- The operation of an ATOP. -/
def atopInstr : Nat → Instr
  | 1 => .famoAdd 0 2 0
  | 2 => .famoMax 0 2 0
  | 3 => .famoOr 0 2 0
  | _ => .famoSwap 0 2 0

/-- Sends a request to another rank and remembers what its answer is for (R304, R305). The length that a read asks for
travels in ARG (log entry 13). -/
def State.sendRem (s : State) (d : CtxDesc) (part core tid addr : Nat) (kind : RemKind) (q : QAcc) (k : Packet) : State :=
  let own := s.podId d d.rank
  let tag := s.newTag part d.gang
  let k1 : Packet := { k with drank := s.podId d (addr / 2 ^ 54), srank := own, part, addr, tag, gang := d.gang }
  let s1 := (s.exportTs part (s.ptsOf tid)).updPkg fun g =>
    { g with tagNo := g.tagNo + 1, rem := g.rem ++ [{ tag, core, tid, addr, kind, acc := q, part, slot := d.slot }] }
  s1.inject core k1 own

/-- A fabric operation (R193): on the own rank a queued operation, elsewhere a request to the rank's package, which leaves once the
queued accesses issued before it have been performed (R251). -/
def fabMeaning (i : Instr) (f : QForm) : Meaning :=
  let store := isQStore i
  { needs := [.a, .a1]
    wait := fabWait
    chk := fabTrap f
    place := fun o s => if fabRank o = s.myRank then some (s.placeOf (fabVa o)) else none
    rdy := if store then qsFull else lqFull
    eff := fun o s =>
      let va := fabVa o
      let addr := o.xa.toNat + o.xa1.toNat * 2 ^ 32
      let hold := s.core.th.task.foldable && f.held
      let remote : Bool := fabRank o ≠ s.myRank
      let i' : Instr := if hold then .fld 0 2 else i
      let s0 : State := if store then s else s.reserveLq
      let s1 : State := if hold then s0.hold (.amo i (if remote then addr else va) o.xb 0 remote s.core.env.pc) else s0
      if remote then
        let k : Packet := match i' with
          | .fld .. => { kind := 2, arg := 4 }
          | .fst .. => { kind := 1, payload := leBytes o.xb.toNat 4 }
          | _ => { kind := 4, arg := o.xb, atop := fabAtop i }
        .next (s1.sendQ { s.mkQ i' va (.mem 0 0) o with sends := some (.request addr (if store then .store else .load) k) })
      else .next ((s1.located va).sendQ (s.mkQ i' va (s.placeOf va) o)) }

/-- `fld` (R193). -/
def execFld (g a : Nat) (s : State) : Res := present (.fld g a) s (fabMeaning (.fld g a) { size := 4 })
/-- `fst` (R193). -/
def execFst (g a b : Nat) (s : State) : Res := present (.fst g a b) s (fabMeaning (.fst g a b) { size := 4, write := true })
/-- `famo.add` (R193). -/
def execFamoAdd (g a b : Nat) (s : State) : Res := present (.famoAdd g a b) s (fabMeaning (.famoAdd g a b) amoForm)
/-- `famo.max` (R193). -/
def execFamoMax (g a b : Nat) (s : State) : Res := present (.famoMax g a b) s (fabMeaning (.famoMax g a b) amoForm)
/-- `famo.or` (R193). -/
def execFamoOr (g a b : Nat) (s : State) : Res := present (.famoOr g a b) s (fabMeaning (.famoOr g a b) amoForm)
/-- `famo.swap` (R193). -/
def execFamoSwap (g a b : Nat) (s : State) : Res := present (.famoSwap g a b) s (fabMeaning (.famoSwap g a b) amoForm)

/-! ### At the home -/

/-- The value that a load of `i` returns from the word that holds its address (R135). -/
def qExt (i : Instr) (va : Nat) (w : Word) : Word :=
  let v := w.toNat / 2 ^ (8 * (va % 4))
  match i with
  | .qldH .. => wInt (sextNat v 16)
  | .qldB .. => wInt (sextNat v 8)
  | _ => w32 v

/-- The word-aligned place and VA of a byte. -/
def Place.wordAt (p : Place) : Place :=
  match p with
  | .spad c o => .spad c (o / 4 * 4)
  | .mem a t => .mem (a / 4 * 4) t

/-- Reads the active words of block `k` of a vector load (R144, R246). -/
def State.qldBlock (s : State) (core : Nat) (q : QAcc) (k : Nat) : VReg × State :=
  let asid := s.asidOf q.task
  ((List.range 16).filter fun i => q.g.getLsbD (16 * k + i)).foldl (fun r i =>
    let o := 64 * k + 4 * i
    let x := r.2.readWord (.task q.tid) core asid (q.va + o) (q.place.plus o)
    (setLane r.1 (16 * k + i) x.1, x.2)) (0, s)

/-- Writes the active words of block `k` of a vector store; a block written whole is poisoned no longer (R144, R361). -/
def State.qstBlock (s : State) (core : Nat) (q : QAcc) (k : Nat) : State :=
  let asid := s.asidOf q.task
  let lanes := (List.range 16).filter fun i => q.g.getLsbD (16 * k + i)
  let s1 := lanes.foldl (fun s i =>
    let o := 64 * k + 4 * i
    s.writeBytes (.task q.tid) core asid (q.va + o) (q.place.plus o) (lane q.v (16 * k + i)).toNat 4) s
  if lanes.length = 16 then s1.cleanBlock (q.place.plus (64 * k)) else s1

/-- Takes an access out of the queue of its core. -/
def State.dropQ (s : State) (core : Nat) (q : QAcc) : State :=
  s.updCoreN core fun c => { c with qacc := c.qacc.filter fun x => !(x.tid = q.tid && x.id = q.id) }

/-- A store that has been performed awaits its answer (R134). -/
def State.ackQ (s : State) (core : Nat) (q : QAcc) : State :=
  s.updCoreN core fun c => { c with qack := c.qack ++ [q.tid] }

/-- A block of a vector access has been performed. -/
def State.doneBlock (s : State) (core : Nat) (q : QAcc) (k : Nat) : State :=
  if q.blocks.filter (· ≠ k) = [] then s.dropQ core q
  else s.updCoreN core fun c =>
    { c with qacc := lmapIf (fun x => x.tid = q.tid && x.id = q.id) (fun (x : QAcc) => { x with blocks := x.blocks.filter (· ≠ k) }) c.qacc }

/-- Performs a queued access of a core at its home: the whole of it, or block `k` of a vector access (R133). -/
def State.performQ (s : State) (core : Nat) (q : QAcc) (k : Nat) : State :=
  let asid := s.asidOf q.task
  let who : Who := .task q.tid
  match q.instr with
  | .qldW .. | .qldH .. | .qldB .. | .fld .. =>
    let s1 := s.dropQ core q
    if s.placeBad q.place then s1.poisonedQ q
    else
      let r := s1.readWord who core asid (q.va / 4 * 4) q.place.wordAt
      r.2.answer q (qExt q.instr q.va r.1)
  | .qstW .. | .fst .. => (((s.writeBytes who core asid q.va q.place q.b.toNat 4).sink q.task.part q.task.slot).dropQ core q).ackQ core q
  | .qstH .. => (((s.writeBytes who core asid q.va q.place q.b.toNat 2).sink q.task.part q.task.slot).dropQ core q).ackQ core q
  | .qstB .. => (((s.writeBytes who core asid q.va q.place q.b.toNat 1).sink q.task.part q.task.slot).dropQ core q).ackQ core q
  | .vqld .. =>
    let s1 := s.doneBlock core q k
    let bad := s.placeBad (q.place.plus (64 * k))
    let s2 : State := if bad then s1.engineFault q.tid q.task (q.fault 0x0A (q.va + 64 * k)) else s1
    let r := if bad then (0, s2) else s2.qldBlock core q k
    r.2.updThread q.tid fun t =>
      { t with vqPend := lmapIf (·.id = q.id) (fun (x : VRes) => { x with val := x.val ||| r.1, left := x.left - 1 }) t.vqPend }
  | .vqst .. =>
    let s1 := ((s.qstBlock core q k).sink q.task.part q.task.slot).doneBlock core q k
    if q.blocks.filter (· ≠ k) = [] then s1.ackQ core q else s1
  | .rwlRd .. | .rwlWr .. | .rwlRu .. | .rwlWu .. | .waita .. | .waitc .. =>
    let s1 := s.dropQ core q
    if s.placeBad q.place then s1.poisonedQ q
    else
      let r := s1.evalAt core q false true
      if r.1.granted then r.2
      else
        let w : Waiter := { core, acc := q, counted := r.1.counted }
        r.2.updPkg fun g => { g with waiters := g.waiters ++ [{ w with seen := r.2.waitWord w }] }
  | i =>
    let s1 := s.dropQ core q
    if s.placeBad q.place then s1.poisonedQ q
    else
      let r := s1.rmwWord who core asid q.va q.place fun w => amoNew i w q.b q.c
      (r.2.sink q.task.part q.task.slot).answer q r.1

/-- Whether an access comes after a lock operation or wait of its task that still waits (R133, R247 rule 1). A handler's accesses do
not: a task that waits can be handled (log entry 34). -/
def State.heldBack (s : State) (q : QAcc) : Bool := !q.hdl && s.pkg.waiters.any fun w => w.acc.tid = q.tid && w.acc.id < q.id

/-- Whether a request or message may leave its core: while its context holds the rota, until its gang has stopped (R337, R342). -/
def State.maySend (s : State) (q : QAcc) : Bool :=
  let v := (s.getPart q.task.part).vote.pst
  q.sends.isNone || (s.holdsRota q.task.part q.task.slot && (v = .run || v = .stopping))

/-- The accesses of a core that may be performed next: the oldest of each task. -/
def State.headsQ (s : State) (core : Nat) : List QAcc :=
  let c := s.getCore core
  c.qacc.filter fun q => !s.heldBack q && s.maySend q && !c.qacc.any fun x => x.tid = q.tid && x.id < q.id && !s.heldBack x

/-- An access issued before the last VJOIN of its task leaves no value unordered (R257). -/
def State.keepJoined (t s : State) (q : QAcc) : State :=
  match q.place, s.findThread q.tid with
  | .spad c _, some h => if q.id < h.vjq then t.updCoreN c fun x => { x with linOld := (s.getCore c).linOld } else t
  | _, _ => t

/-- A request or message leaves the core (R192, R193). -/
def State.sendOut (s : State) (core : Nat) (q : QAcc) : Sent → State
  | .request addr kind k =>
    let s1 := s.dropQ core q
    match s.taskCtx q.task with
    | none => s1
    | some d => s1.sendRem d q.task.part core q.tid addr kind { q with sends := none } k
  | .message dest k => (s.dropQ core q).putMsg core dest { k with ts := s.ptsOf q.tid } q.task.part

/-- The oldest access of a task is performed, or leaves the core, if the region of its place is its context's (R348). Otherwise
the exchange has been asked for. -/
def State.tryQ (s : State) (core : Nat) (q : QAcc) (k : Nat) : Bool × State :=
  match q.sends with
  | some p => (true, s.sendOut core q p)
  | none =>
    let r := s.touchPlace q.task.part q.task.slot (q.place.plus (64 * k))
    if r.1 then (true, (r.2.performQ core q k).keepJoined r.2 q) else r

/-- `QUEUED_ACCESS_AT_HOME` (R133, R137, R139): the oldest access of task number `w` queued at a core is performed, block
`j` of a vector access; with `n` = 1, waiting operation `k` of the package is evaluated again. -/
def execQueuedAccessAtHome (s : State) : Res :=
  if s.ev.n = 1 then .next (s.wake s.ev.k)
  else if s.paused s.ev.c then .next s
  else
    match (s.headsQ s.ev.c).find? (·.tid = s.ev.w) with
    | some q => if q.blocks = [] ∨ s.ev.j ∈ q.blocks then .next (s.tryQ s.ev.c q s.ev.j).2 else .next s
    | none => .next s

/-- `QUEUED_RESULT_RETURN` (R134): the oldest result of task number `w` enters lq, or with `n` = 1 vq. -/
def execQueuedResultReturn (s : State) : Res :=
  .next (s.updThread s.ev.w fun t =>
    if s.ev.n = 1 then
      match t.vqPend with
      | r :: l => if r.left = 0 then { t with vq := t.vq ++ [r.val], vqPend := l } else t
      | [] => t
    else
      match t.lqPend with
      | r :: l => match r.val with | some w => { t with lq := t.lq ++ [w], lqPend := l } | none => t
      | [] => t)

/-- `QUEUED_STORE_PERFORMED` (R134): a performed store of task number `w` of a core leaves the counter qs. -/
def execQueuedStorePerformed (s : State) : Res :=
  .next (s.updCoreN s.ev.c fun c => { c with qack := c.qack.erase s.ev.w })

/-! ### What must happen before a direct access, and what may happen -/

/-- Performs the queued accesses of a task on a core before a later direct access of it (R247 rule 1), each followed by the
evaluations that it leads to; false where one must wait for an exchange or behind an operation that waits at its home (log
entry 34). `n` bounds the steps. -/
def State.drainQ (s : State) (core tid : Nat) : Nat → Bool × State
  | 0 => (true, s)
  | n + 1 =>
    match (s.headsQ core).find? (·.tid = tid) with
    | none => (!s.pkg.waiters.any (·.acc.tid = tid) || (s.getCore core).th.mode = .handler, s)
    | some q =>
      let r := s.tryQ core q (q.blocks.headD 0)
      if r.1 then (r.2.wakeAll r.2.wakeFuel).drainQ core tid n else r

/-- The steps that a drain takes at most. -/
def Core.drainFuel (c : Core) : Nat := c.qacc.foldl (fun n q => n + Nat.max 1 q.blocks.length) 1

/-- The steps of queued accesses that may happen now. -/
def State.queueSteps (s : State) : List (Instr × Stim) :=
  ((s.allCores.filter fun c => !s.paused c.num).flatMap fun c =>
    ((s.headsQ c.num).flatMap fun q =>
      (if q.blocks = [] then [0] else q.blocks).map fun j =>
        ((.queuedAccessAtHome, { c := c.num, w := q.tid, j }) : Instr × Stim))
    ++ c.qack.eraseDups.map (fun t => (.queuedStorePerformed, { c := c.num, w := t }))
    ++ (if c.xreq.isSome then [(.translationAnswer, { c := c.num })] else []))
  ++ ((s.allCores.map (·.th) ++ s.pkg.parked).flatMap fun t =>
    (match t.lqPend with
      | { val := some _, .. } :: _ => [((.queuedResultReturn, { w := t.tid }) : Instr × Stim)]
      | _ => [])
    ++ (match t.vqPend with
      | { left := 0, .. } :: _ => [(.queuedResultReturn, { w := t.tid, n := 1 })]
      | _ => []))

end Sys2Proof.Machine
end

