-- ==== Sys2Proof/Machine/Copy.lean ====
section
/-! DEFINITION. The copy commands, major CC (R176 to R189): issue and capture, the checks at start, block steps, and
signals. -/

namespace Sys2Proof.Machine

/-- Whether a command reads SRC and writes DST (R185). -/
def usesSrc : Instr → Bool
  | .ccp .. | .cnd .. | .cgat .. | .csct .. | .cwb .. | .cred .. => true
  | _ => false
def usesDst : Instr → Bool
  | .ccp .. | .cnd .. | .cgat .. | .csct .. | .cfill .. | .cred .. => true
  | _ => false

/-! ### Issue (R177, R178) -/

/-- The checks of R177 in order. -/
def cmdTrap (i : Instr) (o : Opnds) (s : State) : Option Trap :=
  let r := o.xa
  let t := s.core.th
  if r.toNat % 64 ≠ 0 then some (mkTrap 7 0 r)
  else if spadEnd ≤ r.toNat then some (mkTrap 6 1 r)
  else
    match s.spadBudget r.toNat r.toNat with
    | some b => some b
    | none =>
      if t.task.foldable && isColl i then some { cause := 9, sub := 5, val := w32 (r.toNat / 65536), fva := r.toNat }
      else if t.task.foldable && isCred i then some { cause := 9, sub := 6, val := w32 (r.toNat / 65536), fva := r.toNat }
      else if t.task.foldable && (isCsig i || (s.seen.word (r.toNat + 52)).getLsbD 0) && s.noHold then
        some (mkTrap 0x0E 4 0)
      else none

/-- A command enters the copy buffer (R177); a held signal takes its hold entry (R186). -/
def cmdMeaning (i : Instr) (tok fl b : Nat) : Meaning :=
  { needs := [.a]
    wait := fun o s => match cmdTrap i o s with | some _ => none | none => s.touchWait (spadRegion o.xa.toNat)
    chk := cmdTrap i
    late := fun o s => s.poisonTrap o.xa
    rdy := fun _ s => if 32 ≤ s.cp then some 4 else none
    words := fun o _ => (List.range 16).map fun k => (0, o.xa.toNat + 4 * k)
    eff := fun o s => .next (s.enterCmd i tok fl b o) }

/-- `ccp` (R185). -/
def execCcp (g t fl a b : Nat) (s : State) : Res := present (.ccp g t fl a b) s (cmdMeaning (.ccp g t fl a b) t fl b)
/-- `cnd` (R185). -/
def execCnd (g t fl a b : Nat) (s : State) : Res := present (.cnd g t fl a b) s (cmdMeaning (.cnd g t fl a b) t fl b)
/-- `cgat` (R185). -/
def execCgat (g t fl a b : Nat) (s : State) : Res := present (.cgat g t fl a b) s (cmdMeaning (.cgat g t fl a b) t fl b)
/-- `csct` (R185). -/
def execCsct (g t fl a b : Nat) (s : State) : Res := present (.csct g t fl a b) s (cmdMeaning (.csct g t fl a b) t fl b)
/-- `cwb` (R185). -/
def execCwb (g t fl a b : Nat) (s : State) : Res := present (.cwb g t fl a b) s (cmdMeaning (.cwb g t fl a b) t fl b)
/-- `cfill` (R185). -/
def execCfill (g t fl a b : Nat) (s : State) : Res := present (.cfill g t fl a b) s (cmdMeaning (.cfill g t fl a b) t fl b)
/-- `cred` (R186). -/
def execCred (g t fl a b : Nat) (s : State) : Res := present (.cred g t fl a b) s (cmdMeaning (.cred g t fl a b) t fl b)
/-- `csig` (R185). -/
def execCsig (g t fl a b : Nat) (s : State) : Res := present (.csig g t fl a b) s (cmdMeaning (.csig g t fl a b) t fl b)
/-- `xar` (R195). -/
def execXar (g t fl a b : Nat) (s : State) : Res := present (.xar g t fl a b) s (cmdMeaning (.xar g t fl a b) t fl b)
/-- `xrs` (R195). -/
def execXrs (g t fl a b : Nat) (s : State) : Res := present (.xrs g t fl a b) s (cmdMeaning (.xrs g t fl a b) t fl b)
/-- `xag` (R195). -/
def execXag (g t fl a b : Nat) (s : State) : Res := present (.xag g t fl a b) s (cmdMeaning (.xag g t fl a b) t fl b)
/-- `xbc` (R195). -/
def execXbc (g t fl a b : Nat) (s : State) : Res := present (.xbc g t fl a b) s (cmdMeaning (.xbc g t fl a b) t fl b)
/-- `xmrg` (R195, R198). -/
def execXmrg (g t fl a b : Nat) (s : State) : Res := present (.xmrg g t fl a b) s (cmdMeaning (.xmrg g t fl a b) t fl b)
/-- `xred` (R195). -/
def execXred (g t fl a b : Nat) (s : State) : Res := present (.xred g t fl a b) s (cmdMeaning (.xred g t fl a b) t fl b)
/-- `xbar` (R195). -/
def execXbar (g t fl a b : Nat) (s : State) : Res := present (.xbar g t fl a b) s (cmdMeaning (.xbar g t fl a b) t fl b)

/-! ### Started commands -/

/-- A started command by task and number. -/
def State.findCmd (s : State) (tid ref : Nat) : Option Cmd := s.pkg.cmds.find? fun m => m.tid = tid && m.ref = ref

/-- Updates a started command. -/
def State.updCmd (s : State) (tid ref : Nat) (f : Cmd → Cmd) : State :=
  s.updPkg fun k => { k with cmds := lmapIf (fun m => m.tid = tid && m.ref = ref) f k.cmds }

/-- The descriptor of a command's context. -/
def State.cmdCtx (s : State) (c : Cmd) : Option CtxDesc := s.ctxDesc c.task.part c.task.slot

/-- Takes a command
out of its engine: cp falls, its token may clear, and its thread's timestamp joins the task's (R181, R252, R290). -/
def State.dropCmd (s : State) (c : Cmd) : State :=
  let s1 := s.updPkg fun k =>
    { k with cmds := k.cmds.filter (fun m => !(m.tid = c.tid && m.ref = c.ref))
             rem := k.rem.filter fun r => !(r.tid = c.tid && r.kind = .contrib c.ref) }
  let now := (s.findCmd c.tid c.ref).getD c
  let s2 := s1.updThread c.tid fun t => { t with csr := { t.csr with pts := Nat.max t.csr.pts now.pts } }
  let named := fun (m : Cmd) => m.tid = c.tid && m.tok = c.tok
  if s2.pkg.cmds.any named || (match s2.findThread c.tid with | some t => t.cbuf.any named | none => false) then s2
  else s2.sink c.task.part c.task.slot

/-- The record of a command's fault (R220, R221). -/
def Cmd.fault (c : Cmd) (cause sub fva step : Nat) : FaultRec :=
  { sub, slot := c.slot, cause, baddr := c.baddr, sword := c.sword, xa := c.xa, xb := c.xb, fva := BitVec.ofNat 64 fva,
    step := w32 step, ext := c.blk, copy := true }

/-- A command ends with a fault: its signal is not made, and its own hold entry goes (R181, R186, R187). -/
def State.failCmd (s : State) (c : Cmd) (cause sub fva step : Nat) : State :=
  let s1 := if c.held then s.updThread c.tid fun t => { t with holdq := t.holdq.erase (.signal c.sig (w32 c.sigval) c.sigop c.baddr c.ref) } else s
  (s1.engineFault c.tid c.task (c.fault cause sub fva step)).dropCmd c

/-! ### The checks at start (R187) -/

/-- The wrap of a VA (R185). -/
def wrapVa (k : Int) : Nat := (k % (2 ^ 48 : Int)).toNat

/-- SHAPE of a copy command (R184 to R186). CTL[3], which the layout lists neither as a field nor as zero, may hold either value
(DESIGN CHOICE, log entry 111). -/
def Cmd.badShape (c : Cmd) : Bool :=
  let i := c.instr
  let zero := fun (used : Bool) (v : Nat) => !used && v ≠ 0
  let rowsUsed := usesDst i
  zero (usesSrc i) c.src || zero (usesDst i) c.dst || zero rowsUsed c.rowlen || zero rowsUsed c.rows
    || zero (usesSrc i && usesDst i) (c.w 6) || zero rowsUsed (c.w 7)
    || 4096 ≤ c.ctl || zero (!isCsig i) c.ctl
    || zero (usesDst i && !isCred i) (bits c.ctl 0 0) || zero (usesSrc i) (bits c.ctl 1 1) || zero (usesDst i) (bits c.ctl 2 2)
    || (if isCred i then 2 < bits c.ctl 7 4 || bits c.ctl 11 8 = 0 || 3 < bits c.ctl 11 8 else bits c.ctl 11 4 ≠ 0)
    || (if isCnd i then c.arg0 = 0 || 65536 ≤ c.arg0
        else if isCwb i then
          c.arg0 / 2 ^ 15 ≠ 0 || bits c.arg0 7 6 ≠ 0 || bits c.arg0 14 8 = 0 || 64 < bits c.arg0 5 0 + bits c.arg0 14 8
        else zero (isCfill i) c.arg0)
    || (if isCfill i then 65536 ≤ c.arg1 || (!c.dh && c.arg1 ≠ 0) else zero (isCnd i || isCgat i || isCsct i || isCwb i) c.arg1)
    || 8 ≤ c.sigctl || (c.signals && c.sigop = 3) || (!c.signals && (c.sig ≠ 0 || c.sigval ≠ 0 || c.sigctl ≠ 0))

/-- The address operands in block order, and those required to be local (R183). -/
def Cmd.operands (c : Cmd) : List Nat :=
  (if usesSrc c.instr then [c.src] else []) ++ (if usesDst c.instr then [c.dst] else []) ++ (if c.signals then [c.sig] else [])
    ++ (if (isCwb c.instr && c.arg1 ≠ 0) || isCgat c.instr || isCsct c.instr then [c.arg1] else [])
def Cmd.locals (c : Cmd) : List Nat :=
  (if isCgat c.instr then [c.dst, c.arg1] else []) ++ if isCsct c.instr then [c.src, c.arg1] else []

def Cmd.badRank (rank gsz : Nat) (locals : List Nat) (a : Nat) : Bool :=
  bits a 53 48 ≠ 0 || gsz ≤ gaRank a || (locals.contains a && gaRank a ≠ rank)

/-- Whether a run of `n` bytes from an own scratchpad address passes its end. -/
def passesEnd (va n : Nat) : Bool := va < spadEnd && spadEnd < va + n

/-- The planes of a command (R185). -/
def Cmd.planes (c : Cmd) : Nat := if isCnd c.instr then c.arg0 % 65536 else 1

/-- Whether a row of an operand that starts in the own scratchpad passes its end; rows placed by an index list are checked
at their steps. -/
def Cmd.rowsPass (c : Cmd) (base : Nat) (str pl : Int) : Bool :=
  c.rowlen ≠ 0 && (List.range c.planes).any fun h => (List.range c.rows).any fun r =>
    passesEnd (wrapVa ((gaVa base : Int) + h * pl + r * str)) c.rowlen

/-- SPADR at start: the operand that fails, in block order. -/
def Cmd.spadr (c : Cmd) (rank : Nat) : Option Nat :=
  let own := fun a => gaRank a = rank
  let n := bits c.arg0 14 8
  if usesSrc c.instr && own c.src && (if isCwb c.instr then passesEnd (gaVa c.src) (4096 * n)
      else !isCgat c.instr && c.rowsPass c.src c.sstr (if isCnd c.instr then sextNat (c.w 14) 32 else 0)) then some c.src
  else if usesDst c.instr && own c.dst && !isCsct c.instr
      && c.rowsPass c.dst c.dstr (if isCnd c.instr then sextNat (c.w 15) 32 else 0) then some c.dst
  else if (isCgat c.instr || isCsct c.instr) && spadEnd < gaVa c.arg1 + 4 * c.rows then some c.arg1
  else if isCwb c.instr && c.arg1 ≠ 0 && own c.arg1 && passesEnd (gaVa c.arg1) (1024 * n) then some c.arg1
  else none

/-- The values that ALIGN4 and DHALIGN look at, with the address to record: strides and lengths have none (R187, log entry 40). -/
def Cmd.aligned (c : Cmd) : List (Nat × Nat) :=
  [(c.src, c.src), (c.dst, c.dst), (c.rowlen, 0), (c.w 6, 0), (c.w 7, 0), (c.sig, c.sig)]
    ++ (if isCnd c.instr then [(c.w 14, 0), (c.w 15, 0)] else [])
    ++ (if isCwb c.instr || isCgat c.instr || isCsct c.instr then [(c.arg1, c.arg1)] else [])

/-- The first failing check of a copy command at start, as subcause and address (R187). -/
def Cmd.startFault (c : Cmd) (rank gsz : Nat) : Option (Nat × Nat) :=
  if c.badShape then some (9, 0)
  else
    match c.operands.find? (Cmd.badRank rank gsz c.locals) with
    | some a => some (4, a)
    | none =>
      match c.operands.find? (fun a => gaRank a ≠ rank && gaVa a < spadEnd) with
      | some a => some (5, a)
      | none =>
        match c.spadr rank with
        | some a => some (6, a)
        | none =>
          match c.aligned.find? (fun e => e.1 % 4 ≠ 0) with
          | some e => some (7, e.2)
          | none =>
            if c.dh || isCred c.instr || isCwb c.instr then
              (c.aligned.find? fun e => e.1 % 64 ≠ 0).map fun e => (8, e.2)
            else none

/-! ### Block steps in element order (R180, R185) -/

/-- The VAs of a row's source and destination (R185). -/
def Cmd.srcRow (c : Cmd) (h r : Nat) : Nat :=
  let k := if isCgat c.instr then (lget 0 c.idx r).toNat else r
  wrapVa ((gaVa c.src : Int) + (if isCnd c.instr then h * sextNat (c.w 14) 32 else 0) + k * c.sstr)
def Cmd.dstRow (c : Cmd) (h r : Nat) : Nat :=
  let k := if isCsct c.instr then (lget 0 c.idx r).toNat else r
  wrapVa ((gaVa c.dst : Int) + (if isCnd c.instr then h * sextNat (c.w 15) 32 else 0) + k * c.dstr)

/-- The first step of a copy command. -/
def Cmd.first (c : Cmd) : Option Seg :=
  if isCsig c.instr then none
  else if isCwb c.instr then some ⟨0, 0, 0, 64⟩
  else if c.rowlen = 0 ∨ c.rows = 0 then none
  else some ⟨0, 0, 0, 0⟩

/-- The step that begins at a place on a rank, and where the next one begins: a step ends with its row, and with its
destination block, or for a destination on another rank with the 256-byte range that one packet carries (R325). -/
def Cmd.stepAt (c : Cmd) (rank : Nat) (k : Seg) : Seg × Option Seg :=
  if isCwb c.instr then
    ({ k with n := 64 },
      if k.pos < 63 then some { k with pos := k.pos + 1 }
      else if k.row + 1 < bits c.arg0 14 8 then some ⟨0, k.row + 1, 0, 64⟩ else none)
  else
    let u := if gaRank c.dst ≠ rank && !isCred c.instr then 256 else 64
    let n := Nat.min (u - (c.dstRow k.plane k.row + k.pos) % u) (c.rowlen - k.pos)
    ({ k with n := n },
      if k.pos + n < c.rowlen then some { k with pos := k.pos + n }
      else if k.row + 1 < c.rows then some ⟨k.plane, k.row + 1, 0, 0⟩
      else if k.plane + 1 < c.planes then some ⟨k.plane + 1, 0, 0, 0⟩ else none)

/-- The engine step number of a byte of a step (R187, R221). -/
def Cmd.stepNo (c : Cmd) (k : Seg) (off : Nat) : Nat :=
  if isCwb c.instr then (bits c.arg0 5 0 + k.row) * 256 + k.pos
  else ((k.plane * c.rows + k.row) * c.rowlen + k.pos + off) / 64

/-! ### Reading and writing for a command -/

/-- Where the words of a run lie, or the first that fails with its ENGFAULT subcause (R187). -/
inductive Placed where
  | at_ (l : List Place)
  | bad (off sub : Nat)
  | hole (pa : Nat)
  deriving DecidableEq, Repr

/-- Translates the words of a local run of a command, at consecutive offsets, once for each 64-byte block (R183, R241). `last` is the
place of the word before; `own` says that the run began in the own scratchpad, whose end it may not pass (R187). -/
def State.placeFrom (s : State) (c : Cmd) (d : CtxDesc) (own : Bool) (base : Nat) (last : Option Place) : List Nat → Placed × State
  | [] => (.at_ [], s)
  | o :: l =>
    if own && decide (spadEnd ≤ base + o) then (.bad o 6, s)
    else
      let r := match last with
        | some p => if (base + o) % 64 = 0 then s.reach (c.own / 256) c.task.part d (some c.own) ((base + o) % 2 ^ 48)
          else (.found (p.plus 4), s)
        | none => s.reach (c.own / 256) c.task.part d (some c.own) ((base + o) % 2 ^ 48)
      match r.1 with
      | .bad k => (.bad o k, r.2)
      | .hole pa => (.hole pa, r.2)
      | .found p =>
        let q := r.2.placeFrom c d own base (some p) l
        match q.1 with
        | .at_ ps => (.at_ (p :: ps), q.2)
        | e => (e, q.2)

/-- As `placeFrom`, from the start of a run. -/
def State.placeRun (s : State) (c : Cmd) (d : CtxDesc) (base : Nat) (l : List Nat) : Placed × State :=
  s.placeFrom c d (decide (base < spadEnd)) base none l

/-- The words of a step whose row starts at `row`: a row that an index list places passes no scratchpad end either (R185, R187). -/
def State.placeStep (s : State) (c : Cmd) (d : CtxDesc) (row base : Nat) (l : List Nat) : Placed × State :=
  s.placeFrom c d (decide (row < spadEnd)) base none l

/-- The offsets of the words of `n` bytes. -/
def wordOffs (n : Nat) : List Nat := (List.range ((n + 3) / 4)).map (· * 4)

/-- The engine thread of an access. -/
def Who.thread : Who → Thr
  | .cmd _ tid ref => (tid, ref, false)
  | .task tid => (tid, 0, false)
  | .fabric .. => (0, 0, false)

/-- A read of a word by an engine: the scratchpad in its view, memory under its class (R244, R256). -/
def State.engLoadAt (s : State) (w : Who) (own asid va : Nat) (sw : Bool) (p : Place) : Word × State :=
  match p with
  | .spad k o =>
    let r := s.onCoreV k fun s => s.engRead own sw o
    (r.1, r.2.stampLoadAt w (.spad k (viewAddr sw o)))
  | .mem pa a => if attrClass a = 2 then (s.pkg.hbm.word pa, s.stampLoadAt w p) else s.readWord w own asid va p

/-- A write of `n` bytes within a word by an engine. -/
def State.engStoreAt (s : State) (w : Who) (own asid va : Nat) (sw : Bool) (p : Place) (v n : Nat) : State :=
  match p with
  | .spad k o => (s.onCore k fun s => s.engWrite own w.thread sw o v n).stampWriteAt w (.spad k (viewAddr sw o))
  | .mem .. => s.writeBytes w own asid va p v n

/-- The descriptor of the block of a place (R55, R258). -/
def State.engDesc (s : State) (own asid va : Nat) (sw : Bool) (p : Place) : Desc :=
  match p with
  | .spad k o => (s.getCore k).spad.descAt (viewAddr sw o)
  | .mem pa a =>
    match (s.getCore own).line asid va pa (attrClass a) with
    | some l => if attrClass a = 0 then l.desc else s.pkg.hbm.descAt pa
    | none => s.pkg.hbm.descAt pa

/-- Completes a whole-block write: the descriptor where one moves, and the poison (R59, R361). -/
def State.engSeal (s : State) (own asid va : Nat) (sw : Bool) (p : Place) (d : Option Desc) : State :=
  match p with
  | .spad k o =>
    let b := viewAddr sw o / 64
    s.updCoreN k fun c => { c with spad := { c.spad with
      desc := match d with | some d => sset 0 c.spad.desc b d | none => c.spad.desc
      poison := sset false c.spad.poison b false } }
  | .mem pa a =>
    let s1 := s.cleanBlock p
    match d with
    | none => s1
    | some d =>
      if attrClass a = 0 then
        let r := s1.lineFor own asid va pa 0
        r.2.keepLine own { r.1 with desc := d, ddesc := true }
      else s1.updPkg fun k => { k with hbm := { k.hbm with desc := sset 0 k.hbm.desc (pa / 64) d } }

/-- Sets the word of a scratchpad place full (R182). -/
def State.engFull (s : State) (sw : Bool) : Place → State
  | .spad k o => s.updCoreN k fun c => { c with spad := c.spad.setFull (viewAddr sw o) true }
  | .mem .. => s

/-- Touches the regions of places for a context (R348): whether all proceed. -/
def State.touchPlaces (s : State) (p slot : Nat) : List Place → Bool × State
  | [] => (true, s)
  | x :: l =>
    let a := s.touchPlace p slot x
    let b := a.2.touchPlaces p slot l
    (a.1 && b.1, b.2)

/-- Whether a place is in a poisoned block, in a view. -/
def State.engBadAt (s : State) (sw : Bool) : Place → Bool
  | .spad k o => (s.getCore k).spad.bad (viewAddr sw o)
  | .mem pa _ => s.pkg.hbm.bad pa

/-- Who a command's accesses are made by. -/
def Cmd.who (c : Cmd) : Who := .cmd c.task.part c.tid c.ref

/-- Reads words in order. -/
def State.engLoads (s : State) (c : Cmd) (asid : Nat) (sw : Bool) (va : Nat) : List Place → List Word × State
  | [] => ([], s)
  | p :: l =>
    let r := s.engLoadAt c.who c.own asid va sw p
    let q := r.2.engLoads c asid sw (va + 4) l
    (r.1 :: q.1, q.2)

/-- Writes words in order, `n` bytes of them in all, with the full bits of FE after their data (R182). -/
def State.engStores (s : State) (c : Cmd) (asid : Nat) (va n : Nat) : List (Place × Word) → State
  | [] => s
  | (p, v) :: l =>
    let s1 := s.engStoreAt c.who c.own asid va c.dswz p v.toNat (Nat.min n 4)
    (if c.fe then s1.engFull c.dswz p else s1).engStores c asid (va + 4) (n - 4) l

/-! ### `cred` (R186) -/

/-- COMB of two FP32 or INT32 words, or BF16 halves, by type and operation: 1 add, 2 max, 3 min (R186). -/
def comb (ty op : Nat) (a b : Word) : Word :=
  match ty with
  | 1 =>
    if op = 1 then a + b else if op = 2 then (if a.toInt ≤ b.toInt then b else a) else if a.toInt ≤ b.toInt then a else b
  | 2 =>
    let half := fun (k : Nat) =>
      let x := w32 (a.toNat / 2 ^ (16 * k) % 65536 * 65536)
      let y := w32 (b.toNat / 2 ^ (16 * k) % 65536 * 65536)
      if op = 1 then (encodeBin 8 7 ((f32 x).add (f32 y)).1).1
      else (encodeBin 8 7 (f32 (minmaxF (op = 2) x y).1)).1
    w32 (half 0 + half 1 * 65536)
  | _ => if op = 1 then (addF a b).1 else (minmaxF (op = 2) a b).1

/-! ### A block step -/

/-- The outcome of a step: made, waiting for an exchange, failed at a byte with a subcause, or past the end of memory. -/
inductive Stepped where
  | made (s : State)
  | wait (s : State)
  | bad (off sub fva : Nat) (s : State)
  | hole (pa : Nat)

/-- Sends a request of a command to the rank of an address (R304). -/
def State.cmdSend (s : State) (c : Cmd) (d : CtxDesc) (addr : Nat) (kind : RemKind) (acc : QAcc) (k : Packet) : State :=
  ((s.exportTs c.task.part c.pts).sendRem d c.task.part c.own c.tid addr kind acc k).updCmd c.tid c.ref fun m => { m with wait := m.wait + 1 }

/-- The VA of a step's data at the destination. -/
def Cmd.dstAt (c : Cmd) (k : Seg) : Nat := (c.dstRow k.plane k.row + k.pos) % 2 ^ 48
def Cmd.srcAt (c : Cmd) (k : Seg) : Nat :=
  if isCwb c.instr then (gaVa c.src + 4096 * k.row + 64 * k.pos) % 2 ^ 48
  else (c.srcRow k.plane k.row + k.pos) % 2 ^ 48

/-- The VA at which the row of a step starts. -/
def Cmd.dstStart (c : Cmd) (k : Seg) : Nat := c.dstRow k.plane k.row % 2 ^ 48
def Cmd.srcStart (c : Cmd) (k : Seg) : Nat := if isCwb c.instr then c.srcAt k else c.srcRow k.plane k.row % 2 ^ 48

/-- The pod-global address of a VA on the rank of an operand. -/
def onRank (a va : Nat) : Nat := a / 2 ^ 54 * 2 ^ 54 + va

/-- Writes the data of a step to its destination, or sends it to the destination's rank. -/
def State.putStep (s : State) (c : Cmd) (d : CtxDesc) (k : Seg) (ws : List Word) (desc : List Desc) : Stepped :=
  let va := c.dstAt k
  if gaRank c.dst ≠ d.rank then
    let bytes := (leBytes (wordsNat ws) k.n)
    let p : Packet :=
      if isCred c.instr then { kind := 4, payload := bytes, arg := w32 (bits c.ctl 7 4 + 16 * bits c.ctl 11 8) }
      else { kind := 1, payload := bytes, desc, wfl := b2n c.fe + 2 * b2n (desc ≠ []) }
    .made (s.cmdSend c d (onRank c.dst va) (.write c.ref k) {} p)
  else
    let r := s.placeStep c d (c.dstStart k) va (wordOffs k.n)
    match r.1 with
    | .hole pa => .hole pa
    | .bad o e => .bad o e (onRank c.dst (va + o)) r.2
    | .at_ ps =>
      if ps.any Place.readOnly then .bad 0 2 (onRank c.dst va) r.2
      else
        let t := r.2.touchPlaces c.task.part c.task.slot ps
        if !t.1 then .wait t.2
        else
          let old := if isCred c.instr then t.2.engLoads c d.asid c.dswz va ps else ([], t.2)
          if isCred c.instr && (ps.headD (.mem 0 0) |> r.2.engBadAt c.dswz) then .bad 0 0x0A (onRank c.dst va) t.2
          else
            let vs := if isCred c.instr then (old.1.zip ws).map fun e => comb (bits c.ctl 7 4) (bits c.ctl 11 8) e.1 e.2 else ws
            let s1 := old.2.engStores c d.asid va k.n (ps.zip vs)
            let s2 := if k.n = 64 then s1.engSeal c.own d.asid va c.dswz (ps.headD (.mem 0 0)) desc.head? else s1
            .made (s2.sink c.task.part c.task.slot)

/-- Writes a column of a slab (R185): the mask only for a compressed column. -/
def State.putColumn (s : State) (c : Cmd) (k : Seg) (ws : List Word) (desc : Desc) (mask : Nat) : Stepped :=
  let b := bits c.arg0 5 0 + k.row
  let t := s.remoteTouch c.own (slabRegion b) c.task.part c.task.slot
  if !t.1 then .wait t.2
  else
    let keep := fmtKeep (desc.toNat % 256) ≠ 0
    let x : DBlock := { data := BitVec.ofNat 512 (wordsNat ws), desc, mask := if keep then BitVec.ofNat 128 mask else 0 }
    .made (t.2.updCoreN c.own fun q => { q with wb := sset ⟨0, 0, 0⟩ q.wb (b * 64 + k.pos) x })

/-- Whether a column needs a mask entry. -/
def Cmd.needsMask (c : Cmd) (desc : Desc) : Bool := c.arg1 ≠ 0 && fmtKeep (desc.toNat % 256) ≠ 0

/-- The VA of a column's mask entry (R185). -/
def Cmd.maskAt (c : Cmd) (k : Seg) : Nat := (gaVa c.arg1 + 1024 * k.row + 16 * k.pos) % 2 ^ 48

/-- A column whose data has been read: its mask is read, here or on the rank that holds it, and the column written. -/
def State.column (s : State) (c : Cmd) (d : CtxDesc) (k : Seg) (ws : List Word) (desc : Desc) : Stepped :=
  if !c.needsMask desc then s.putColumn c k ws desc 0
  else if gaRank c.arg1 ≠ d.rank then
    let acc : QAcc := { v := BitVec.ofNat 2048 (wordsNat ws), c := w32 desc.toNat }
    .made (s.cmdSend c d (onRank c.arg1 (c.maskAt k)) (.mask c.ref k) acc { kind := 2, arg := 16 })
  else
    let r := s.placeRun c d (c.maskAt k) (wordOffs 16)
    match r.1 with
    | .hole pa => .hole pa
    | .bad _ e => .bad 0 e (onRank c.arg1 (c.maskAt k)) r.2
    | .at_ ps =>
      let t := r.2.touchPlaces c.task.part c.task.slot ps
      if !t.1 then .wait t.2
      else if ps.any (t.2.engBadAt false) then .bad 0 0x0A (onRank c.arg1 (c.maskAt k)) t.2
      else
        let m := t.2.engLoads c d.asid false (c.maskAt k) ps
        m.2.putColumn c k ws desc (wordsNat m.1)

/-- The words of a step's pattern (R185). -/
def Cmd.fillWords (c : Cmd) (n : Nat) : List Word := List.replicate (n / 4) (w32 c.arg0)

/-- One block step of a copy command (R182, R187): the source is read, here or by a request to its rank, and the
destination written. -/
def State.copyStep (s : State) (c : Cmd) (d : CtxDesc) (k : Seg) : Stepped :=
  if isCfill c.instr then s.putStep c d k (c.fillWords k.n) (if c.dh then List.replicate (k.n / 64) (BitVec.ofNat 16 c.arg1) else [])
  else
    let va := c.srcAt k
    if gaRank c.src ≠ d.rank then
      .made (s.cmdSend c d (onRank c.src va) (.read c.ref k) {} { kind := 2, arg := w32 (k.n + 512 * b2n (c.dh || isCwb c.instr)) })
    else
      let r := s.placeStep c d (c.srcStart k) va (wordOffs k.n)
      match r.1 with
      | .hole pa => .hole pa
      | .bad o e => .bad o e (onRank c.src (va + o)) r.2
      | .at_ ps =>
        let dst := if isCwb c.instr || gaRank c.dst ≠ d.rank then (Placed.at_ [], r.2)
          else r.2.placeStep c d (c.dstStart k) (c.dstAt k) (wordOffs k.n)
        match dst.1 with
        | .hole pa => .hole pa
        | .bad o e => .bad o e (onRank c.dst (c.dstAt k + o)) dst.2
        | .at_ ds =>
          if ds.any Place.readOnly then .bad 0 2 (onRank c.dst (c.dstAt k)) dst.2
          else
            let t := dst.2.touchPlaces c.task.part c.task.slot (ps ++ ds)
            if !t.1 then .wait t.2
            else
              let desc0 := t.2.engDesc c.own d.asid va c.sswz (lget (.mem 0 0) ps 0)
              let mask := if isCwb c.instr && c.needsMask desc0 && gaRank c.arg1 = d.rank then t.2.placeRun c d (c.maskAt k) (wordOffs 16)
                else (Placed.at_ [], t.2)
              match mask.1, (ps.zip (wordOffs k.n)).find? (fun e => t.2.engBadAt c.sswz e.1) with
              | .hole pa, _ => .hole pa
              | .bad o e, _ => .bad 0 e (onRank c.arg1 (c.maskAt k + o)) mask.2
              | .at_ _, some e => .bad e.2 0x0A (onRank c.src (va + e.2)) t.2
              | .at_ _, none =>
                let at_ := fun (j : Nat) => t.2.engDesc c.own d.asid (va + 64 * j) c.sswz (lget (.mem 0 0) ps (16 * j))
                let x := t.2.engLoads c d.asid c.sswz va ps
                if isCwb c.instr then x.2.column c d k x.1 (at_ 0)
                else x.2.putStep c d k x.1 (if c.dh then (List.range (k.n / 64)).map at_ else [])

/-- Whether a packet that the engine of a core has sent to the hub still stands in the mesh or at an adapter: the engine waits, and
drops nothing (R326, log entry 69). -/
def State.engineWaits (s : State) (core : Nat) : Bool :=
  let mine := fun (f : MeshFlit) => f.dest.isNone && match f.pkt with
    | some k => s.pkg.rem.any fun r => r.tag = k.tag && r.part = k.part && r.core = core
    | none => false
  s.pkg.mesh.any mine || s.pkg.adapter.any fun e => mine e.2

/-! ### Signals (R182, R184) -/

/-- Performs a signal at its address: a store, an add or an or (R184). Answers none while it waits for an exchange. -/
def State.signalAt (s : State) (w : Who) (own : Nat) (t : Task) (d : CtxDesc) (va val op : Nat) : Stepped :=
  let r := s.reach (own / 256) t.part d (some own) va
  match r.1 with
  | .hole pa => .hole pa
  | .bad k => .bad 0 k va r.2
  | .found p =>
    if p.readOnly then .bad 0 2 va r.2
    else
      let x := r.2.touchPlace t.part t.slot p
      if !x.1 then .wait x.2
      else if op ≠ 0 ∧ x.2.placeBad p then .bad 0 0x0A va x.2
      else
        let s1 := if op = 0 then x.2.writeBytes w own d.asid va p val 4
          else (x.2.rmwWord w own d.asid va p fun o => some (if op = 1 then o + w32 val else o ||| w32 val)).2
        .made (s1.sink t.part t.slot)

/-- The packet of a signal to another rank (R305): a store that is marked as a signal, or an atomic. -/
def signalPkt (val op : Nat) : Packet :=
  if op = 0 then { kind := 1, payload := leBytes val 4, wfl := 4 }
  else { kind := 4, arg := w32 val, atop := if op = 1 then 1 else 3 }

end Sys2Proof.Machine
end

