-- ==== Sys2Proof/Machine/Combine.lean ====
section
/-! DEFINITION. How collectives combine (R186, R197, R198, R316 to R320): the arithmetic that the package switch and the home
share, and the place of a packet in the tree. -/

namespace Sys2Proof.Machine

/-- The words of bytes, the last filled up with zeros. -/
def bytesWords (l : List Byte) : List Word := (List.range ((l.length + 3) / 4)).map fun k => w32 (leNat ((l.drop (4 * k)).take 4))

/-! ### Combining (R186, R197, R198, R318, R319) -/

def negInf : Word := 0xFF800000
def posInf : Word := 0x7F800000

/-- The NaN triple of a length. -/
def nanRow (n : Nat) : List Word := List.replicate n qnan

/-- MERGE of two rows (m, s, v), the left one of the lower rank (R198, R319). A NaN in `v` alone stays in its element (DESIGN CHOICE, log
entry 137). -/
def mergeRow (l r : List Word) : List Word :=
  let ml := l.headD 0
  let mr := r.headD 0
  if ml = negInf ∧ mr = negInf then negInf :: List.replicate (l.length - 1) 0
  else if ml = negInf then r
  else if mr = negInf then l
  else if (f32 ml).isNan ∨ (f32 mr).isNan ∨ ml = posInf ∨ mr = posInf then nanRow l.length
  else
    let m := (minmaxF true ml mr).1
    if cmpKey ml = cmpKey mr then m :: (l.tail.zip r.tail).map fun e => (addF e.1 e.2).1
    else
      let b := if cmpKey mr < cmpKey ml then l else r
      let t := if cmpKey mr < cmpKey ml then r else l
      let q := (exp2F (subF (t.headD 0) (b.headD 0)).1).1
      m :: (b.tail.zip t.tail).map fun e => (addF e.1 (mulF e.2 q).1).1

/-- A merged row as `xmrg` delivers it (R198, R319). -/
def normRow (norm : Bool) (row : List Word) : List Word :=
  if !norm then row
  else
    let m := row.headD 0
    let s := row.tail.headD 0
    let v := row.tail.tail
    if (f32 m).isNan then nanRow v.length
    else if (f32 s).isZero then List.replicate v.length 0
    else v.map fun x => (divF x s).1

/-- COMB of two payloads (R318). -/
def combPay (p : Packet) (l r : List Byte) : List Byte :=
  let a := bytesWords l
  let b := bytesWords r
  let ws := if p.opc = 0x0E then mergeRow a b else (a.zip b).map fun e => comb (bits p.top 3 0) (bits p.top 6 4) e.1 e.2
  leBytes (wordsNat ws) l.length

/-- The first compared field in which two packets of a collective differ (R196); 0 for none. -/
def collDiff (p q : Packet) : Nat :=
  if p.opc ≠ q.opc then 1
  else if p.count ≠ q.count then 2
  else if p.rows ≠ q.rows then 3
  else if p.root ≠ q.root then 4
  else if bit p.top 7 ≠ bit q.top 7 then 5
  else if bits p.top 3 0 ≠ bits q.top 3 0 then 6
  else if bits p.top 6 4 ≠ bits q.top 6 4 then 7
  else 0

/-- Whether two packets belong to one collective of a context. -/
def sameColl (p q : Packet) : Bool := p.gang = q.gang && p.posChan = q.posChan && p.posSeq = q.posSeq

/-- Whether two packets stand at one node of the tree for one share. -/
def sameNode (p q : Packet) : Bool := sameColl p q && p.posLevel = q.posLevel && p.posLeft = q.posLeft && p.share = q.share

/-- Whether two packets are the two operands of one combination (R317). -/
def siblings (p q : Packet) : Bool := sameNode p q && p.posOff = q.posOff && p.payload.length = q.payload.length

/-! ### Rows of more than 256 bytes (R316)

A row of `xmrg` of 63 or 64 columns takes two packets, and MERGE takes whole rows: its parts meet before they combine. -/

/-- Whether a packet carries a part of a row. -/
def isPart (p : Packet) : Bool := p.opc = 0x0E && p.payload ≠ [] && p.payload.length ≠ 4 * (p.count + 2)

/-- Whether two packets of one sender carry the two parts of one row. -/
def otherPart (p q : Packet) : Bool :=
  sameNode p q && p.srank = q.srank && isPart q && p.posOff ≠ q.posOff && p.posOff / (p.count + 2) = q.posOff / (p.count + 2)

/-- The row of two parts. -/
def joinParts (p q : Packet) : Packet :=
  if p.posOff < q.posOff then { p with payload := p.payload ++ q.payload } else { q with payload := q.payload ++ p.payload }

/-- A row as the packets that carry it, of up to 256 bytes each. -/
def inPackets (p : Packet) : List Packet :=
  (List.range (Nat.max 1 ((p.payload.length + 255) / 256))).map fun k =>
    { p with posOff := p.posOff + 64 * k, payload := (p.payload.drop (256 * k)).take 256 }

/-- A packet with the combination that takes its value next (R316). -/
def upLevel (p : Packet) (v : List Byte) : Packet :=
  { p with posLevel := p.posLevel + 1, posLeft := p.posLeft / 2 ^ (p.posLevel + 2) * 2 ^ (p.posLevel + 2), payload := v }

/-- Whether a packet's combination has no right child, and whether its value is the whole tree's. -/
def lacksRight (p : Packet) : Bool := p.gsz ≤ p.posLeft + 2 ^ p.posLevel
def isRoot (p : Packet) : Bool := p.posLeft = 0 && p.gsz ≤ 2 ^ p.posLevel

end Sys2Proof.Machine
end

