-- ==== Sys2Proof/Machine/Wire.lean ====
section
/-! DEFINITION. Packets on a link (R303 to R305): heads, flits and their CRC. -/

namespace Sys2Proof.Machine

/-! ### CRC-32C (R303) -/

/-- One bit of the CRC, and `n` of them. -/
def crcBits (c : Nat) : Nat → Nat
  | 0 => c
  | n + 1 => crcBits (if c % 2 = 1 then c / 2 ^^^ 0x82F63B78 else c / 2) n

/-- CRC-32C of bytes. -/
def crc32c (l : List Byte) : Nat := (l.foldl (fun c b => crcBits (c ^^^ b.toNat) 8) 0xFFFFFFFF) ^^^ 0xFFFFFFFF

/-! ### Heads (R304, R305) -/

/-- POS of a packet. -/
def pktPos (k : Packet) : Nat :=
  if k.kind = 8 then k.posOff % 2 ^ 22
  else if k.kind = 9 ∨ k.kind = 10 then
    k.posChan % 64 + k.posSeq % 2 ^ 14 * 2 ^ 8 + k.posLevel % 16 * 2 ^ 22 + k.posLeft % 1024 * 2 ^ 26 + k.posOff % 2 ^ 24 * 2 ^ 36
  else 0

/-- Descriptors packed by 16 bits. -/
def packDesc (l : List Desc) : Nat := l.foldr (fun d n => d.toNat + 65536 * n) 0

/-- The head bytes from 0x20 on, by kind (R305). -/
def pktTail (k : Packet) : Nat :=
  let gang := k.gang % 65536
  match k.kind with
  | 1 => k.wfl % 256 + gang * 2 ^ 32 + packDesc k.desc % 2 ^ 64 * 2 ^ 64
  | 2 => gang * 2 ^ 32
  | 4 => k.atop % 256 + gang * 2 ^ 32
  | 7 => k.nkind % 256
  | 8 => k.chan % 65536 + k.score % 65536 * 2 ^ 16 + k.dcore % 65536 * 2 ^ 32 + gang * 2 ^ 96
  | 9 | 10 =>
    k.share % 65536 + k.opc % 256 * 2 ^ 16 + k.top % 256 * 2 ^ 24 + k.count % 2 ^ 32 * 2 ^ 32 + k.rows % 65536 * 2 ^ 64
      + k.root % 65536 * 2 ^ 80 + gang * 2 ^ 96 + k.gsz % 65536 * 2 ^ 112
  | 11 =>
    k.msg % 256 + k.row % 256 * 2 ^ 8 + k.attempt % 65536 * 2 ^ 16 + k.round % 2 ^ 32 * 2 ^ 32 + k.coord % 65536 * 2 ^ 64
      + k.reason % 65536 * 2 ^ 80 + k.argq % 2 ^ 64 * 2 ^ 128
  | _ => 0

/-- ADDR of a packet; in the answer to a read, which needs no address, the descriptors of its blocks (log entry 13). -/
def pktAddr (k : Packet) : Nat := if k.kind = 3 then packDesc k.desc else k.addr

/-- The head body of a packet as a number. -/
def pktHead (k : Packet) : Nat :=
  k.drank % 65536 + k.srank % 65536 * 2 ^ 16 + k.part % 256 * 2 ^ 32 + k.kind % 256 * 2 ^ 40
    + k.payload.length % 65536 * 2 ^ 48 + pktAddr k % 2 ^ 64 * 2 ^ 64 + k.arg.toNat * 2 ^ 128 + k.tag % 2 ^ 32 * 2 ^ 160
    + pktPos k * 2 ^ 192 + pktTail k * 2 ^ 256

/-- Descriptors of `n` blocks from their packed form. -/
def unpackDesc (w : Nat) (n : Nat) : List Desc := (List.range n).map fun i => BitVec.ofNat 16 (w / 65536 ^ i)

/-- A packet from its head and payload. -/
def packetOf (h : Nat) (payload : List Byte) : Packet :=
  let f := fun (o n : Nat) => bits h (8 * o + n - 1) (8 * o)
  let pos := f 0x18 64
  let kind := f 5 8
  let base : Packet :=
    { drank := f 0 10, srank := f 2 10, part := f 4 8 % 8, kind, addr := f 8 64, arg := BitVec.ofNat 32 (f 0x10 32), tag := f 0x14 32, payload }
  match kind with
  | 1 =>
    let dh := bit (f 0x20 8) 1
    { base with wfl := f 0x20 8, gang := f 0x24 16, desc := if dh then unpackDesc (f 0x28 64) ((payload.length + 63) / 64) else [] }
  | 2 => { base with gang := f 0x24 16 }
  | 3 => { base with addr := 0, desc := unpackDesc (f 8 64) ((payload.length + 63) / 64) }
  | 4 => { base with atop := f 0x20 8, gang := f 0x24 16 }
  | 7 => { base with nkind := f 0x20 8 }
  | 8 => { base with posOff := bits pos 21 0, chan := f 0x20 6, score := f 0x22 10, dcore := f 0x24 10, gang := f 0x2C 16 }
  | 9 | 10 =>
    { base with posChan := bits pos 5 0, posSeq := bits pos 21 8, posLevel := bits pos 25 22, posLeft := bits pos 35 26,
                posOff := bits pos 59 36, share := f 0x20 10, opc := f 0x22 8, top := f 0x23 8, count := f 0x24 32, rows := f 0x28 16,
                root := f 0x2A 10, gang := f 0x2C 16, gsz := f 0x2E 16 }
  | 11 =>
    { base with msg := f 0x20 8, row := f 0x21 8, attempt := f 0x22 16, round := f 0x24 32, coord := f 0x28 16, reason := f 0x2A 16,
                argq := f 0x30 64 }
  | _ => base

/-! ### Flits (R303) -/

/-- The low half of a flit's header. -/
def flitHdr (seq vc : Nat) (gen head tail : Bool) (n : Nat) : Nat :=
  seq % 65536 * 2 ^ 16 + vc % 128 * 2 ^ 9 + b2n gen * 2 ^ 8 + b2n head * 2 ^ 7 + b2n tail * 2 ^ 6 + (n + 63) % 64

/-- A flit with its CRC. -/
def mkFlit (body : List Byte) (h : Nat) : Flit :=
  { body, hdr := BitVec.ofNat 64 (crc32c (body ++ leBytes h 4) * 2 ^ 32 + h) }

/-- The bodies of a packet's payload flits: 64 bytes each, filled up with zeros, with the bytes that each holds. -/
def payloadFlits (l : List Byte) : List (List Byte × Nat) :=
  (List.range ((l.length + 63) / 64)).map fun i =>
    let part := (l.drop (64 * i)).take 64
    (part ++ List.replicate (64 - part.length) 0, part.length)

/-- The bodies of a packet's flits with their header low halves. -/
def rawFlits (k : Packet) (seq vc : Nat) (gen : Bool) : List (List Byte × Nat) :=
  let ps := payloadFlits k.payload
  (leBytes (pktHead k) 64, flitHdr seq vc gen true ps.isEmpty 64) ::
    (ps.zip (List.range ps.length)).map fun e => (e.1.1, flitHdr seq vc gen false (e.2 + 1 = ps.length) e.1.2)

/-- The flits of a packet. -/
def flitsOf (k : Packet) (seq vc : Nat) (gen : Bool) : List Flit := (rawFlits k seq vc gen).map fun e => mkFlit e.1 e.2

/-- Fields of a flit's header. -/
def flitSeq (f : Flit) : Nat := bits f.hdr.toNat 31 16
def flitVc (f : Flit) : Nat := bits f.hdr.toNat 15 9
def flitGen (f : Flit) : Bool := bit f.hdr.toNat 8

/-- Whether a flit arrived whole: 64 bytes, a good CRC, a valid VC (R303). -/
def flitGood (f : Flit) : Bool :=
  f.body.length = 64 && flitVc f ≤ 65 && bits f.hdr.toNat 63 32 = crc32c (f.body ++ leBytes (f.hdr.toNat % 2 ^ 32) 4)

/-- Whether the flags of a packet's flits agree with its LEN: HEAD on the first alone, TAIL on the last alone, and BYTES the bytes
that each holds (R303, R304). -/
def flagsOk (len : Nat) (h : Flit) (l : List Flit) : Bool :=
  let low := fun (f : Flit) => f.hdr.toNat % 256
  low h = 0x80 + (if l = [] then 0x40 else 0) + 63
    && (l.zip (List.range l.length)).all fun e =>
      low e.1 = (if e.2 + 1 = l.length then 0x40 else 0) + (Nat.min 64 (len - 64 * e.2) + 63) % 64

/-- The packet of whole flits, the first of them the head; none where HEAD, TAIL, BYTES and LEN do not agree. -/
def parsePacket : List Flit → Option Packet
  | [] => none
  | h :: l =>
    let len := bits (leNat h.body) 63 48
    let pay := (l.flatMap (·.body)).take len
    if (len + 63) / 64 = l.length ∧ len ≤ 256 ∧ flagsOk len h l then some (packetOf (leNat h.body) pay) else none

/-! ### Link control (R307, R308) -/

/-- The flit of VC 64 that carries ACK or NAK of a number. The spec lays out its header; byte 0 of the body is 1 for NAK (log entry
68). -/
def ctlFlit (nak : Bool) (n : Nat) : Flit :=
  mkFlit ((if nak then 1 else 0) :: List.replicate 63 0) (flitHdr n 64 false true true 64)

/-- Whether a flit of VC 64 is a NAK. -/
def isNakFlit (f : Flit) : Bool := f.body.headD 0 = 1

end Sys2Proof.Machine
end

