-- ==== Sys2Proof/Machine/Switch.lean ====
section
/-! DEFINITION. The package switch (R306, R311, R317): packets from the endpoint and the links, routing, reduction slots,
the counts of a gang's packets (R342) and their capture into its kennel (R344, R345). -/

namespace Sys2Proof.Machine

/-! ### Whose packet it is -/

/-- Whether a packet is pod control, or its refusal: no context's. -/
def podControl (k : Packet) : Bool := k.kind = 11 || (k.kind = 7 && k.nkind = 11)

/-- The context of this package that a packet belongs to: by the gang id that it carries, in the tag of an answer (log entry 132), or,
for what refuses a packet that the home of a combination here sent, by the slot in its tag. -/
def State.pktSlot (s : State) (k : Packet) : Option Nat :=
  if podControl k then none
  else if vcClass k.kind ≠ 1 then (s.gangCtx k.part k.gang).map (·.slot)
  else if k.tag < 2 ^ 31 then (s.gangCtx k.part (bits k.tag 30 15)).map (·.slot)
  else match s.ctxDesc k.part (bits k.tag 25 20) with
    | some d => if s.podId d d.rank = k.drank then some d.slot else none
    | none => none

/-- Counts a packet that passes the endpoint to or from the switch (R342); pod control is not counted. -/
def State.countSent (s : State) (k : Packet) : State :=
  match s.pktSlot k with
  | some c => s.updCtx k.part c fun x => { x with sent := x.sent + 1 }
  | none => s
def State.countRecv (s : State) (k : Packet) : State :=
  match s.pktSlot k with
  | some c => s.updCtx k.part c fun x => { x with recv := x.recv + 1 }
  | none => s

/-- The credits of a packet's place in a switch input go back to the link it came on (R306). -/
def State.freed (s : State) (t : TxPkt) : State :=
  if t.port < 8 then s.emit (.vcCredit t.port t.vcIn (pktFlits t.pkt)) else s

/-! ### The endpoint's buffers (R306) -/

/-- Whether the endpoint's buffer of 32 flits for a packet's VC takes it: what never left the package needs none. -/
def State.endRoom (s : State) (t : TxPkt) : Bool :=
  8 ≤ t.port
    || ((s.pkg.inq.filter fun u => u.vc = t.vc && u.port < 8 && !u.held).foldl (fun n u => n + pktFlits u.pkt) 0) + pktFlits t.pkt ≤ 32

/-- A packet reaches the endpoint's queue from the switch: its place in the switch is free once the endpoint's buffer takes it. -/
def State.toEndpoint (s : State) (t : TxPkt) : State :=
  let late := s.pkg.inq.any (fun u => u.vc = t.vc && u.held) || !s.endRoom t
  (if late then s else s.freed t).updPkg fun g => { g with inq := g.inq ++ [{ t with held := late }] }

/-- Packets of a VC that still stand in the switch move into the endpoint's buffer while it has room, `n` of them at most. -/
def State.moveIn (s : State) (vc : Nat) : Nat → State
  | 0 => s
  | n + 1 =>
    match s.pkg.inq.find? (fun u => u.vc = vc && u.held) with
    | some u =>
      if s.endRoom u then
        ((s.freed u).updPkg fun g => { g with inq := lmapIf (· = u) (fun (u : TxPkt) => { u with held := false }) g.inq }).moveIn vc n
      else s
    | none => s

/-! ### The kennel (R344, R345) -/

/-- The bytes of a kennel record. -/
def kennelRecord (t : TxPkt) (wher : Nat) : List Byte :=
  let fs := rawFlits t.pkt 0 t.vcIn t.gen
  let hdrs := (List.range 5).flatMap fun i => leBytes (match fs[i]? with | some f => f.2 | none => 0) 8
  let body := fs.flatMap (·.1)
  leBytes fs.length 1 ++ leBytes wher 1 ++ leBytes t.port 1 ++ leBytes t.vcIn 1 ++ leBytes 0 4 ++ hdrs ++ leBytes 0 16
    ++ body ++ List.replicate (320 - body.length) 0

/-- Whether packets of a context are being captured (R339, R344). -/
def State.capturing (s : State) (p slot : Nat) : Bool :=
  let v := (s.getPart p).vote
  match s.ctxDesc p slot with
  | some d => v.pst = .captured && v.g = d.gang
  | none => false

/-- Sends a packet of the participant to the coordinator through `send`. -/
def voteReply (v : Vote) (p msg : Nat) : Packet :=
  match v.id with
  | some i => { drank := i.coord, srank := v.me, part := p, kind := 11, msg, row := i.row, attempt := i.attempt, round := i.round, coord := i.coord }
  | none => { kind := 11, part := p, msg }

/-- Writes a packet to the kennel of a context (R344): whether it had room, and the state. `count` says that it counts as
received, which a packet of the endpoint queue has been already; `place` that it leaves a place in a switch input. -/
def State.capture (s : State) (p slot : Nat) (t : TxPkt) (wher : Nat) (count place : Bool) : Bool × State :=
  match s.ctxDesc p slot with
  | none => (false, s)
  | some d =>
    let n := s.hbmLe d.kennel 4
    if d.kennel = 0 ∨ d.ksize * 4096 < 64 + 384 * (n + 1) then (false, s)
    else
      let s1 := s.updPkg fun k =>
        { k with hbm := { k.hbm with
          mem := lePut (bytesPut k.hbm.mem (d.kennel + 64 + 384 * n) (kennelRecord t wher)) d.kennel (n + 1) 4 } }
      let s2 := s1.updPart p fun q => { q with vote := { q.vote with kpkt := q.vote.kpkt + 1 } }
      let s3 := if count then s2.updCtx p slot fun x => { x with recv := x.recv + 1 } else s2
      (true, if place then s3.freed t else s3)

/-! ### Routing (R311) -/

/-- A negative acknowledgement of a packet (R305). -/
def nakOf (k : Packet) (sub : Nat) : Packet :=
  { drank := k.srank, srank := k.drank, part := k.part, kind := 7, nkind := k.kind, arg := w32 sub, tag := k.tag, gang := k.gang }

/-- The routing entry of a destination in the bank of a generation: port, and the change of HI. -/
def State.routeOf (s : State) (gen : Bool) (dest : Nat) : Option (Nat × Nat) :=
  let e := sget 0x000F (if gen then s.pkg.regs.route1 else s.pkg.regs.route0) dest
  if 64 ≤ e ∨ bits e 5 4 = 3 ∨ 8 < e % 16 then none else some (e % 16, bits e 5 4)

/-- The VC of a packet after the change of HI on leaving a switch. -/
def applyHi (vc sel : Nat) : Nat :=
  if 64 ≤ vc then vc else if sel = 1 then vc / 2 * 2 + 1 else if sel = 2 then vc / 2 * 2 else vc

/-- Sends a packet on: to a link's sender or to this package's endpoint. One that cannot be routed is dropped and refused with
NOROUTE at its source, but for a refusal itself (R311). `n` is 2 for a packet, 1 for
a refusal on its way back. -/
def State.forward (s : State) (t : TxPkt) : Nat → State
  | 0 => s
  | n + 1 =>
    match s.routeOf t.gen (t.pkt.drank % 1024) with
    | none =>
      let s1 := s.freed t
      if t.pkt.kind = 7 then s1
      else
        let k := nakOf t.pkt 0x0D
        s1.forward { vc := vcOf k 0, gen := s.pkg.regs.rgen, pkt := k, vcIn := vcOf k 0 } n
    | some (port, sel) =>
      if port = 8 then (s.countRecv t.pkt).toEndpoint t
      else s.updLink port fun l => { l with sendq := l.sendq ++ [{ t with vc := applyHi t.vc sel }] }

/-! ### Reduction slots (R317) -/

/-- The channel of a collective (R194). -/
def Cmd.chan (c : Cmd) : Nat := bits (c.w 5) 13 8

/-- The tag of a packet that the home of a combination sends: it names the collective, for a refusal to reach its command (R311). -/
def collTag (slot : Nat) (p : Packet) : Nat := 2 ^ 31 + p.posChan % 64 + p.posSeq % 2 ^ 14 * 64 + slot % 64 * 2 ^ 20

/-- Whether a command is the collective of a number on a channel of a context. -/
def Cmd.inColl (c : Cmd) (part slot chan seq : Nat) : Bool :=
  isColl c.instr && c.task.part = part && c.task.slot = slot && c.chan = chan && c.chn % 2 ^ 14 = seq && !c.stopped

/-- A place of a home's reduction buffer that the contribution of a rank took is free again (R315): for this package's own command,
or to tell the rank's package. What a home has sent on takes no place against a rank's credit (log entry 45). -/
def State.placeBack (s : State) (d : CtxDesc) (p : Packet) : State :=
  let own := s.podId d d.rank
  if p.posLevel ≠ 0 then s
  else if p.srank = own then
    s.updPkg fun k => { k with cmds := lmapIf (·.inColl p.part d.slot p.posChan p.posSeq) (fun (c : Cmd) => { c with lent := c.lent - 1 }) k.cmds }
  else s.emit (.homeCredit p.srank p.part p.gang p.posChan p.posSeq)

/-- Two siblings combined at the switch: the result on its way to the home of its next combination. Of two operands with one POS the one
whose SRANK is the package of the left rank is the left one; the result has that SRANK (DESIGN CHOICE, log entry 129). -/
def State.switchComb (s : State) (d : CtxDesc) (a b : TxPkt) : TxPkt :=
  let p := a.pkt
  let me := s.podId d p.posLeft
  let v := if p.srank = me then combPay p p.payload b.pkt.payload else combPay p b.pkt.payload p.payload
  let q := { upLevel p v with srank := me }
  let k := { q with drank := s.podId d q.posLeft, tag := collTag d.slot q }
  { vc := vcOf k 0, gen := s.pkg.regs.rgen, pkt := k, vcIn := vcOf k 0 }

/-- Reduction slots of a partition that are free. -/
def State.slotFree (s : State) (p : Nat) : Bool :=
  (s.pkg.rslots.countP fun r => r.tx.pkt.part = p) < sget 8 s.pkg.regs.rshare p && s.pkg.rslots.length < 64

/-- A contribution passes the switch: it meets its sibling, takes a slot, or goes on (R317). Whether it takes a free slot is
left open (log entry 3); a part of a row goes on to its home. -/
def State.contribIn (s : State) (t : TxPkt) : State :=
  match s.gangCtx t.pkt.part t.pkt.gang with
  | none => s.forward t 2
  | some d =>
    match s.pkg.rslots.find? (fun r => r.tx.pkt.part = t.pkt.part && siblings r.tx.pkt t.pkt && collDiff r.tx.pkt t.pkt = 0) with
    | some r =>
      (((s.freed t).updPkg fun g => { g with rslots := g.rslots.filter (· ≠ r) }).placeBack d t.pkt |>.placeBack d r.tx.pkt).forward
        (s.switchComb d t r.tx) 2
    | none =>
      if s.slotFree t.pkt.part && !isRoot t.pkt && !lacksRight t.pkt && !isPart t.pkt then
        let s1 := { s with choice := s.choice + 1 }
        if Config.pick s.choice 2 % 2 = 1 then
          (s1.freed t).updPkg fun g => { g with rslots := g.rslots ++ [{ tx := t, since := g.time }] }
        else s1.forward t 2
      else s.forward t 2

/-! ### Arrival at the switch -/

/-- Whether a packet needs an answer (R304). -/
def needsAnswer (k : Packet) : Bool := k.kind = 1 || k.kind = 2 || k.kind = 4 || k.kind = 9

/-- REQ of the error log for a request of another rank's package (R358). -/
def reqRank (pod : Nat) : Nat := 4 * 2 ^ 28 + pod % 2 ^ 28

/-- A refused request of another rank in its partition's error log (R358); R359 lists no cause for it, and the entry has that of a
recorded fault (DESIGN CHOICE, log entry 133). -/
def State.logRefused (s : State) (k : Packet) (sub : Nat) : State := s.logErr k.part k.addr (reqRank k.srank) 0x10 (sub * 256 + 0x0A)

/-- Drops a packet of a partition that is torn down; one that needs an answer is refused with DSTGONE, and its place is given
back (R352 step 3). -/
def State.dropPkt (s : State) (t : TxPkt) : State :=
  let s1 := s.freed t
  if needsAnswer t.pkt && t.port < 8 then
    let k := nakOf t.pkt 0x0B
    (s1.logRefused t.pkt 0x0B).forward { vc := vcOf k 0, gen := s.pkg.regs.rgen, pkt := k, vcIn := vcOf k 0 } 2
  else s1

/-- A packet for the package switch stands at the hub until the buffer of its VC at the switch's local input has room (R306). -/
def State.toHub (s : State) (k : Packet) (own : Nat) : State := s.updPkg fun g => { g with hubq := g.hubq ++ [(k, own)] }

/-- A packet of a partition that has been torn down is dropped on arrival (R352). A packet of the gang that stops is captured, and stays
in the switch where the kennel has no room (R344); any other goes its way. -/
def State.switchIn (s : State) (t : TxPkt) : State :=
  let on := if t.pkt.kind = 9 then s.contribIn t else s.forward t 2
  if podControl t.pkt then s.forward t 2
  else if (s.getPart t.pkt.part).torn && t.port < 8 then s.dropPkt t
  else
    match s.pktSlot t.pkt with
    | none => on
    | some slot =>
      if s.capturing t.pkt.part slot then
        let r := s.capture t.pkt.part slot t 0 true true
        if r.1 then r.2
        else
          let v := (s.getPart t.pkt.part).vote
          let s1 := (s.updPart t.pkt.part fun q => { q with vote := { q.vote with kfull := true } }).updPkg fun g => { g with swq := g.swq ++ [t] }
          let k := voteReply v t.pkt.part 10
          if v.kfull then s1 else if k.drank = v.me then s1.toSelf k else s1.toHub k v.me
      else on

/-! ### The switch's local input (R306) -/

/-- Whether the package switch is ready (R367). -/
def State.switchReady (s : State) : Bool := s.pkg.regs.funcready.contains (32 * 32 + 21)

/-- Whether the buffer of 32 flits at the switch's local input takes a packet: what stands there waits for a link, or for the end of a
capture. -/
def State.hubFree (s : State) (k : Packet) : Bool :=
  let vc := vcOf k 0
  let mine := fun (l : List TxPkt) => (l.filter fun t => t.port = 8 && t.vcIn = vc).foldl (fun n t => n + pktFlits t.pkt) 0
  s.switchReady && (List.range 8).foldl (fun n l => n + mine (s.getLink l).sendq) (mine s.pkg.swq) + pktFlits k ≤ 32

/-- Whether the hub passes a packet on at once: no packet of its VC waits there. -/
def State.hubRoom (s : State) (k : Packet) : Bool := !(s.pkg.hubq.any fun e => vcOf e.1 0 = vcOf k 0) && s.hubFree k

/-- A packet enters the package switch from this package's endpoint, and is counted. -/
def State.enterSwitch (s : State) (k : Packet) : State :=
  (s.countSent k).switchIn { vc := vcOf k 0, gen := s.pkg.regs.rgen, pkt := k, vcIn := vcOf k 0 }

/-- A packet from this package's endpoint: it stays inside, passes to the switch, or waits at the hub for room there. -/
def State.endpoint (s : State) (k : Packet) (own : Nat) : State :=
  if k.drank = own then s.toSelf k
  else if s.hubRoom k then s.enterSwitch k
  else s.toHub k own

/-- The packet at the hub that passes next: the first whose VC has room and that no packet of its VC precedes. -/
def State.hubNext (s : State) : Option Nat :=
  (List.range s.pkg.hubq.length).find? fun j =>
    match s.pkg.hubq[j]? with
    | some e => s.hubFree e.1 && !(s.pkg.hubq.take j).any fun x => vcOf x.1 0 = vcOf e.1 0
    | none => false

/-! ### Old generations (R312) -/

/-- Packets of the old generation that this package's switch holds. -/
def State.oldHeld (s : State) : Nat :=
  let f := fun (l : List TxPkt) => l.countP fun t => t.gen ≠ s.pkg.regs.rgen
  (List.range 8).foldl (fun n l => n + f (s.getLink l).sendq) (f (s.pkg.rslots.map (·.tx)) + f (s.pkg.inq.filter (·.held)) + f s.pkg.swq)

/-- Reports the package's count of old packets to the pod controller. -/
def State.sendOld (s : State) (me dest n : Nat) : State :=
  s.endpoint { drank := dest, srank := me, kind := 11, msg := 17, argq := n } me

/-- The report that is due: the count is no longer the one last told (log entry 73). -/
def State.oldDue (s : State) : Option (Instr × Stim) :=
  if s.pkg.regs.oldTo.isSome ∧ s.oldHeld ≠ s.pkg.regs.oldTold then some (.oldGenerationCount, { n := 1 }) else none

end Sys2Proof.Machine
end

