-- ==== Sys2Proof/Machine/Collect.lean ====
section
/-! DEFINITION. Collectives (R194 to R198, R314 to R320): their checks at start, the packets a rank sends, combining by the
canonical tree, and writing results. -/

namespace Sys2Proof.Machine

/-! ### Fields (R194, R305) -/

def Cmd.count (c : Cmd) : Nat := c.w 4
def Cmd.cty (c : Cmd) : Nat := bits (c.w 5) 3 0
def Cmd.cop (c : Cmd) : Nat := bits (c.w 5) 7 4
def Cmd.norm (c : Cmd) : Bool := bit (c.w 5) 14
def Cmd.root (c : Cmd) : Nat := c.w 6 % 1024
def Cmd.mrows (c : Cmd) : Nat := c.w 7
def Cmd.msstr (c : Cmd) : Nat := c.w 8
def Cmd.mdstr (c : Cmd) : Nat := c.w 9
/-- Bytes of an element. -/
def Cmd.ewidth (c : Cmd) : Nat := if c.cty = 2 then 2 else 4

/-- OP6 of a collective (R195); 0 for any other operation. -/
def collOp : Instr → Nat
  | .xar .. => 0x0A
  | .xrs .. => 0x0B
  | .xag .. => 0x0C
  | .xbc .. => 0x0D
  | .xmrg .. => 0x0E
  | .xred .. => 0x0F
  | .xbar .. => 0x10
  | _ => 0

def Cmd.opc (c : Cmd) : Nat := collOp c.instr

/-! ### Checks at start (R187, R194, R314) -/

/-- SHAPE of a collective. -/
def Cmd.badColl (c : Cmd) (gsz : Nat) : Bool :=
  let o := c.opc
  let mrg := o = 0x0E
  let d := c.count
  131072 ≤ c.w 5 || 3 < c.cty || 4 < c.cop || (c.cty = 3 && c.cop ≠ 0)
    || (if o = 0x0A ∨ o = 0x0B ∨ o = 0x0F then c.cop = 0 || c.cop = 4 else if mrg then c.cop ≠ 4 || c.cty ≠ 0 else c.cop ≠ 0)
    || (c.norm && !mrg)
    || (if o = 0x0D ∨ o = 0x0F then gsz ≤ c.w 6 || 1024 ≤ c.w 6 else c.w 6 ≠ 0)
    || (if o = 0x10 then c.src ≠ 0 || c.dst ≠ 0 || d ≠ 0 || bits (c.w 5) 16 15 ≠ 0
        else if mrg then
          d = 0 || 64 < d || c.mrows = 0 || 65535 < c.mrows || c.msstr < 4 * (d + 2)
            || c.mdstr < (if c.norm then 4 * d else 4 * (d + 2))
        else d = 0 || 2 ^ 24 ≤ d)
    || (!mrg && (c.mrows ≠ 0 || c.msstr ≠ 0 || c.mdstr ≠ 0))
    || c.arg1 ≠ 0
    || 8 ≤ c.sigctl || (c.signals && c.sigop = 3) || (!c.signals && (c.sig ≠ 0 || c.sigval ≠ 0 || c.sigctl ≠ 0))

/-- CHAN: undeclared, not collective, of another type or operation, or outside the group at issue. -/
def Cmd.badChan (c : Cmd) (e : ChanEnt) : Bool := e.kind ≠ 3 || e.ty ≠ c.cty || e.op ≠ c.cop || !c.member

/-- The local operands of a collective on a rank: SRC and DST. -/
def Cmd.collLocals (c : Cmd) (rank : Nat) : List Nat :=
  if c.opc = 0x10 then [] else (if c.opc = 0x0D ∧ rank ≠ c.root then [] else [c.src]) ++ [c.dst]

/-- SPADR of a collective: the source or destination whose run passes the end of the scratchpad. -/
def Cmd.collSpadr (c : Cmd) (rank gsz : Nat) : Option Nat :=
  let n := c.count * c.ewidth
  let rows := fun (a str k : Nat) => (List.range c.mrows).any fun r => passesEnd (wrapVa ((gaVa a : Int) + r * str)) k
  let src := if c.opc = 0x0E then rows c.src c.msstr (4 * (c.count + 2))
    else passesEnd (gaVa c.src) (if c.opc = 0x0B then gsz * n else n)
  let dst := if c.opc = 0x0E then rows c.dst c.mdstr (if c.norm then 4 * c.count else 4 * (c.count + 2))
    else passesEnd (gaVa c.dst) (if c.opc = 0x0C then gsz * n else n)
  if (c.collLocals rank).contains c.src ∧ src then some c.src
  else if c.opc ≠ 0x10 ∧ dst then some c.dst else none

/-- The first failing check of a collective at start, as subcause and address (R187). -/
def Cmd.collFault (c : Cmd) (rank gsz : Nat) (e : ChanEnt) : Option (Nat × Nat) :=
  let loc := c.collLocals rank
  let sig := if c.signals then [c.sig] else []
  if c.badColl gsz then some (9, 0)
  else if c.badChan e then some (0x0C, 0)
  else
    match loc.find? (fun a => bits a 53 48 ≠ 0 || gaRank a ≠ rank), sig.find? (Cmd.badRank rank gsz []) with
    | some a, _ => some (4, a)
    | none, some a => some (4, a)
    | none, none =>
      match sig.find? (fun a => gaRank a ≠ rank && gaVa a < spadEnd) with
      | some a => some (5, a)
      | none =>
        match c.collSpadr rank gsz with
        | some a => some (6, a)
        | none =>
          ((loc.map (fun a => (a, a)) ++ [(c.msstr, 0), (c.mdstr, 0)] ++ sig.map (fun a => (a, a))).find?
            fun (e : Nat × Nat) => e.1 % 4 ≠ 0).map fun (e : Nat × Nat) => (7, e.2)

/-! ### The packets a rank sends

A step with `n` = 0 sends the header by which collectives without a reduction are matched (R320, log entry 15). -/

/-- Elements of one packet, which carries up to 256 bytes (R316). -/
def Cmd.perPkt (c : Cmd) : Nat := 256 / c.ewidth

/-- Whether the shape of a collective is matched by headers alone: no reduction. -/
def gated (opc : Nat) : Bool := opc = 0x0C || opc = 0x0D || opc = 0x10

/-- The first step of a collective. -/
def collFirst : Option Seg := some ⟨0, 0, 0, 0⟩

/-- The step that begins at a place on a rank, and where the next one begins. -/
def Cmd.collStepAt (c : Cmd) (rank gsz : Nat) (k : Seg) : Seg × Option Seg :=
  if gated c.opc && k.n = 0 then
    (k, if c.opc = 0x0C ∨ (c.opc = 0x0D ∧ rank = c.root) then some { k with n := 1 } else none)
  else if c.opc = 0x0E then
    let top := (k.row + 1) * (c.count + 2)
    let n := Nat.min c.perPkt (top - k.pos)
    ({ k with n := n },
      if k.pos + n < top then some { k with pos := k.pos + n, n := 1 }
      else if k.row + 1 < c.mrows then some ⟨0, k.row + 1, top, 1⟩ else none)
  else
    let n := Nat.min c.perPkt (c.count - k.pos)
    ({ k with n := n },
      if k.pos + n < c.count then some { k with pos := k.pos + n, n := 1 }
      else if c.opc = 0x0B ∧ k.plane + 1 < gsz then some ⟨k.plane + 1, 0, 0, 1⟩ else none)

/-- The head of a collective's packets (R304, R305). -/
def Cmd.collPkt (c : Cmd) (d : CtxDesc) (k : Seg) : Packet :=
  { srank := 0, part := c.task.part, kind := 9, posChan := c.chan, posSeq := c.chn % 2 ^ 14, posOff := k.pos, share := k.plane,
    opc := c.opc, top := c.cty + 16 * c.cop + 128 * b2n c.norm, count := c.count, rows := c.mrows, root := c.root,
    gsz := d.gangsz, gang := d.gang }

/-- The VA of a step's source. -/
def Cmd.collSrc (c : Cmd) (k : Seg) : Nat :=
  (gaVa c.src + (if c.opc = 0x0E then k.row * c.msstr + (k.pos - k.row * (c.count + 2)) * 4
    else ((if c.opc = 0x0B then k.plane * c.count else 0) + k.pos) * c.ewidth)) % 2 ^ 48

/-- The element index of a byte of a step's source (R187, R221). -/
def Cmd.elemNo (c : Cmd) (k : Seg) (off : Nat) : Nat :=
  (if c.opc = 0x0B then k.plane * c.count else 0) + k.pos + off / c.ewidth

/-- Sends a packet of a collective to a rank; a refusal comes back to the command (R305). -/
def State.collSend (s : State) (c : Cmd) (d : CtxDesc) (rank : Nat) (k : Packet) : State :=
  let own := s.podId d d.rank
  let tag := s.newTag c.task.part d.gang
  ((s.exportTs c.task.part c.pts).updPkg fun g =>
    { g with tagNo := g.tagNo + 1, rem := g.rem ++ [{ tag, core := c.own, tid := c.tid, addr := 0, kind := .contrib c.ref, acc := {}, part := c.task.part, slot := d.slot }] }).inject
    c.own { k with drank := s.podId d rank, srank := own, tag } own

/-! ### Reading and writing runs of bytes -/

/-- The bytes of words, `skip` of them left out, `n` taken. -/
def wordBytes (ws : List Word) (skip n : Nat) : List Byte := ((ws.flatMap fun w => leBytes w.toNat 4).drop skip).take n

/-- The bytes of a source run, or why there are none. -/
inductive Fetched where
  | got (l : List Byte) (s : State)
  | wait (s : State)
  | bad (off sub : Nat) (s : State)
  | hole (pa : Nat)

/-- Reads `n` bytes of a local run (R183, R187). -/
def State.collRead (s : State) (c : Cmd) (d : CtxDesc) (va n : Nat) : Fetched :=
  let base := va / 4 * 4
  let r := s.placeRun c d base (wordOffs (n + va % 4))
  match r.1 with
  | .hole pa => .hole pa
  | .bad o e => .bad (o - va % 4) e r.2
  | .at_ ps =>
    let t := r.2.touchPlaces c.task.part c.task.slot ps
    if !t.1 then .wait t.2
    else
      match (ps.zip (wordOffs (n + va % 4))).find? (fun e => t.2.engBadAt c.sswz e.1) with
      | some e => .bad (e.2 - va % 4) 0x0A t.2
      | none =>
        let x := t.2.engLoads c d.asid c.sswz base ps
        .got (wordBytes x.1 (va % 4) n) x.2

/-- A run cut at word boundaries: the offset of each piece and its length. -/
def pieces (va n : Nat) : List (Nat × Nat) :=
  (List.range ((va + n + 3) / 4 - va / 4)).map fun k =>
    let a := Nat.max va (4 * (va / 4 + k))
    (a - va, Nat.min (va + n) (4 * (va / 4 + k) + 4) - a)

/-- Writes the pieces of a run; FE follows the data of whole words (R182). -/
def State.collStores (s : State) (c : Cmd) (asid va : Nat) (data : List Byte) : List (Place × Nat × Nat) → State
  | [] => s
  | (p, o, n) :: l =>
    let q := p.plus ((va + o) % 4)
    let s1 := s.engStoreAt c.who c.own asid ((va + o) % 2 ^ 48) c.dswz q (leNat ((data.drop o).take n)) n
    let s2 := if c.fe && n = 4 then s1.engFull c.dswz q else s1
    let s3 := if (va + o) % 64 = 0 ∧ 64 ≤ data.length - o then s2.engSeal c.own asid ((va + o) % 2 ^ 48) c.dswz q none else s2
    s3.collStores c asid va data l

/-- Writes bytes to a run of the destination. -/
def State.collPut (s : State) (c : Cmd) (d : CtxDesc) (va : Nat) (data : List Byte) : Stepped :=
  let r := s.placeRun c d (va / 4 * 4) (wordOffs (data.length + va % 4))
  match r.1 with
  | .hole pa => .hole pa
  | .bad o e => .bad (o - va % 4) e (onRank c.dst (va / 4 * 4 + o)) r.2
  | .at_ ps =>
    if ps.any Place.readOnly then .bad 0 2 (onRank c.dst va) r.2
    else
      let t := r.2.touchPlaces c.task.part c.task.slot ps
      if !t.1 then .wait t.2
      else .made ((t.2.collStores c d.asid va data (ps.zip (pieces va data.length))).sink c.task.part c.task.slot)

/-! ### A step of a collective -/

/-- The rank whose package is the home of the first combination of a rank's contribution (R316). -/
def firstHome (rank : Nat) : Nat := rank / 2 * 2

/-- Whether a collective may send a contribution: a place of the home's reservation for it is free (R315). The parts of a row must
meet there (log entry 45). -/
def State.hasPlace (s : State) (c : Cmd) : Bool :=
  let n := (s.chanEnt c.task.part c.task.slot c.chan).count
  c.lent < if c.opc = 0x0E ∧ 62 < c.count then Nat.max 2 n else n

/-- Sends a contribution to its first home against a place there (R315). -/
def State.collGive (s : State) (c : Cmd) (d : CtxDesc) (k : Packet) : State :=
  (s.collSend c d (firstHome d.rank) { k with posLeft := firstHome d.rank }).updCmd c.tid c.ref fun m => { m with lent := m.lent + 1 }

/-- Sends the data of a step: to the first home, or with no reduction to every rank as a result. -/
def State.collOut (s : State) (c : Cmd) (d : CtxDesc) (k : Seg) (data : List Byte) : State :=
  let p := c.collPkt d k
  if gated c.opc then
    (List.range d.gangsz).foldl (fun s r => s.collSend c d r { p with kind := 10, payload := data }) s
  else s.collGive c d { p with payload := data }

/-- One block step of a collective; a contribution waits for a place at its home. -/
def State.collStep (s : State) (c : Cmd) (d : CtxDesc) (k : Seg) : Stepped :=
  if (!gated c.opc || k.n = 0) && !s.hasPlace c then .wait s
  else if gated c.opc && k.n = 0 then .made (s.collGive c d (c.collPkt d k))
  else
    let va := c.collSrc k
    match s.collRead c d va (k.n * c.ewidth) with
    | .hole pa => .hole pa
    | .wait s1 => .wait s1
    | .bad o e s1 => .bad o e (onRank c.src ((va + o) % 2 ^ 48)) s1
    | .got l s1 => .made (s1.collOut c d k l)

/-! ### At the home -/

/-- The ranks that the root's result goes to, with the header alone for the ranks of `xred` that receive nothing
(R316, log entry 15). -/
def resultRanks (p : Packet) : List (Nat × Bool) :=
  if p.opc = 0x0F then
    ((List.range p.gsz).filter fun r => r = p.root || p.posOff = 0).map fun r => (r, r = p.root)
  else if p.opc = 0x0B then [(p.share, true)]
  else (List.range p.gsz).map fun r => (r, true)

/-- A packet from the home of a combination, in as many packets as it takes (R316); a collective's names it in its tag. -/
def State.sendPlain (s : State) (d : CtxDesc) (rank : Nat) (k : Packet) : State :=
  let own := s.podId d d.rank
  let k1 := { k with drank := s.podId d rank, srank := own, tag := if k.kind = 11 then 0 else collTag d.slot k }
  (inPackets k1).foldl (fun s k => s.endpoint k own) s

/-- The root's result goes out. -/
def State.sendResults (s : State) (d : CtxDesc) (p : Packet) : State :=
  (resultRanks p).foldl (fun s r =>
    s.sendPlain d r.1 { p with kind := 10, posLevel := 0, posLeft := 0, payload := if r.2 then p.payload else [] }) s

/-- The places that a contribution took at its home are free (R315). -/
def State.placesBack (s : State) (d : CtxDesc) (p : Packet) : State := (inPackets p).foldl (fun s k => s.placeBack d k) s

/-- A mismatch notice to every rank of the gang (R320). -/
def State.sendNotices (s : State) (d : CtxDesc) (p : Packet) (sub : Nat) : State :=
  (List.range d.gangsz).foldl (fun s r =>
    s.sendPlain d r { part := p.part, kind := 11, msg := 19, argq := p.posChan + p.posSeq * 2 ^ 8 + sub * 2 ^ 24 + p.gang * 2 ^ 32 }) s

/-- An operand waits at its home, unless it differs from another of its collective (R320). -/
def State.holdOperand (s : State) (part : Nat) (d : CtxDesc) (p : Packet) : State :=
  match (s.getCtx part d.slot).holds.find? (fun h => sameColl h.pkt p && collDiff h.pkt p ≠ 0) with
  | some h =>
    (s.updCtx part d.slot fun x => { x with holds := x.holds.filter fun h => !sameColl h.pkt p }).sendNotices d p (collDiff h.pkt p)
  | none => s.updCtx part d.slot fun x => { x with holds := x.holds ++ [⟨p⟩] }

/-- A contribution at its home (R316, R320): the parts of a row meet; without a right child it goes on as it is; it waits for its
sibling, or is combined with it. `n` bounds the levels. -/
def State.contribute (s : State) (part : Nat) (d : CtxDesc) (p : Packet) : Nat → State
  | 0 => s
  | n + 1 =>
    let gone := (s.getCtx part d.slot).ended.any fun e => e.1 = p.posChan && e.2.1 = p.posSeq
    if isPart p then
      if gone then s
      else match (s.getCtx part d.slot).holds.find? (fun h => otherPart p h.pkt) with
        | some h => (s.updCtx part d.slot fun x => { x with holds := x.holds.filter (· ≠ h) }).contribute part d (joinParts p h.pkt) n
        | none => s.holdOperand part d p
    else if isRoot p then (s.placesBack d p).sendResults d p
    else
      let on := fun (s : State) (v : List Byte) =>
        let q := { upLevel p v with srank := s.podId d d.rank }
        if q.posLeft = d.rank ∨ isRoot q then s.contribute part d q n else s.sendPlain d q.posLeft q
      if lacksRight p then on (s.placesBack d p) p.payload
      else if gone then s
      else
        match (s.getCtx part d.slot).holds.find? (fun h => collDiff h.pkt p = 0 && siblings h.pkt p) with
        | none => s.holdOperand part d p
        | some h =>
          let left := decide (p.srank = s.podId d d.rank)
          let v := if left then combPay p p.payload h.pkt.payload else combPay p h.pkt.payload p.payload
          on (((s.updCtx part d.slot fun x => { x with holds := x.holds.filter (· ≠ h) }).placesBack d p).placesBack d h.pkt) v

/-! ### Results -/

/-- Whether a packet belongs to a started collective. -/
def Cmd.isFor (c : Cmd) (part slot : Nat) (p : Packet) : Bool := c.inColl part slot p.posChan p.posSeq

/-- Whether a result is one of what a command asked for: the fields that R196 compares agree (R320). -/
def Cmd.agrees (c : Cmd) (d : CtxDesc) (p : Packet) : Bool := collDiff (c.collPkt d ⟨0, 0, 0, 0⟩) p = 0

/-- Whether a collective must be matched by headers before its results are written on a rank. -/
def Cmd.needsGate (c : Cmd) (rank : Nat) : Bool := gated c.opc || (c.opc = 0x0F && rank ≠ c.root)

/-- The bytes of results that a collective takes on a rank. -/
def Cmd.want (c : Cmd) (rank gsz : Nat) : Nat :=
  match c.opc with
  | 0x0C => gsz * c.count * c.ewidth
  | 0x0E => c.mrows * (4 * (c.count + 2))
  | 0x0F => if rank = c.root then c.count * c.ewidth else 0
  | 0x10 => 0
  | _ => c.count * c.ewidth

/-- The least rank from `r` on that a package holds. -/
def rankFrom (s : State) (d : CtxDesc) (pod : Nat) : Nat → Nat → Nat
  | r, 0 => r
  | r, n + 1 => if s.podId d r = pod then r else rankFrom s d pod (r + 1) n
def State.rankOf (s : State) (d : CtxDesc) (pod : Nat) : Nat := rankFrom s d pod 0 d.gangsz

/-- Where a result is written and its bytes, with whether its row has a NaN m. -/
def State.resultAt (s : State) (c : Cmd) (d : CtxDesc) (p : Packet) : Nat × List Byte × Bool :=
  if c.opc = 0x0E then
    let row := bytesWords p.payload
    let out := normRow c.norm row
    ((gaVa c.dst + p.posOff / (c.count + 2) * c.mdstr) % 2 ^ 48, leBytes (wordsNat out) (4 * out.length), (f32 (row.headD 0)).isNan)
  else
    let k := (if c.opc = 0x0C then s.rankOf d p.srank * c.count else 0) + p.posOff
    ((gaVa c.dst + k * c.ewidth) % 2 ^ 48, p.payload, false)

/-- A result waiting at a context is taken by its command (R195): the header that matches it, or data to write. -/
def State.takeResult (s : State) (c : Cmd) (d : CtxDesc) (p : Packet) : Stepped :=
  let drop := fun (s : State) => s.updCtx c.task.part c.task.slot fun x => { x with results := x.results.erase p }
  if p.payload = [] then .made ((drop s).updCmd c.tid c.ref fun m => { m with gate := true, pts := Nat.max m.pts (s.importTs c.task.part) })
  else
    let r := s.resultAt c d p
    match s.collPut c d r.1 r.2.1 with
    | .made s1 => .made ((drop s1).updCmd c.tid c.ref fun m =>
        { m with got := m.got + p.payload.length, nv := m.nv || r.2.2, pts := Nat.max m.pts (s1.importTs c.task.part) })
    | .bad o e v s1 => .bad o e v (drop s1)
    | x => x

/-- The words of DST of which FE must wait for two results, or that a result ends in (R182). -/
def Cmd.ragged (c : Cmd) (gsz : Nat) : List Nat :=
  let n := c.count * c.ewidth
  if c.ewidth = 4 then []
  else (((List.range (if c.opc = 0x0C then gsz else 1)).map fun j => (j + 1) * n).filter (· % 4 ≠ 0)).map fun o => (gaVa c.dst + o) / 4 * 4

/-- Sets those words full. -/
def State.fullRagged (s : State) (c : Cmd) (d : CtxDesc) : State :=
  if !c.fe ∨ c.want d.rank d.gangsz = 0 then s
  else (c.ragged d.gangsz).foldl (fun s va =>
    match (s.reach (c.own / 256) c.task.part d (some c.own) va).1 with
    | .found p => s.engFull c.dswz p
    | _ => s) s

end Sys2Proof.Machine
end

