-- ==== Sys2Proof/Machine/Commands.lean ====
section
/-! DEFINITION. The copy engine at work (R179 to R182, R187 to R189): which command it starts, work stealing, block steps,
signals and completion. -/

namespace Sys2Proof.Machine

/-! ### Which commands may start -/

/-- Whether the queued accesses issued before a command have been performed (R251). -/
def State.accessesDone (s : State) (c : Cmd) : Bool := s.performedTo c.own c.tid c.after

/-- Whether a collective's channel admits it, and its predecessors there have started (R180, R196). -/
def State.channelFree (s : State) (c : Cmd) (buf : List Cmd) : Bool :=
  let same := fun (m : Cmd) => isColl m.instr && m.task.ctx = c.task.ctx && m.chan = c.chan
  s.pkg.cmds.countP same < (s.chanEnt c.task.part c.task.slot c.chan).depth && !buf.any fun m => same m && m.ref < c.ref

/-- Whether a command of a core's buffer is startable (R180). -/
def State.startable (s : State) (c : Cmd) (buf : List Cmd) : Bool :=
  let earlier := fun (m : Cmd) => m.tid = c.tid && m.ref < c.ref
  !c.dropped && c.ahead s.pkg.time ≤ 0 && s.accessesDone c
    && (!c.ord || (!buf.any earlier && !s.pkg.cmds.any earlier))
    && (!isColl c.instr || s.channelFree c buf)
    && (!isCsig c.instr || (!buf.any (fun m => earlier m && m.tok = c.tok) && !s.pkg.cmds.any (fun m => earlier m && m.tok = c.tok)))

/-- The buffer of a core in its order (R179). -/
def State.buffer (s : State) (core : Nat) : List Cmd :=
  sortBy (fun a b => a.ahead s.pkg.time < b.ahead s.pkg.time) (s.getCore core).th.cbuf

/-- Whether the commands of a core may start: it runs a task that has not stopped. -/
def Core.starts (c : Core) : Bool := c.phase = .run || c.phase = .ending

/-- The first command of a core that satisfies a test and may start. -/
def State.firstStart (s : State) (core : Nat) (ok : Cmd → Bool) : Option Cmd :=
  let b := s.buffer core
  if (s.getCore core).starts && !s.paused core && !s.shrinking core then b.find? fun c => ok c && s.startable c b else none

/-- Whether a core's engine moves the blocks of a command (R180). -/
def State.engineBusy (s : State) (core : Nat) : Bool :=
  s.pkg.cmds.any fun m => m.eng = some core && (m.cur.isSome || m.next ≠ [])

/-! ### Starting (R180, R187) -/

/-- The steps of a command with the 32 that may be in flight at hand (R180). -/
def Cmd.refill (c : Cmd) (rank gsz : Nat) : Nat → Cmd
  | 0 => c
  | n + 1 =>
    match c.cur with
    | none => c
    | some k =>
      let r := if isColl c.instr then c.collStepAt rank gsz k else c.stepAt rank k
      { c with next := c.next ++ [r.1], cur := r.2 }.refill rank gsz n

/-- Takes a command out of its buffer. -/
def State.unbuffer (s : State) (c : Cmd) : State :=
  s.updThread c.tid fun t => { t with cbuf := t.cbuf.filter (·.ref ≠ c.ref) }

/-- The index list of a command, read at its start (R185): none while its region is exchanged, else its words or a
poisoned address. -/
def State.indexList (s : State) (c : Cmd) : Option (Except Nat (List Word)) × State :=
  if !(isCgat c.instr || isCsct c.instr) ∨ c.rows = 0 ∨ c.rowlen = 0 then (some (.ok []), s)
  else
    let a := gaVa c.arg1
    let ps : List Place := (List.range c.rows).map fun k => .spad c.own (a + 4 * k)
    let t := s.touchPlaces c.task.part c.task.slot ps
    if !t.1 then (none, t.2)
    else
      match ps.find? (t.2.engBadAt false) with
      | some p => (some (.error p.addr), t.2)
      | none => let r := t.2.engLoads c 0 false a ps; (some (.ok r.1), r.2)

/-- The timestamp that a command's steps start from: the issuer's at the fork, or where queued accesses were outstanding then, the one
that these have reached (R249, R251). -/
def State.forkOf (s : State) (c : Cmd) : Nat := if c.behind then Nat.max c.pts (s.ptsOf c.tid) else c.pts

/-- The index list read as a step of the command, from its fork: what has been read, the timestamp reached, and the state (R249). -/
def State.readIndex (s : State) (c : Cmd) : Option (Except Nat (List Word)) × Nat × State :=
  let at_ := s.forkOf c
  let r := (s.updPkg fun k => { k with cmds := { c with fork := at_, pts := at_ } :: k.cmds }).indexList c
  (r.1, match r.2.findCmd c.tid c.ref with | some m => m.pts | none => at_,
    r.2.updPkg fun k => { k with cmds := k.cmds.filter fun m => !(m.tid = c.tid && m.ref = c.ref) })

/-- Whether an ended collective is kept in mind: numbers far behind a command's, which will come round again, are not. -/
def Cmd.keepsEnd (c : Cmd) (e : Nat × Nat × Nat) : Bool :=
  let back := (c.chn + 2 ^ 14 - e.2.1) % 2 ^ 14
  e.1 ≠ c.chan || !(2 ^ 12 ≤ back && back < 2 ^ 13)

/-- Puts a command on an engine with its first steps, which start from its fork; `pts` is the timestamp that it has reached. -/
def State.startOn (s : State) (c : Cmd) (d : CtxDesc) (eng pts : Nat) (idx : List Word) : State :=
  let at_ := s.forkOf c
  let c0 : Cmd := { c with eng := some eng, idx, pts := Nat.max at_ pts, fork := at_ }
  let c1 := { c0 with cur := if isColl c.instr then collFirst else c0.first }
  let s1 := (s.unbuffer c).updPkg fun k => { k with cmds := k.cmds ++ [c1.refill d.rank d.gangsz 32] }
  if isColl c.instr then s1.updCtx c.task.part c.task.slot fun x => { x with ended := x.ended.filter (c.keepsEnd ·) } else s1

/-- Starts a command of a core's buffer on an engine (R180, R187). A mismatch already reported ends it (R320). -/
def State.startCmd (s : State) (c : Cmd) (eng : Nat) : State :=
  match s.cmdCtx c with
  | none => (s.unbuffer c).failCmd c 0x0A 1 0 0
  | some d =>
    let e := s.chanEnt c.task.part c.task.slot c.chan
    match if isColl c.instr then c.collFault d.rank d.gangsz e else c.startFault d.rank d.gangsz with
    | some (sub, a) => (s.unbuffer c).failCmd c 0x0A sub a 0
    | none =>
      let x := s.getCtx c.task.part c.task.slot
      match if isColl c.instr then x.ended.find? (fun e => e.1 = c.chan && e.2.1 = c.chn % 2 ^ 14) else none with
      | some e => (s.unbuffer c).failCmd c 0x0D e.2.2 0 0
      | none =>
        match s.readIndex c with
        | (none, _, s1) => s1
        | (some (.error a), _, s1) => (s1.unbuffer c).failCmd c 0x0A 0x0A a 0
        | (some (.ok idx), pts, s1) => s1.startOn c d eng pts idx

/-- `COMMAND_START` (R180): the engine of a core starts the first startable command of its buffer. -/
def execCommandStart (s : State) : Res :=
  if s.engineBusy s.ev.c then .next s
  else
    match s.firstStart s.ev.c fun _ => true with
    | some c => .next (s.startCmd c s.ev.c)
    | none => .next s

/-- The cores of a steal group in the order in which a core scans them (R2, R188). -/
def stealOrder (core : Nat) : List Nat := (List.range 3).map fun k => core / 4 * 4 + (core % 4 + 1 + k) % 4

/-- Whether a command may be stolen by a core (R188). -/
def State.stealable (s : State) (thief : Nat) (c : Cmd) : Bool :=
  !c.nosteal && !isCwb c.instr && !isCsig c.instr && !isColl c.instr && (s.getCore thief).phase ≠ .idle
    && (s.getCore thief).th.task.ctx = c.task.ctx

/-- The command that an idle engine takes (R188). -/
def State.stealPick (s : State) (thief : Nat) : Option Cmd :=
  if s.engineBusy thief || (s.firstStart thief fun _ => true).isSome then none
  else (stealOrder thief).findSome? fun v => s.firstStart v (s.stealable thief)

/-- `WORK_STEAL` (R188): the idle engine of a core starts a command of its steal group, on its owner's behalf. -/
def execWorkSteal (s : State) : Res :=
  match s.stealPick s.ev.c with
  | some c => .next (s.startCmd c s.ev.c)
  | none => .next s

/-! ### Block steps (R187) -/

/-- The step of a command has been made: it leaves the steps at hand. -/
def State.stepMade (s : State) (c : Cmd) (d : CtxDesc) (j : Nat) : State :=
  s.updCmd c.tid c.ref fun m => { m with next := ldel m.next j }.refill d.rank d.gangsz 1

/-- `COMMAND_BLOCK_STEP` (R182, R187): step `j` of those at hand of command `k` of task number `w` is made. A command of a
task that has folded or ended stops instead (R189). -/
def execCommandBlockStep (s : State) : Res :=
  match s.findCmd s.ev.w s.ev.k with
  | none => .next s
  | some c =>
    if s.paused c.own then .next s
    else if c.stopped then .next (s.dropCmd c)
    else
      match c.next[s.ev.j]?, s.cmdCtx c with
      | some k, some d =>
        let no := fun o => if isColl c.instr then c.elemNo k o else c.stepNo k o
        match if isColl c.instr then s.collStep c d k else s.copyStep c d k with
        | .made s1 => .next (s1.stepMade c d s.ev.j)
        | .wait s1 => .next s1
        | .bad o sub a s1 => .next (s1.failCmd c 0x0A sub a (no o))
        | .hole pa => .fault (.noSuchPhysicalAddress pa)
      | some _, none => .next (s.failCmd c 0x0A 1 0 0)
      | none, _ => .next s

/-! ### Completion (R181, R182) -/

/-- Whether a command has made every write: no step is left and no answer awaited, and a collective has its results. -/
def State.written (s : State) (c : Cmd) : Bool :=
  c.cur.isNone && c.next = [] && c.wait = 0
    && (!isColl c.instr || match s.cmdCtx c with
      | some d => c.want d.rank d.gangsz ≤ c.got && (!c.needsGate d.rank || c.gate)
      | none => true)

/-- A row with a NaN m sets NV of the issuing core (R198). -/
def State.flagNv (s : State) (c : Cmd) : State :=
  if c.nv then s.updThread c.tid fun t => { t with csr := { t.csr with vflags := t.csr.vflags ||| fNV } } else s

/-- A command that has made every write performs its signal from the largest timestamp that its steps reached (R249). -/
def State.lastStep (s : State) (c : Cmd) : State := s.updCmd c.tid c.ref fun m => { m with fork := Nat.max m.fork m.pts }

/-- `COMMAND_COMPLETE` (R181): command `k` of task number `w` makes its signal, here or at the signal's rank, and completes. -/
def execCommandComplete (s : State) : Res :=
  match s.findCmd s.ev.w s.ev.k with
  | none => .next s
  | some c =>
    if s.paused c.own || !s.written c then .next s
    else if c.stopped then .next (s.dropCmd c)
    else
      match s.cmdCtx c with
      | none => .next (s.dropCmd c)
      | some d =>
        let s1 := if isColl c.instr then s.fullRagged c d else s
        if !c.signals || c.held || c.signalled then .next ((s1.flagNv c).dropCmd c)
        else if gaRank c.sig = d.rank then
          match (s1.lastStep c).signalAt c.who c.own c.task d (gaVa c.sig) c.sigval c.sigop with
          | .made s2 => .next ((s2.flagNv c).dropCmd c)
          | .wait s2 => .next s2
          | .bad _ sub _ s2 => .next (s2.failCmd c 0x0A sub c.sig 0)
          | .hole pa => .fault (.noSuchPhysicalAddress pa)
        else
          .next ((s1.cmdSend c d c.sig (.signal c.ref) {} (signalPkt c.sigval c.sigop)).updCmd c.tid c.ref fun m => { m with signalled := true })

/-! ### What may happen -/

/-- The steps of those at hand that may be made now: any, but that packets to another rank leave in element order, those of a
collective among them (R180, R325). -/
def State.stepsOf (s : State) (m : Cmd) : List Nat :=
  let far := match s.cmdCtx m with
    | some d => isColl m.instr || (usesDst m.instr && gaRank m.dst ≠ d.rank)
    | none => false
  if far then List.range (Nat.min 1 m.next.length) else List.range m.next.length

/-- Whether the steps of a command send packets to other ranks. -/
def State.sendsFar (s : State) (m : Cmd) : Bool :=
  isColl m.instr || match s.cmdCtx m with
    | some d => (usesDst m.instr && gaRank m.dst ≠ d.rank) || gaRank m.src ≠ d.rank
    | none => false

/-- The steps of commands that may happen now. -/
def State.commandSteps (s : State) : List (Instr × Stim) :=
  (s.allCores.flatMap fun c =>
    (if !s.engineBusy c.num && (s.firstStart c.num fun _ => true).isSome then [((.commandStart, { c := c.num }) : Instr × Stim)] else [])
    ++ if (s.stealPick c.num).isSome then [(.workSteal, { c := c.num })] else [])
  ++ s.pkg.cmds.flatMap fun m =>
    if s.paused m.own then []
    else if m.stopped then [((.commandBlockStep, { w := m.tid, k := m.ref }) : Instr × Stim)]
    else (if s.sendsFar m && s.engineWaits m.own then [] else s.stepsOf m).map (fun j => (.commandBlockStep, { w := m.tid, k := m.ref, j }))
      ++ if s.written m then [(.commandComplete, { w := m.tid, k := m.ref })] else []

end Sys2Proof.Machine
end

