-- ==== Sys2Proof/Machine/Control.lean ====
section
/-! DEFINITION. Control transfer, loops, CSRs, trap and return, waits, groups, the running task, snapshots, the tag table,
predicates and time: majors XB and XS (R80 to R102), and the two header bits (R10, R11, R257). -/

namespace Sys2Proof.Machine

/-! ### Control transfer -/

/-- The image of the running task (R266, R366). -/
def State.myImage (s : State) : Option Image :=
  (s.images s.core.th.task.part).find? (·.id = s.core.th.task.image)

/-- The length of the text of the running task's image (R9). -/
def State.textLen (s : State) : Nat := match s.myImage with | some i => i.textLen | none => 0

/-- The checks of a taken transfer (R82). -/
def State.targetTrap (s : State) (t : Word) : Option Trap :=
  if t.toNat % 16 ≠ 0 then some (mkTrap 7 0 t) else if s.textLen ≤ t.toNat then some (mkTrap 8 1 t) else none

/-- Transfers control; `bubble` cycles issue nothing first (R83). -/
def State.jump (s : State) (t : Word) (bubble : Nat) : State :=
  (s.updTh fun h => { h with pc := t, bubble := bubble }).mark .jumped

/-- The target of a transfer relative to the pc (R17). -/
def State.relTarget (s : State) (o : Int) : Word := s.core.th.pc + wInt (o * 16)

/-- A branch that is taken when its condition holds, after a check of its own (R80, R81). -/
def branch (i : Instr) (o : Int) (own : Opnds → Option Trap) (taken : Opnds → Bool) (s : State) : Res :=
  present i s
    { needs := [.a]
      chk := fun p s => match own p with
        | some t => some t
        | none => if taken p then s.targetTrap (s.relTarget o) else none
      eff := fun p s => .next (if taken p then s.jump (s.relTarget o) 2 else s) }

/-- NONUNIFORM: neither all ones nor all zeros (R81). -/
def nonUniform (a : Nat) (p : PReg) : Option Trap := if p = 0 ∨ p = -1 then none else some (mkTrap 5 a (lo32 p))

/-- `br`: taken when P(A) is all ones (R80, R81). -/
def execBr (g a : Nat) (o : Int) (s : State) : Res :=
  branch (.br g a o) o (fun p => nonUniform a p.pa) (fun p => p.pa = -1) s

/-- `brn`: taken when P(A) is all zeros (R80, R81). -/
def execBrn (g a : Nat) (o : Int) (s : State) : Res :=
  branch (.brn g a o) o (fun p => nonUniform a p.pa) (fun p => p.pa = 0) s

/-- `bz` (R80). -/
def execBz (g a : Nat) (o : Int) (s : State) : Res := branch (.bz g a o) o (fun _ => none) (fun p => p.xa = 0) s

/-- `bnz` (R80). -/
def execBnz (g a : Nat) (o : Int) (s : State) : Res := branch (.bnz g a o) o (fun _ => none) (fun p => p.xa ≠ 0) s

/-- `jmp` (R80). -/
def execJmp (g : Nat) (o : Int) (s : State) : Res := branch (.jmp g o) o (fun _ => none) (fun _ => true) s

/-- A transfer that is always taken, to a target read from its operands, with or without a link (R80). -/
def transfer (i : Instr) (link : Bool) (target : Opnds → State → Word) (s : State) : Res :=
  present i s
    { needs := [.a]
      chk := fun p s => s.targetTrap (target p s)
      eff := fun p s => .next ((if link then s.putX 1 1 (s.core.th.pc + 16) else s).jump (target p s) 2) }

/-- `call`: X(1) := PC + 16 (R80). -/
def execCall (g : Nat) (o : Int) (s : State) : Res := transfer (.call g o) true (fun _ s => s.relTarget o) s

/-- `jr` (R17, R80). -/
def execJr (g a : Nat) (o : Int) (s : State) : Res := transfer (.jr g a o) false (fun p _ => p.xa + wInt (o * 16)) s

/-- `calr` (R17, R80). -/
def execCalr (g a : Nat) (o : Int) (s : State) : Res := transfer (.calr g a o) true (fun p _ => p.xa + wInt (o * 16)) s

/-- Whether `brlc` is taken (R85). -/
def Thread.loopOn (t : Thread) : Bool := 0 < t.csr.lc.toNat || 1 < t.csr.ec.toNat

/-- The writes of `brlc` (R85): p64 is named through the rotated bases. -/
def State.loopStep (s : State) : State :=
  let c := s.core.th.csr
  let rot := rotRrb c.rrb
  let s1 := s.putCsr csrRRB .write rot
  if 0 < c.lc.toNat then (s1.putCsr csrLC .write (c.lc - 1)).result 1 0 (.p (physP rot 64) (-1) (-1))
  else if 1 < c.ec.toNat then (s1.putCsr csrEC .write (c.ec - 1)).result 1 0 (.p (physP rot 64) 0 (-1))
  else s1.putCsr csrEC .write 0

/-- `brlc` (R85); a target 0 to 63 bundles back costs no bubble (R83). -/
def execBrlc (g : Nat) (o : Int) (s : State) : Res :=
  present (.brlc g o) s
    { chk := fun _ s => if s.core.th.loopOn then s.targetTrap (s.relTarget o) else none
      eff := fun _ s => .next
        (if s.core.th.loopOn then s.loopStep.jump (s.relTarget o) (if -63 ≤ o ∧ o ≤ 0 then 0 else 2) else s.loopStep) }

/-- `loops`: LC := X(A), EC := ec (R84). -/
def execLoops (g a e : Nat) (s : State) : Res :=
  present (.loops g a e) s
    { eff := fun p s => .next ((s.putCsr csrLC .write p.xa).putCsr csrEC .write (w32 e)) }

/-! ### CSRs -/

/-- `csrr`: X(D) := CSR, sampled at issue (R87). -/
def execCsrr (g d c : Nat) (s : State) : Res :=
  present (.csrr g d c) s { eff := fun _ s => .next (s.putX 2 d (s.early (.csrr g d c)).val) }

/-- `csrw` (R87). -/
def execCsrw (g d c : Nat) (s : State) : Res :=
  present (.csrw g d c) s { eff := fun p s => .next (s.putCsr c .write p.xd) }

/-- `csrs` (R87). -/
def execCsrs (g d c : Nat) (s : State) : Res :=
  present (.csrs g d c) s { eff := fun p s => .next (s.putCsr c .set p.xd) }

/-- `csrc` (R87). -/
def execCsrc (g d c : Nat) (s : State) : Res :=
  present (.csrc g d c) s { eff := fun p s => .next (s.putCsr c .clear p.xd) }

/-! ### Trap and return -/

/-- `trap`: TRAPI with the code and X(D), after its bundle (R90). -/
def execTrap (g d k : Nat) (s : State) : Res :=
  present (.trap g d k) s
    { eff := fun p s => .next ((s.takeTrap (mkTrap 0x0C k p.xd) false (s.core.th.pc + 16) 1).mark .jumped) }

/-- The task ends and the launch's status becomes RESIZED (R350, R351). -/
def State.endResized (s : State) : State :=
  let t := s.core.th.task
  ((s.updLaunch t.part t.slot fun l => l.raise 4).leaveAll.dropWork).updCore fun c => { c with phase := .released }

/-- The core named by ESCR for a relocation (R351): valid in the core map, a core of the partition and no removed one, running no
task. -/
def State.newHome (s : State) : Option Nat :=
  let t := s.core.th
  let e := t.csr.escr.toNat
  if bit e 31 then
    match s.taskCtx t.task with
    | none => none
    | some d =>
      match s.physCore d (e % 1024) with
      | none => none
      | some c => let q := s.getPart t.task.part
        if !q.cores.contains c || q.shrink.contains c || (s.getCore c).phase ≠ .idle then none else some c
  else none

/-- Moves the running task of a removed core to another core, with its regions and its engine work (R351); what is registered on a word
of a moved region goes with it (R140). -/
def State.relocate (s : State) (dst : Nat) : State :=
  let src := s.core.num
  let t := s.core.th
  let tid := t.tid
  let moved := s.core.ownedBy t.task.part t.task.slot
  let s1 := moved.foldl (fun s r => s.moveRegion src dst t.task.part t.task.slot r) s
  let s1 := s1.flushL1 src fun _ => true
  let me := s1.core
  let own : QAcc → QAcc := fun q => match q.place with
    | .spad c o => if c = src && q.va < spadEnd then { q with place := .spad dst o } else q
    | .mem .. => q
  let mine : Cmd → Cmd := fun m => { m with own := dst, eng := if m.eng = some src then some dst else m.eng }
  let s2 := s1.updCoreN dst fun c =>
    { c with phase := .run, th := { me.th with core := dst, cbuf := me.th.cbuf.map mine },
             qacc := c.qacc ++ (me.qacc.filter (·.tid = tid)).map own, qack := c.qack ++ me.qack.filter (· = tid) }
  let reg : Waiter → Waiter := fun w =>
    { w with core := if w.acc.tid = tid then dst else w.core
             acc := { w.acc with place := match w.acc.place with
               | .spad c o => if c = src && moved.contains (spadRegion o) then .spad dst o else .spad c o
               | .mem a b => .mem a b } }
  let s3 : State := s2.updPkg fun k => { k with cmds := lmapIf (·.tid = tid) mine k.cmds, waiters := k.waiters.map reg }
  s3.updCore fun c =>
    { c with phase := .idle, th := {}, qacc := c.qacc.filter (·.tid ≠ tid), qack := c.qack.filter (· ≠ tid) }

/-- Return from the handler (R91, R219): the record reported is freed, ESTAT cleared, and the task resumes three cycles
on, or ends as faulted with the cause in ECAUSE. On a core that a shrink removes, the task moves or ends (R351). -/
def State.doEret (s : State) : State :=
  let t := s.core.th
  let f := sget {} t.recs (t.reported.getD 8)
  let moving := (s.getPart t.task.part).shrink.contains s.core.num && (if f.valid then f.sub = 0x57 else t.csr.ecause.toNat % 65536 = 0x570A)
  let go := t.csr.estat.getLsbD 0
  let s1 := s.updTh fun t =>
    { t with recs := match t.reported with | some k => sset {} t.recs k {} | none => t.recs
             reported := none, holdCnt := 0, csr := { t.csr with estat := 0 } }
  if moving then
    match go, s1.newHome with
    | true, some c => (s1.resume t.csr.epc 3 .task).relocate c
    | _, _ => s1.endResized
  else if go then s1.resume t.csr.epc 3 .task
  else
    let isRec := t.csr.ecause.getLsbD 31 && t.reported.isSome && f.valid
    (s1.updTh fun t => { t with mode := .task }).endFaulted (t.csr.ecause.toNat % 65536)
      (if isRec then f.baddr.toNat else t.csr.epc.toNat) (if isRec then f.fva.toNat else t.csr.evalw.toNat)

/-- `eret` (R91): it issues when no result and no slip entry of an earlier handler bundle is left (R219). -/
def execEret (g : Nat) (s : State) : Res :=
  present (.eret g) s
    { wait := fun _ s =>
        let n := s.core.env.seq / 4
        if s.core.th.inflight.any (fun l => l.seq / 4 < n) || s.core.th.slips.any (fun e => e.seq / 4 < n) then some s
        else none
      chk := fun _ s => if s.core.th.csr.estat.getLsbD 0 then s.targetTrap s.core.th.csr.epc else none
      eff := fun _ s => .next (s.doEret.mark .jumped) }

/-- `fold`: folds a foldable task, otherwise raises BUDGET with subcause FOLD (R96). -/
def execFold (g : Nat) (s : State) : Res :=
  present (.fold g) s { chk := fun _ _ => some (mkTrap 0x0E 5 0), eff := fun _ s => .next s }

/-! ### Waiting on engines -/

/-- Whether the counters are at or below their thresholds (R92), and whether no selected token is outstanding (R93); an operation of
an earlier bundle that has slipped counts too. -/
def State.waitOver (s : State) (ql qs cp tl : Nat) : Bool :=
  (ql = 31 || s.core.th.ql + s.heldOf 1 ≤ ql) && (qs = 31 || s.qs + s.heldOf 2 ≤ qs) && (cp = 63 || s.cp + s.heldOf 3 ≤ cp)
    && (tl = 3 || s.core.th.tl + s.heldOf 4 ≤ tl)
def State.tokensClear (s : State) (m : Nat) : Bool := (List.range 8).all fun i => !bit m i || s.tok i + s.heldTok i = 0

/-- `wait`: held until every counter is at or below its threshold; the all-ones value does not wait (R16, R92). -/
def execWait (g ql qs cp tl : Nat) (s : State) : Res :=
  present (.wait g ql qs cp tl) s
    { wait := fun _ s => if s.waitOver ql qs cp tl then none else some s
      eff := fun _ s => .next s }

/-- `twait`: held until no command that names a selected token is outstanding (R93). -/
def execTwait (g m : Nat) (s : State) : Res :=
  present (.twait g m) s
    { wait := fun _ s => if s.tokensClear m then none else some s
      eff := fun _ s => .next s }

/-! ### Groups -/

/-- The threads of a context: running on a core, or parked (R94, R95). -/
def State.ctxThreads (s : State) (p slot : Nat) : List Thread :=
  ((s.allCores.filter fun c => c.phase ≠ .idle).map (·.th) ++ s.pkg.parked).filter fun t => t.task.part = p && t.task.slot = slot

/-- The members of a group of a context, those of a context that is switched out among them. -/
def State.groupMembers (s : State) (p slot g : Nat) : List Thread :=
  (s.ctxThreads p slot ++ (s.getCtx p slot).saved).filter (·.memberOf g)

/-- The open episode of a group, if any (R95). -/
def Ctx.open (c : Ctx) (g : Nat) : Option Episode := c.episodes.find? (·.grp = g)

/-- An arrival of the running task at a group that it is a member of (R95): alone, it passes at once; otherwise it joins
the open episode or opens one, and waits for the restart. An episode that stands open when its last member passes alone ends. Of
episodes that open in one cycle, that of the lower core takes a line first (DESIGN CHOICE, log entry 124). -/
def State.arrive (s : State) (g : Nat) : State :=
  let t := s.core.th
  let p := t.task.part
  let c := t.task.slot
  let ms := s.groupMembers p c g
  if ms.all (·.tid = t.tid) then
    (s.updTh fun t => { t with waitG := none, arrived := false }).updCtx p c fun x =>
      { x with episodes := x.episodes.filter (·.grp ≠ g) }
  else
    let dies := (ms.map fun m => m.core / 256).eraseDups
    let s1 := s.updTh fun t => { t with waitG := some g, arrived := true }
    s1.updCtx p c fun x =>
      match x.open g with
      | some _ => { x with episodes := lmapIf (·.grp = g) (fun e =>
        { e with arrived := e.arrived ++ [t.tid], pts := Nat.max e.pts t.csr.pts }) x.episodes }
      | none =>
        { x with episodes := x.episodes ++
            [{ grp := g, die := if dies.length ≤ 1 then dies.head? else none, line := none, arrived := [t.tid],
               opened := s.pkg.time * 1024 + s.core.num, pts := t.csr.pts }] }

/-- `gjoin` (R94): an open episode holds the bundle of a task that is not yet a member. -/
def execGjoin (g n : Nat) (s : State) : Res :=
  present (.gjoin g n) s
    { wait := fun _ s =>
        let t := s.core.th.task
        if !s.core.th.csr.gmask.getLsbD n && ((s.getCtx t.part t.slot).open n).isSome then some s else none
      eff := fun _ s => .next (s.result 1 0 (.member n true)) }

/-- `gleave` (R94): for a member, an arrival at the open episode. -/
def execGleave (g n : Nat) (s : State) : Res :=
  present (.gleave g n) s
    { eff := fun _ s =>
        let t := s.core.th
        .next ((s.arrivePts t.task.part t.task.slot t.csr.pts fun k => k = n && t.csr.gmask.getLsbD n).result 1 0 (.member n false)) }

/-- `gsync` (R94, R95): no effect for a task that is not a member. -/
def execGsync (g n : Nat) (s : State) : Res :=
  present (.gsync g n) s
    { eff := fun _ s => .next (if s.core.th.csr.gmask.getLsbD n then s.arrive n else s) }

/-! ### The running task -/

/-- `tdom` (R98). -/
def execTdom (g d k : Nat) (s : State) : Res :=
  present (.tdom g d k) s { eff := fun _ s => .next (s.putX 2 d (s.early (.tdom g d k)).val) }

/-- `tbud` (R98). -/
def execTbud (g d k : Nat) (s : State) : Res :=
  present (.tbud g d k) s { eff := fun _ s => .next (s.putX 2 d (s.early (.tbud g d k)).val) }

/-! ### Snapshots -/

/-- The stopped task of a physical core in a context, or the saved one of its logical core (R99). -/
def State.stoppedOn (s : State) (p slot n l : Nat) : Option Thread :=
  match (s.ctxThreads p slot).find? (fun t => t.core = n && t.snap.isSome) with
  | some t => some t
  | none => (s.getCtx p slot).saved.find? (·.core = l)

/-- The thread whose snapshot an access names: the own one where B names x0 (R99). -/
def State.snapOf (s : State) (b : Nat) (xb : Word) : Except Trap Thread :=
  let t := s.core.th
  if b = 0 then
    match t.mode, t.snap with
    | .handler, some _ => .ok t
    | _, _ => .error (mkTrap 9 2 xb)
  else
    match s.taskCtx t.task with
    | none => .error (mkTrap 9 1 xb)
    | some d =>
      match s.physCore d (xb.toNat % 1024) with
      | none => .error (mkTrap 9 1 xb)
      | some n => match s.stoppedOn t.task.part t.task.slot n (xb.toNat % 1024) with
        | some x => .ok x
        | none => .error (mkTrap 9 2 xb)

/-- A word of a thread's snapshot, with the counters as its engine work stands (R189, R224). -/
def State.snapRead (s : State) (t : Thread) (w : Nat) : Word :=
  match t.snap with
  | none => 0
  | some n =>
    let s1 := { s with core := { (if t.tid = s.core.th.tid then s.core else s.getCore t.core) with th := t } }
    snapWord t n s1.qs s1.cp s1.tok w

/-- The checks of a snapshot access (R99). -/
def snapChk (b : Nat) (p : Opnds) (s : State) : Option Trap :=
  match s.snapOf b p.xb with
  | .ok _ => none
  | .error t => some t

/-- Whether a snapshot access names the snapshot of the core's own task: by x0, or by the number of the core itself (R99). -/
def State.snapOwn (s : State) (b : Nat) (p : Opnds) : Bool :=
  match s.snapOf b p.xb with
  | .ok t => t.tid = s.core.th.tid
  | .error _ => false

/-- `snapr` (R99): a word of another core's snapshot comes after a slip. -/
def execSnapr (g d a b : Nat) (s : State) : Res :=
  present (.snapr g d a b) s
    { needs := [.b]
      chk := snapChk b
      rdy := fun p s => if s.snapOwn b p ∨ s.core.env.served.isSome then none else some 6
      eff := fun p s => .next (match s.snapOf b p.xb with
        | .ok t => s.putX (if s.snapOwn b p then 2 else 1) d (s.snapRead (if s.snapOwn b p then s.thBefore else t) p.xa.toNat)
        | .error _ => s) }

/-- `snapw` (R99): the word is written 2 cycles on. -/
def execSnapw (g d a b : Nat) (s : State) : Res :=
  present (.snapw g d a b) s
    { needs := [.b]
      chk := snapChk b
      eff := fun p s => .next (match s.snapOf b p.xb with
        | .ok t => s.result 2 0 (.snap t.tid p.xa.toNat p.xd)
        | .error _ => s) }

/-! ### The tag table (R100): entry `i` holds its tag plus one, 0 when invalid -/

/-- VA[47:12] of a table operation (R100). -/
def tagOf (p : Opnds) : Nat := (p.xb.toNat % 65536 * 2 ^ 32 + p.xa.toNat) / 4096

/-- The entry that holds a tag. -/
def tagFind (m : Sparse Nat) (t : Nat) : Option Nat :=
  match m.find? (fun e => e.2 = t + 1) with
  | some e => some e.1
  | none => none

/-- An entry number above 255 (R100). -/
def tagRange (p : Opnds) : Option Trap := if 255 < p.xd.toNat then some (mkTrap 6 0x10 p.xd) else none

/-- `tlook` (R100): sees the table as it was before the bundle. -/
def execTlook (g d a b : Nat) (s : State) : Res :=
  present (.tlook g d a b) s
    { eff := fun p s => .next (s.putX 2 d (match tagFind (s.early (.tlook g d a b)).tags (tagOf p) with
        | some i => w32 (i * 4096 + p.xa.toNat % 4096)
        | none => 0xFFFFFFFF)) }

/-- `tins` (R100). -/
def execTins (g d a b : Nat) (s : State) : Res :=
  present (.tins g d a b) s
    { needs := [.d]
      chk := fun p _ => tagRange p
      eff := fun p s => .next (s.updTh fun t =>
        { t with tags := sset 0 (t.tags.filter fun e => e.2 ≠ tagOf p + 1) p.xd.toNat (tagOf p + 1) }) }

/-- `tinv` by address (R100). -/
def execTinvVa (g a b : Nat) (s : State) : Res :=
  present (.tinvVa g a b) s
    { eff := fun p s => .next (s.updTh fun t => { t with tags := t.tags.filter fun e => e.2 ≠ tagOf p + 1 }) }

/-- `tinv` by entry (R100). -/
def execTinvEntry (g d : Nat) (s : State) : Res :=
  present (.tinvEntry g d) s
    { needs := [.d]
      chk := fun p _ => tagRange p
      eff := fun p s => .next (s.updTh fun t => { t with tags := sset 0 t.tags p.xd.toNat 0 }) }

/-! ### Predicates (R101) and time (R102) -/

/-- A predicate result over all 64 bits. -/
def predOp (i : Instr) (d : Nat) (f : Opnds → PReg) (s : State) : Res :=
  present i s { eff := fun p s => .next (s.putP 1 d (f p) (-1) 0) }

/-- `pand` (R101). -/
def execPand (g d a b : Nat) (s : State) : Res := predOp (.pand g d a b) d (fun p => p.pa &&& p.pb) s

/-- `por` (R101). -/
def execPor (g d a b : Nat) (s : State) : Res := predOp (.por g d a b) d (fun p => p.pa ||| p.pb) s

/-- `pxor` (R101). -/
def execPxor (g d a b : Nat) (s : State) : Res := predOp (.pxor g d a b) d (fun p => p.pa ^^^ p.pb) s

/-- `pandn` (R101). -/
def execPandn (g d a b : Nat) (s : State) : Res := predOp (.pandn g d a b) d (fun p => p.pa &&& ~~~p.pb) s

/-- `pnez` (R101). -/
def execPnez (g d a : Nat) (s : State) : Res := predOp (.pnez g d a) d (fun p => if p.xa ≠ 0 then -1 else 0) s

/-- `pput`: one half replaced (R101). -/
def execPput (g d a h : Nat) (s : State) : Res :=
  predOp (.pput g d a h) d (fun p => if h = 0 then setLo p.pd p.xa else setHi p.pd p.xa) s

/-- `pget`: one half (R101). -/
def execPget (g d a h : Nat) (s : State) : Res :=
  alu (.pget g d a h) d 2 (fun p => if h = 0 then lo32 p.pa else hi32 p.pa) s

/-- `pcnt`: set bits (R101). -/
def execPcnt (g d a : Nat) (s : State) : Res := alu (.pcnt g d a) d 2 (fun p => w32 (popFrom p.pa.getLsbD 64)) s

/-- `pfirst`: the lowest set bit, or 64 (R101). -/
def execPfirst (g d a : Nat) (s : State) : Res := alu (.pfirst g d a) d 2 (fun p => w32 (ctzFrom p.pa.getLsbD 0 64)) s

/-- `rtime` (R102): the counter is sampled at issue; selector 1 latches the low word of its sample. -/
def execRtime (g d k : Nat) (s : State) : Res :=
  present (.rtime g d k) s
    { eff := fun _ s =>
        let e := s.early (.rtime g d k)
        let s1 := s.putX 2 d e.val
        .next (if k = 1 then s1.updTh fun t => { t with tlatch := w32 e.time } else s1) }

/-! ### The header (R10, R11, R257) -/

/-- A direct access of an earlier bundle that has not been served holds a VJOIN bundle (R257). -/
def State.joinWait (s : State) : Option State :=
  if s.core.th.slips.any fun e => isDirect e.instr && e.seq / 4 < s.core.env.seq / 4 then some s else none

/-- Whether the engine thread that wrote in a view has not completed: no join orders it yet (R252, R257). -/
def State.unjoined (s : State) (m : Mark) : Bool :=
  match m.by_ with
  | none => false
  | some (tid, n, true) => match s.findThread tid with | some t => t.mq.any (·.seq = n) | none => false
  | some (tid, n, false) => s.pkg.cmds.any fun c => c.tid = tid && c.ref = n

/-- The marks of a scratchpad that a VJOIN of its own core leaves, and those of another scratchpad after it (R257): what the core's own
threads and accesses wrote there is behind the bundle for whoever a chain of order leads to from it; what the threads of another task
wrote, for the accesses of this core. -/
def State.ownMarks (s : State) (l : Sparse (List Mark)) : Sparse (List Mark) :=
  (l.map fun e => (e.1, e.2.filter s.unjoined)).filter fun e => e.2 ≠ []
def State.farMarks (s : State) (core : Nat) (l : Sparse (List Mark)) : Sparse (List Mark) :=
  let mine := fun (m : Mark) => match m.by_ with | none => true | some (tid, _) => tid = s.core.th.tid
  ((l.map fun e => (e.1, (e.2.filter fun m => s.unjoined m || !mine m).map fun m =>
      if s.unjoined m || m.seen.contains core then m else { m with seen := m.seen ++ [core] }))).filter fun e => e.2 ≠ []

/-- Orders the two views (R257, log entry 4): what was written in the running core's scratchpad, by threads that have completed,
is behind this bundle for every core, and so is what the core itself wrote in another scratchpad. -/
def State.joinViews (s : State) : State :=
  let me := s.core.num
  let far := (s.allCores.filter fun c => c.num ≠ me && (c.linOld ≠ [] || c.swzOld ≠ [])).map (·.num)
  let s1 := far.foldl (fun u n => u.updCoreN n fun c =>
    { c with linOld := s.farMarks me c.linOld, swzOld := s.farMarks me c.swzOld }) s
  s1.updCore fun c =>
    { c with linOld := s.ownMarks c.linOld, swzOld := s.ownMarks c.swzOld, th := { c.th with vjq := c.th.qid } }

/-- VJOIN (R10, R257). -/
def execVjoin (s : State) : Res :=
  present .vjoin s { wait := fun _ s => s.joinWait, eff := fun _ s => .next s.joinViews }

/-- END, with or without VJOIN (R11): nothing more is fetched. -/
def execEndB (vj : Bool) (s : State) : Res :=
  present (.endB vj) s
    { wait := fun _ s => if vj then s.joinWait else none
      eff := fun _ s => .next ((if vj then s.joinViews else s).updCore fun c => { c with phase := .ending }) }

end Sys2Proof.Machine
end

