-- ==== Sys2Proof/Machine/Fabric.lean ====
section
/-! DEFINITION. Channel operations, major CN (R190 to R192, R286), and the arrival of messages and credits. -/

namespace Sys2Proof.Machine

/-- A PORTDEAD trap of a channel operation: EVAL is the channel (R190, R216). -/
def chanTrap (ch : Nat) (sub : Nat) : Trap := mkTrap 0x0B sub (w32 ch)

/-- BADBIND: a channel that no port may be bound to (R190). -/
def ChanEnt.unbindable (e : ChanEnt) : Bool := e.kind = 3 || e.ty ≠ 3 || e.count ≠ 1

/-- The checks of `chbind` in their order: UNDECL, BADBIND, and ROLE for a pipe channel in a task outside a bound set (R190, R286). -/
def bindTrap (ch : Nat) (s : State) : Option Trap :=
  let e := s.myChan ch
  if e.kind = 0 then some (chanTrap ch 3) else if e.unbindable then some (chanTrap ch 2)
  else if e.kind = 2 ∧ s.core.th.task.role.isNone then some (chanTrap ch 5)
  else none

/-- `chbind` (R191): in force for the next bundle. -/
def execChbind (g d c : Nat) (s : State) : Res :=
  present (.chbind g d c) s
    { chk := fun _ s => bindTrap c s
      eff := fun _ s => .next (s.result 1 0 (.bind (d - 57) (some c))) }

/-- `chbind` without a channel (R191). -/
def execChbindUnbind (g d : Nat) (s : State) : Res :=
  present (.chbindUnbind g d) s { eff := fun _ s => .next (s.result 1 0 (.bind (d - 57) none)) }

/-- The checks of the message operations in their order: UNDECL, CHKIND, ROLE (R190, R286). -/
def msgTrap (ch : Nat) (send comb : Bool) (s : State) : Option Trap :=
  let e := s.myChan ch
  if e.kind = 0 then some (chanTrap ch 3)
  else if e.kind = 3 ∨ (comb ∧ (e.op = 0 ∨ e.op = 4 ∨ e.ty = 3)) then some (chanTrap ch 4)
  else if s.pipeRole ch send then some (chanTrap ch 5)
  else none

/-- One element of a message as its bytes (R192). -/
def elemBytes (ty : Nat) (w : Word) : List Byte :=
  if ty = 2 then leBytes (encodeBin 8 7 (f32 w)).1 2 else leBytes w.toNat 4

/-- Element `k` of a payload as a lane; BF16 widens exactly, and a NaN becomes the canonical one (R40, R47, R192). -/
def elemLane (e : ChanEnt) (l : List Byte) (k : Nat) : Word :=
  let v := leNat ((l.drop (e.width * k)).take e.width)
  if e.ty = 2 then (rne32 (decodeBin 8 7 v)).1 else w32 v

/-- `csnd` (R192): without a credit it slips; in a foldable task the message is held. -/
def execCsnd (g c a : Nat) (s : State) : Res :=
  present (.csnd g c a) s
    { chk := fun _ s =>
        match msgTrap c true false s with
        | some t => some t
        | none => if s.core.th.task.foldable && s.noHold then some (mkTrap 0x0E 4 0) else none
      rdy := fun _ s => if s.core.th.task.foldable || s.hasCredit c then none else some 5
      eff := fun o s =>
        let e := s.myChan c
        let l := (List.range e.count).flatMap fun k => elemBytes e.ty (lane o.va k)
        .next (if s.core.th.task.foldable then s.hold (.message c l) else s.sendMsg c l) }

/-- A receive slips while no message is there (R192). -/
def noMsg (c : Nat) (_ : Opnds) (s : State) : Option Nat := if (s.headMsg c).isNone then some 5 else none

/-- The payload at the head of a channel. -/
def State.headPay (s : State) (c : Nat) : List Byte := match s.headMsg c with | some m => m.payload | none => []

/-- `crcv` (R192): lanes beyond the message are +0. -/
def execCrcv (g d c : Nat) (s : State) : Res :=
  present (.crcv g d c) s
    { chk := fun _ s => msgTrap c false false s
      rdy := noMsg c
      eff := fun _ s =>
        let e := s.myChan c
        let l := s.headPay c
        .next ((s.dropMsg c).putV 6 d (ofLanes fun k => if k < e.count then elemLane e l k else 0) (-1) 0) }

/-- COMB of `crad` (R186, R192): FP32 for f32 and widened bf16, INT32 for i32. -/
def chanComb (e : ChanEnt) (a b : Word) : Word := comb (if e.ty = 1 then 1 else 0) e.op a b

/-- `crad` (R192). -/
def execCrad (g d c : Nat) (s : State) : Res :=
  present (.crad g d c) s
    { chk := fun _ s => msgTrap c false true s
      rdy := noMsg c
      eff := fun o s =>
        let e := s.myChan c
        let l := s.headPay c
        .next ((s.dropMsg c).putV 10 d
          (ofLanes fun k => if k < e.count then chanComb e (lane o.vd k) (elemLane e l k) else lane o.vd k) (-1) 0) }

/-! ### Messages and credits -/

/-- The packet that a step takes: one that arrives, or with `k` ≠ 0 entry `k` − 1 of the endpoint's queue, whose buffer then has
room for the next (R306). -/
def State.takeIn (s : State) : Option (Packet × State) :=
  if s.ev.k = 0 then some (s.ev.m, s)
  else
    match s.pkg.inq[s.ev.k - 1]? with
    | some t => some (t.pkt, (s.updPkg fun g => { g with inq := ldel g.inq (s.ev.k - 1) }).moveIn t.vc 32)
    | none => none

/-- `CHANNEL_MESSAGE_ARRIVAL` (R192, R290): a message enters the buffer of its receiving core; one for a context that is gone is
dropped (R352). -/
def execChannelMessageArrival (s : State) : Res :=
  match s.takeIn with
  | none => .next s
  | some (k, s1) =>
    match if (s1.getPart k.part).torn then none else s1.gangCtx k.part k.gang with
    | none => .next s1
    | some d =>
      .next ((s1.sink k.part d.slot).updCtx k.part d.slot fun x =>
        { x with msgs := x.msgs ++ [{ core := k.dcore, ch := k.chan, num := k.posOff, src := k.score, payload := k.payload,
                                      ts := if k.srank = k.drank then k.ts else s1.importTs k.part }]
                 msgRecv := x.msgRecv + 1 })

/-- `CHANNEL_CREDIT_RETURN` (R192): a place of channel `k` comes back to logical core `c` of context (`p`, `s`); with `n` = 1
from another rank. With `n` = 2 it is one that the home of collective `v` on the channel held for this rank (R315). -/
def execChannelCreditReturn (s : State) : Res :=
  let key := chKey s.ev.c s.ev.k
  let x := s.getCtx s.ev.p s.ev.s
  if s.ev.n = 2 then
    .next (s.updPkg fun g => { g with cmds := lmapIf (·.inColl s.ev.p s.ev.s s.ev.k s.ev.v) (fun (c : Cmd) => { c with lent := c.lent - 1 }) g.cmds })
  else if s.ev.n = 1 ∨ 0 < sget 0 x.back key then
    .next (s.updCtx s.ev.p s.ev.s fun x =>
      { x with used := sset 0 x.used key (sget 0 x.used key - 1)
               back := if s.ev.n = 1 then x.back else sset 0 x.back key (sget 0 x.back key - 1) })
  else .next s

/-- The credits that are on their way. -/
def State.creditSteps (s : State) : List (Instr × Stim) :=
  s.pkg.parts.flatMap fun q => q.2.ctxs.flatMap fun x => x.2.back.map fun e =>
    ((.channelCreditReturn, { p := q.1, s := x.1, c := e.1 / 64, k := e.1 % 64 }) : Instr × Stim)

end Sys2Proof.Machine
end

