-- ==== Sys2Proof/Machine/Array.lean ====
section
/-! DEFINITION. The arithmetic of a pass of the cell array (R66 to R71): operands, groups of four, block partials, the
integer path, scaled-operand mode, and the pruning of columns (R172). -/

namespace Sys2Proof.Machine

/-- Element `i`, of `w` bits, of a block (R60). -/
def DBlock.elem (b : DBlock) (w i : Nat) : Nat := b.data.toNat / 2 ^ (w * i) % 2 ^ w
def DBlock.fmt (b : DBlock) : Nat := b.desc.toNat % 256
def DBlock.width (b : DBlock) : Nat := fmtWidth b.fmt
def DBlock.sidx (b : DBlock) : Nat := bits b.desc.toNat 11 8

/-- An element as it enters the array (R66). -/
def arrVal (f e : Nat) : Num := if f % 16 = 1 then f32 (rne32 (dl8 e)).1 else elemVal f e

/-- The elements of a column by logical position: a pruned position has none (R61, R163). -/
def keptFrom (b : DBlock) (w pos q : Nat) : Nat → List (Option Nat)
  | 0 => []
  | n + 1 =>
    if b.mask.getLsbD pos then some (b.elem w q) :: keptFrom b w (pos + 1) (q + 1) n
    else none :: keptFrom b w (pos + 1) q n

/-- The column as its passes pair it: `e` elements of a dense column, 2`e` positions of a compressed one. -/
def DBlock.column (b : DBlock) : List (Option Nat) :=
  let w := b.width
  let e := if w = 0 then 0 else 512 / w
  if fmtKeep b.fmt = 0 then (List.range e).map fun i => some (b.elem w i) else keptFrom b w 0 0 (2 * e)

/-- The elements of a row's blocks, in logical order, with the block of each. -/
def rowElems (l : List DBlock) : List (Nat × DBlock) :=
  l.flatMap fun b => (List.range (512 / Nat.max 1 b.width)).map fun i => (b.elem b.width i, b)

/-! ### MAC mode (R67, R68) -/

/-- GSUM: the exact sum of four products; an exact zero is +0 (R68). -/
def gsum (ps : List Num) : Num :=
  let r := ps.foldl (fun (a : Num) p => (a.add p).1) (.fin false 0 1)
  if r.isZero then .fin false 0 1 else r

/-- A product; a pruned position gives +0 (R66). -/
def pairProd (fb : Nat) (a : Nat × DBlock) (b : Option Nat) : Num :=
  match b with
  | none => .fin false 0 1
  | some e => ((arrVal a.2.fmt a.1).mul (arrVal fb e)).1

/-- The partial of one A block: groups of four in ascending order (R67). -/
def blockPartial (p : Word) : Nat → List Num → Word
  | 0, _ => p
  | n + 1, ps => blockPartial (rne32 ((f32 p).add (f32 (rne32 (gsum (ps.take 4))).1)).1).1 n (ps.drop 4)

/-- The scaled partial (R65, R67): the scales' product is exact. -/
def scaledPartial (p sa sb : Word) : Word :=
  if (f32 p).isZero then p else (rne32 ((f32 p).mul ((f32 sa).mul (f32 sb)).1).1).1

/-- One cell in MAC mode: `a` the row's blocks with the products of each (R67). -/
def macCell (scale : List Word) (c : Word) (col : DBlock) : List DBlock → List (Option Nat) → Word
  | [], _ => c
  | b :: l, bs =>
    let n := 512 / Nat.max 1 b.width
    let ps := ((rowElems [b]).zip (bs.take n)).map fun e => pairProd col.fmt e.1 e.2
    let p := blockPartial 0 (n / 4) ps
    let q := scaledPartial p (scaleAt scale b.sidx) (scaleAt scale col.sidx)
    macCell scale (addF c q).1 col l (bs.drop n)

/-! ### Scaled-operand mode and integers (R69, R70) -/

/-- Entry `j` of the sequence, and whether all of its entries are MAC (R67, R160). -/
def seqLen (w : Word) : Nat := bits w.toNat 18 16 + 1
def seqOp (w : Word) (j : Nat) : Nat := w.toNat / 2 ^ (2 * (j % seqLen w)) % 4
def macMode (w : Word) : Bool := (List.range (seqLen w)).all fun j => seqOp w j = 0

/-- A step on an FP32 cell (R70). -/
def cellStep (op : Nat) (c a b : Word) : Word :=
  match op with
  | 0 => (fmaN (f32 a) (f32 b) (f32 c)).1
  | 1 =>
    let d := ((f32 a).add (f32 b).neg).1
    (rne32 ((f32 c).add (if d.sign then d.neg else d)).1).1
  | 2 => (minmaxF true c (addF a b).1).1
  | _ => (minmaxF false c (addF a b).1).1

/-- A step on an INT32 cell (R70). -/
def cellStepI (op : Nat) (c : Word) (a b : Int) : Word :=
  match op with
  | 0 => c + wInt (a * b)
  | 1 => c + wInt (a - b).natAbs
  | 2 => if c.toInt ≤ a + b then wInt (a + b) else c
  | _ => if a + b ≤ c.toInt then wInt (a + b) else c

/-- The steps of a cell over its logical positions from `j` on. -/
def cellSteps (scale : List Word) (sq : Word) (int : Bool) (col : DBlock) (j : Nat) (c : Word) :
    List ((Nat × DBlock) × Option Nat) → Word
  | [] => c
  | (_, none) :: l => cellSteps scale sq int col (j + 1) c l
  | ((e, a), some b) :: l =>
    let c1 :=
      if int then cellStepI (seqOp sq j) c (sextNat e 8) (sextNat b 8)
      else cellStep (seqOp sq j) c (scaledDecode a.fmt e (scaleAt scale a.sidx)).1 (scaledDecode col.fmt b (scaleAt scale col.sidx)).1
    cellSteps scale sq int col (j + 1) c1 l

/-- One cell of a pass (R163). -/
def passCell (scale : List Word) (sq : Word) (int : Bool) (row : List DBlock) (col : DBlock) (c : Word) : Word :=
  if macMode sq && !int then macCell scale c col row col.column
  else cellSteps scale sq int col 0 c ((rowElems row).zip col.column)

/-- The cells of a tile after a pass: `a` holds the blocks of the rows, `j` of each (R163). -/
def passTile (scale : List Word) (sq : Word) (int : Bool) (j : Nat) (cols : List DBlock) :
    List DBlock → List Word → Nat → List Word
  | _, _, 0 => []
  | a, cs, n + 1 =>
    (cols.zip (cs.take 64)).map (fun e => passCell scale sq int (a.take j) e.1 e.2)
      ++ passTile scale sq int j cols (a.drop j) (cs.drop 64) n

/-! ### Pruning (R172) -/

/-- The magnitude of an element for selection, as a number. -/
def pruneMag (f e : Nat) : Nat :=
  match f % 16 with
  | 1 => if e % 256 = 0x80 then 2 ^ 200 else
    match dl8 e with
    | .fin _ p q => p * dl8Den / q
    | _ => 2 ^ 200
  | 2 => (sextNat e 8).natAbs
  | _ => e % 2 ^ 15

/-- Whether element `i` of a group is among the `n` of largest magnitude; a tie goes to the lower position. -/
def keepsIn (g : List Nat) (n i : Nat) : Bool :=
  let m := lget 0 g i
  ((g.zipIdx).countP fun e => m < e.1 || (e.1 = m && e.2 < i)) < n

/-- The keep bits of a column's elements by groups of `g`, keeping half. -/
def pruneMask (mags : List Nat) (g : Nat) : Nat → List Bool
  | 0 => []
  | n + 1 => (List.range g).map (keepsIn (mags.take g) (g / 2)) ++ pruneMask (mags.drop g) g n

/-- The pruned column of two source columns of one descriptor (R172): `g` is 4 for 2:4 and 8 for 4:8. -/
def pruneCol (g : Nat) (a b : DBlock) : DBlock :=
  let w := a.width
  let es := (rowElems [a]).map (·.1) ++ (rowElems [b]).map (·.1)
  let ks := pruneMask (es.map (pruneMag a.fmt)) g (es.length / g)
  let kept := (es.zip ks).filterMap fun e => if e.2 then some e.1 else none
  { data := BitVec.ofNat 512 (kept.foldr (fun e n => e + 2 ^ w * n) 0)
    desc := BitVec.ofNat 16 (a.desc.toNat + (if g = 4 then 0x10 else 0x20))
    mask := BitVec.ofNat 128 (ks.foldr (fun k n => b2n k + 2 * n) 0) }

/-- Whether every group of a mask holds its number of set bits (R61). -/
def maskGood (b : DBlock) : Bool :=
  let g := if fmtKeep b.fmt = 2 then 4 else 8
  let n := 1024 / Nat.max 1 b.width
  (List.range (n / g)).all fun k => ((List.range g).countP fun i => b.mask.getLsbD (g * k + i)) = g / 2

end Sys2Proof.Machine
end

