-- ==== Sys2Proof/Machine/Matrix.lean ====
section
/-! DEFINITION. The M unit, major MA (R151 to R175): configuration, nests and single passes, tile transfers, slabs and
pruning, and the steps in which they run. -/

namespace Sys2Proof.Machine

/-! ### Configuration (R157 to R161, R165) -/

/-- Whether a selector names a field (R157). -/
def nestSel (n : Nat) : Bool := n ≤ 4 || (8 ≤ n && n ≤ 0x1F)

/-- Writes the shadow configuration of the running task. -/
def State.setShadow (s : State) (f : MCfg → MCfg) : State := s.updTh fun t => { t with shadow := f t.shadow }

/-- `nset` (R157). -/
def execNset (g sel a : Nat) (s : State) : Res :=
  present (.nset g sel a) s { eff := fun o s => .next (s.setShadow fun m => m.set sel o.xa) }

/-- `nseti` (R157). -/
def execNseti (g sel : Nat) (k : Int) (s : State) : Res :=
  present (.nseti g sel k) s { eff := fun _ s => .next (s.setShadow fun m => m.set sel (wInt k)) }

/-- `cseq` (R160). -/
def execCseq (g a : Nat) (s : State) : Res :=
  present (.cseq g a) s { eff := fun o s => .next (s.setShadow fun m => { m with cellseq := o.xa &&& 0x7FFFF }) }

/-- Whether an operation runs on the array path (R152). -/
def onArray : Instr → Bool
  | .ngo .. | .tmma .. | .wprn24 .. | .wprn48 .. => true
  | _ => false

def isNest : Instr → Bool
  | .ngo .. => true
  | _ => false

/-- A nest is ended: after its pass in progress, or at once (R165). -/
def MOp.end_ (m : MOp) (now : Nat) : MOp := if m.pass.isSome then { m with last := true } else { m with doneAt := some now }

/-- Whether a counted nest is running or still to run: one without a pass runs until it completes (R162). -/
def MOp.stoppable (m : MOp) (now : Nat) : Bool :=
  isNest m.instr && match m.doneAt with
    | none => true
    | some t => m.started.isSome && decide (now < t)

/-- The nests that `nstop` acts on (R165): the first counted one, and with ALL the second; one that completes already stays as it is. -/
def stopNests (all : Bool) (now : Nat) (first : Bool) : List MOp → List MOp
  | [] => []
  | m :: l =>
    if m.stoppable now then
      if first then (if m.doneAt.isSome then m else m.end_ now) :: (if all then stopNests all now false l else l)
      else (if m.started.isNone then m.end_ now else m) :: l
    else m :: stopNests all now first l

/-- `nstop` (R165). -/
def execNstop (g all : Nat) (s : State) : Res :=
  present (.nstop g all) s
    { eff := fun _ s => .next (s.updTh fun t => { t with mq := stopNests (all % 2 = 1) s.pkg.time true t.mq }) }

/-- The checks of `mscl` in order (R161, R275). -/
def State.msclTrap (s : State) (r : Word) : Option Trap :=
  if r.toNat % 64 ≠ 0 then some (mkTrap 7 0 r)
  else if spadEnd ≤ r.toNat then some (mkTrap 6 1 r)
  else s.spadBudget r.toNat r.toNat

/-- `mscl` (R161): the scale table is loaded from 16 words. -/
def execMscl (g a : Nat) (s : State) : Res :=
  present (.mscl g a) s
    { needs := [.a]
      wait := fun o s => match s.msclTrap o.xa with | some _ => none | none => s.touchWait (spadRegion o.xa.toNat)
      chk := fun o s => s.msclTrap o.xa
      late := fun o s => s.poisonTrap o.xa
      eff := fun o s =>
        let r := (s.touched (spadRegion o.xa.toNat)).readWords o.xa.toNat 16
        .next (r.2.updTh fun t => { t with scale := r.1 }) }

/-! ### Read and write sets (R154, R155) -/

/-- An interval of tiles or slabs. -/
abbrev Span := Option (Int × Int)

def Span.meets : Span → Span → Bool
  | some (a, b), some (c, d) => a ≤ d && c ≤ b
  | _, _ => false

/-- COUNT, and the strides of A, B and C, by level (R157). -/
def MCfg.count (m : MCfg) (l : Nat) : Nat := (m.get (8 + 4 * l)).toNat
def MCfg.stride (m : MCfg) (k l : Nat) : Int := (m.get (8 + k + 4 * l)).toInt

/-- A base plus its strides at the indices. -/
def MCfg.at_ (m : MCfg) (base : Int) (k : Nat) (idx : List Nat) : Int :=
  (List.range 6).foldl (fun n l => n + lget 0 idx l * m.stride k l) base

/-- The footprint of a base and its strides over the index range (R154). -/
def MCfg.span (m : MCfg) (base : Int) (k : Nat) : Span :=
  if (List.range 6).any fun l => m.count l = 0 then none
  else
    let ends := (List.range 6).map fun l => ((m.count l - 1 : Nat) : Int) * m.stride k l
    some (ends.foldl (fun n e => n + min 0 e) base, ends.foldl (fun n e => n + max 0 e) base)

def MCfg.tiles (m : MCfg) : Span := m.span (m.get 3).toInt 3
def MCfg.slabs (m : MCfg) : Span := m.span (m.get 2).toInt 2

def one (n : Nat) : Span := some (n, n)

/-- Tiles read, tiles written, slabs read, slabs written (R154). -/
def MOp.sets (m : MOp) : Span × Span × Span × Span :=
  match m.instr with
  | .ngo _ => (none, m.cfg.tiles, m.cfg.slabs, none)
  | .tmma _ t b _ => (none, one t, one b, none)
  | .wprn24 _ b c | .wprn48 _ b c => (none, none, some (c, c + 1), one b)
  | .tzero _ t n _ => (none, some (t, t + n - 1), none, none)
  | .tout _ t _ _ => (one t, none, none, none)
  | .tin _ t _ _ => (none, one t, none, none)
  | .tacc _ t _ _ => (one t, one t, none, none)
  | .tmov _ t u => (one u, one t, none, none)
  | .wbld _ b _ _ => (none, none, none, one b)
  | _ => (none, none, none, none)

/-- Whether `x` waits for the earlier `y` of the other path (R155). -/
def MOp.waitsFor (x y : MOp) : Bool :=
  let a := x.sets
  let b := y.sets
  let lax := (match x.instr with | .tout .. | .tmov .. => true | _ => false) && (isNest y.instr || match y.instr with | .tmma .. => true | _ => false)
  a.2.1.meets b.1 || a.2.1.meets b.2.1 || (!lax && a.1.meets b.2.1) || a.2.2.2.meets b.2.2.1 || a.2.2.2.meets b.2.2.2
    || a.2.2.1.meets b.2.2.2

/-! ### Issue (R153, R275) -/

/-- Whether M work has no room (R153). -/
def tlFull (i : Instr) (_ : Opnds) (s : State) : Option Nat :=
  let q := s.core.th.mq
  if 4 ≤ q.length ∨ (isNest i ∧ 2 ≤ q.countP fun m => isNest m.instr) then some 4 else none

/-- BUDGET ACC: a tile outside the grant (R275). -/
def accTrap (s : State) (sp : Span) : Option Trap :=
  match sp with
  | some (a, b) => if a < 0 ∨ ((4 * s.core.th.task.accr : Nat) : Int) ≤ b then some (mkTrap 0x0E 2 0) else none
  | none => none

/-- The operation as it issues, with what it captures (R162, R168, R170). -/
def State.mkM (s : State) (i : Instr) (cfg : MCfg) (o : Opnds) : MOp :=
  { instr := i, seq := s.core.env.seq, slot := s.core.env.slot, sword := s.core.env.sword, baddr := s.core.env.pc, xa := o.xa,
    xb := o.xb, cfg, scale := (s.early i).scale, pts := s.core.th.csr.pts, after := s.core.th.qid,
    behind := s.outstanding s.core.num s.core.th.tid }

/-- An asynchronous M operation that names the tiles of `sp` (R151 to R153). It captures the shadow and the table as they stand at its
issue, without what an `nset`, `cseq` or `mscl` of an earlier bundle that is still held in a slip entry will write (R162; DESIGN
CHOICE, log entry 126). -/
def mMeaning (i : Instr) (sp : State → Span) : Meaning :=
  { chk := fun _ s => accTrap s (sp s)
    rdy := tlFull i
    eff := fun o s => .next (s.updTh fun t => { t with mq := t.mq ++ [s.mkM i (s.early i).shadow o] }) }

/-- `ngo` (R162). -/
def execNgo (g : Nat) (s : State) : Res := present (.ngo g) s (mMeaning (.ngo g) fun s => (s.early (.ngo g)).shadow.tiles)

/-- The configuration of a single pass: one iteration at the tile, slab and address named (R170). -/
def oneShot (m : MCfg) (t b : Nat) (a : Word) : MCfg :=
  ((((({ sel := [], cellseq := m.cellseq } : MCfg).set 0 a).set 1 (m.get 1)).set 2 (w32 b)).set 3 (w32 t)).set 4 (m.get 4)

/-- `tmma` (R170). -/
def execTmma (g t b a : Nat) (s : State) : Res :=
  present (.tmma g t b a) s
    { mMeaning (.tmma g t b a) (fun _ => one t) with
      eff := fun o s => .next (s.updTh fun h => { h with mq := h.mq ++ [s.mkM (.tmma g t b a) (oneShot (s.early (.tmma g t b a)).shadow t b o.xa) o] }) }

/-- `wprn.24` (R172). -/
def execWprn24 (g b c : Nat) (s : State) : Res := present (.wprn24 g b c) s (mMeaning (.wprn24 g b c) fun _ => none)
/-- `wprn.48` (R172). -/
def execWprn48 (g b c : Nat) (s : State) : Res := present (.wprn48 g b c) s (mMeaning (.wprn48 g b c) fun _ => none)
/-- `tzero` (R167). -/
def execTzero (g t n m : Nat) (s : State) : Res :=
  present (.tzero g t n m) s (mMeaning (.tzero g t n m) fun _ => some (t, t + n - 1))
/-- `tout` (R168, R169). -/
def execTout (g t a b : Nat) (s : State) : Res := present (.tout g t a b) s (mMeaning (.tout g t a b) fun _ => one t)
/-- `tin` (R168, R169). -/
def execTin (g t a b : Nat) (s : State) : Res := present (.tin g t a b) s (mMeaning (.tin g t a b) fun _ => one t)
/-- `tacc` (R168, R169). -/
def execTacc (g t a b : Nat) (s : State) : Res := present (.tacc g t a b) s (mMeaning (.tacc g t a b) fun _ => one t)
/-- `tmov` (R169). -/
def execTmov (g t u : Nat) (s : State) : Res :=
  present (.tmov g t u) s (mMeaning (.tmov g t u) fun _ => some (Nat.min t u, Nat.max t u))
/-- `wbld` (R171). -/
def execWbld (g b a u : Nat) (s : State) : Res := present (.wbld g b a u) s (mMeaning (.wbld g b a u) fun _ => none)

/-! ### Tiles and slabs -/

/-- The elements of a tile in row order, and a tile written whole (R162). -/
def Core.tile (c : Core) (t : Nat) : List Word := sdense 0 (c.acc.filter fun e => t * 4096 ≤ e.1 && e.1 < t * 4096 + 4096) (t * 4096) 4096
def Core.setTile (c : Core) (t : Nat) (l : List Word) : Core :=
  { c with acc := splice c.acc (t * 4096) (t * 4096 + 4096) (sparseOf 0 (t * 4096) (l.take 4096)) }

/-- A row of a tile. -/
def Core.row (c : Core) (t m : Nat) : List Word :=
  let k := t * 4096 + m * 64
  sdense 0 (c.acc.filter fun e => k ≤ e.1 && e.1 < k + 64) k 64
def Core.setRow (c : Core) (t m : Nat) (l : List Word) : Core :=
  let k := t * 4096 + m * 64
  { c with acc := splice c.acc k (k + 64) (sparseOf 0 k (l.take 64)) }

/-- The mode of a tile: true for INT32 (R164). -/
def Core.mode (c : Core) (t : Nat) : Bool := sget false c.tmode t
def Core.setMode (c : Core) (t : Nat) (b : Bool) : Core := { c with tmode := sset false c.tmode t b }

def zeroBlock : DBlock := ⟨0, 0, 0⟩

/-- The columns of a slab, and a slab written whole (R171). -/
def Core.slab (c : Core) (b : Nat) : List DBlock := (List.range 64).map fun n => sget zeroBlock c.wb (b * 64 + n)
def Core.setSlab (c : Core) (b : Nat) (l : List DBlock) : Core :=
  { c with wb := splice c.wb (b * 64) (b * 64 + 64) (sparseOf zeroBlock (b * 64) (l.take 64)), wpoison := sset false c.wpoison b false }

/-! ### Faults (R166, R173) -/

/-- A fault of M work: cause, subcause, faulting address, engine step. -/
structure MFault where
  cause : Nat
  sub : Nat
  fva : Nat := 0
  step : Nat := 0
  deriving DecidableEq, Repr

/-- The record of a fault (R221). -/
def MOp.fault (m : MOp) (f : MFault) : FaultRec :=
  { sub := f.sub, slot := m.slot, cause := f.cause, baddr := m.baddr, sword := m.sword, xa := m.xa, xb := m.xb,
    fva := BitVec.ofNat 64 f.fva, step := w32 f.step,
    ext := if isNest m.instr then m.idx.map w32 else [] }

/-- Updates an operation of the running core. -/
def State.updM (s : State) (seq : Nat) (f : MOp → MOp) : State :=
  s.updTh fun t => { t with mq := lmapIf (·.seq = seq) f t.mq }

/-- An operation ends with a fault: it completes now. -/
def State.faultM (s : State) (m : MOp) (f : MFault) : State :=
  (s.updM m.seq fun m => { m with doneAt := some s.pkg.time, pass := none, failed := true }).engineFault s.core.th.tid s.core.th.task (m.fault f)

/-! ### Passes (R162 to R166) -/

/-- The address of the A chunk, the slab and the tile of the pass at the indices (R162). -/
def MOp.aAddr (m : MOp) : Nat := (wInt (m.cfg.at_ ((m.cfg.get 0).toNat : Int) 1 m.idx)).toNat
def MOp.slabNo (m : MOp) : Int := m.cfg.at_ (m.cfg.get 2).toInt 2 m.idx
def MOp.tileNo (m : MOp) : Int := m.cfg.at_ (m.cfg.get 3).toInt 3 m.idx
def MOp.int (m : MOp) : Bool := (m.cfg.get 4).getLsbD 0
def MOp.sbk (m : MOp) : Bool := (m.cfg.get 4).getLsbD 1

/-- The addresses of the A blocks of a pass, in row order (R163). -/
def MOp.aBlocks (m : MOp) (j : Nat) : List Nat :=
  (List.range 64).flatMap fun r => (List.range j).map fun k => m.aAddr + r * (m.cfg.get 1).toNat + 64 * k

/-- The subcause of an invalid descriptor (R57). -/
def badDesc (d : Desc) : Option Nat := if !fmtValid (d.toNat % 256) then some 1 else if d.toNat / 4096 ≠ 0 then some 2 else none

/-- Whether a format enters the array: DL8, INT8, BF16 or FP16 (R166). -/
def arrFmt (f : Nat) : Bool := fmtWidth f = 8 || fmtWidth f = 16

/-- CHECKPASS over what has been read (R166, checks 4 to 10), with the poison check after them (R361). The faulting address is that
of the first A block at fault; for MIXWIDTH of the first whose width is not that of column 0 (DESIGN CHOICE, log entry 110). -/
def checkRead (c : Core) (m : MOp) (as_ : List (Nat × DBlock)) (cols : List DBlock) : Option MFault :=
  let t := m.tileNo.toNat
  let all := as_.map (·.2) ++ cols
  let faultAt := fun (p : DBlock → Bool) => match as_.find? (fun e => p e.2) with | some e => e.1 | none => 0
  if c.mode t ≠ m.int then some ⟨0x0A, 0x46, 0, 0⟩
  else
    match as_.find? (fun e => (badDesc e.2.desc).isSome) with
    | some e => some ⟨0x10, (badDesc e.2.desc).getD 1, e.1, 0⟩
    | none =>
      match cols.find? (fun e => (badDesc e.desc).isSome) with
      | some e => some ⟨0x10, (badDesc e.desc).getD 1, 0, 0⟩
      | none =>
        match as_.find? (fun e => !(arrFmt e.2.fmt && fmtKeep e.2.fmt = 0)) with
        | some e => some ⟨0x10, 3, e.1, 0⟩
        | none =>
          if cols.any (fun e => !arrFmt e.fmt) then some ⟨0x10, 3, 0, 0⟩
          else if cols.any (fun e => fmtKeep e.fmt ≠ 0) && cols.any (fun e => fmtKeep e.fmt = 0) then some ⟨0x0A, 0x44, 0, 0⟩
          else if all.any (fun e => e.width ≠ (lget zeroBlock cols 0).width) then
            some ⟨0x0A, 0x43, faultAt fun e => e.width ≠ (lget zeroBlock cols 0).width, 0⟩
          else if cols.any (fun e => fmtKeep e.fmt ≠ 0 && !maskGood e) then some ⟨0x10, 5, 0, 0⟩
          else if m.int && all.any (fun e => e.fmt % 16 ≠ 2 || scaleAt m.scale e.sidx ≠ 0x3F800000) then
            some ⟨0x0A, 0x45, faultAt fun e => e.fmt % 16 ≠ 2 || scaleAt m.scale e.sidx ≠ 0x3F800000, 0⟩
          else none

/-- Reads the A blocks of a pass in the swizzled view (R156), each from the timestamp of the fork; `pts` is the largest reached
(R249). -/
def State.readA (s : State) (fork pts : Nat) : List Nat → List (Nat × DBlock) × Nat × State
  | [] => ([], pts, s)
  | a :: l =>
    let r := s.engBlock true fork a
    let q := r.2.2.readA fork (Nat.max pts r.2.1) l
    ((a, r.1) :: q.1, q.2)

/-- The indices after these, level 0 innermost; none after the last (R162). -/
def nextIdx (m : MCfg) (l : Nat) : List Nat → Option (List Nat)
  | [] => none
  | i :: r =>
    if i + 1 < m.count l then some ((i + 1) :: r)
    else
      match nextIdx m (l + 1) r with
      | some r' => some (0 :: r')
      | none => none

/-- An operation waits for the exchange of regions (R348). -/
def State.holdM (s : State) (m : MOp) (rs : List Nat) : State := s.updM m.seq fun m => { m with held := rs }

/-- Makes a deferred write-back (R159). -/
def State.flushCells (s : State) (m : MOp) : State :=
  match m.cells with
  | some (t, l) => (s.updCore fun c => c.setTile t l).updM m.seq fun m => { m with cells := none }
  | none => s

/-- Whether a slab or a chunk that a pass reads is poisoned (R361). -/
def State.passBad (s : State) (m : MOp) (as_ : List Nat) : Bool :=
  sget false s.core.wpoison m.slabNo.toNat || sget false s.core.tpoison m.tileNo.toNat || as_.any fun a => s.engBad true a

/-- A pass starts (R162, R166): the tile's and the slab's regions are touched, which another task may have used since a stop
(R348), and the slab and the A chunk are read. A failed check ends the nest, after any deferred
write-back. -/
def State.startPass (s : State) (m : MOp) : State :=
  let fail := fun f => (s.flushCells m).faultM m f
  let c := m.tileNo
  let b := m.slabNo
  if c < 0 ∨ 95 < c then fail ⟨0x0A, 0x42, 0, 0⟩
  else if b < 0 ∨ 63 < b then fail ⟨0x0A, 0x41, 0, 0⟩
  else
    let t := s.core.th.task
    let rs0 := [tileRegion c.toNat, slabRegion b.toNat]
    let g0 := s.touchList t.part t.slot rs0
    if !g0.1 then g0.2.holdM m rs0 else
    let s := g0.2
    let cols := s.core.slab b.toNat
    let j := if cols.any fun e => fmtKeep e.fmt ≠ 0 then 2 else 1
    let as_ := m.aBlocks j
    match as_.find? (fun a => a % 64 ≠ 0 || spadEnd ≤ a) with
    | some a => fail ⟨0x0A, 0x40, a, 0⟩
    | none =>
      let rs := (as_.map spadRegion).eraseDups
      let g := s.touchList t.part t.slot rs
      if !g.1 then g.2.holdM m rs
      else
        let r := g.2.readA m.fork m.pts as_
        match checkRead s.core m r.1 cols with
        | some f => ((g.2.flushCells m).faultM m f)
        | none =>
          if s.passBad m as_ then (g.2.flushCells m).faultM m ⟨0x0A, 0x0A, as_.headD 0, 0⟩
          else
            r.2.2.updM m.seq fun m =>
              { m with pass := some s.pkg.time, passTile := c.toNat, passA := r.1.map (·.2), passS := cols, pts := r.2.1 }

/-- Whether the pass that a nest would start now fails CHECKPASS, where the regions it reads are its own (R166). -/
def State.passFails (s : State) (m : MOp) : Bool :=
  let t := s.core.th.task
  if m.tileNo < 0 ∨ 95 < m.tileNo ∨ m.slabNo < 0 ∨ 63 < m.slabNo then true
  else
    let g := s.touchList t.part t.slot [tileRegion m.tileNo.toNat, slabRegion m.slabNo.toNat]
    let cols := g.2.core.slab m.slabNo.toNat
    let as_ := m.aBlocks (if cols.any fun e => fmtKeep e.fmt ≠ 0 then 2 else 1)
    if !g.1 then false
    else if as_.any fun a => a % 64 ≠ 0 || spadEnd ≤ a then true
    else
      let h := g.2.touchList t.part t.slot (as_.map spadRegion).eraseDups
      h.1 && ((checkRead h.2.core m (h.2.readA m.fork m.pts as_).1 cols).isSome || h.2.passBad m as_)

/-- A pass lands as one write of the tile, deferred under SBK while the next pass names the same tile and does not fail (R159, R162,
R163). -/
def State.landPass (s : State) (m : MOp) : State :=
  let t := m.passTile
  let cs := match m.cells with
    | some (u, l) => if u = t then l else s.core.tile t
    | none => s.core.tile t
  let j := m.passA.length / 64
  let new := Machine.passTile m.scale m.cfg.cellseq m.int j m.passS m.passA cs 64
  let nx := nextIdx m.cfg 0 m.idx
  let ends := nx.isNone || m.last
  let idx := nx.getD m.idx
  let next : MOp := { m with idx, pass := none }
  let keep := m.sbk && !ends && !m.stop && decide (next.tileNo = (t : Int)) && !s.passFails next
  let s1 := if keep then s else s.updCore fun c => c.setTile t new
  s1.updM m.seq fun m =>
    { m with pass := none, passA := [], passS := [], cells := if keep then some (t, new) else none, idx := idx,
             nextAt := s.pkg.time, doneAt := if ends then some s.pkg.time else none }

/-! ### Transfers (R167 to R169, R171, R172) -/

/-- The fields of a transfer word (R168). -/
def xferSw (w : Word) : Bool := w.getLsbD 31
def xferPitch (w : Word) : Nat := bits w.toNat 30 20 * 64
def xferE (w : Word) : Nat := bits w.toNat 19 16
def xferDesc (w : Word) : Nat := w.toNat % 65536
def xferInt (w : Word) : Bool := w.getLsbD 16

/-- The start of the run of a row. -/
def MOp.rowAddr (m : MOp) (r : Nat) : Nat := m.xa.toNat + r * xferPitch m.xb

/-- Blocks of a run at `a`, `n` of them. -/
def runBlocks (a n : Nat) : List Nat := (List.range n).map fun k => a + 64 * k

/-- The checks made when a transfer starts (R168, R171, R172). Where the TMODE check of `tacc` (R164) stands among them is not said:
it is made after SRANGE (DESIGN CHOICE, log entry 109). -/
def State.startChecks (s : State) (m : MOp) : Option MFault :=
  match m.instr with
  | .tout .. =>
    let d := xferDesc m.xb
    let w := fmtWidth (d % 256)
    match descSub true d with
    | some k => some ⟨0x10, k, 0, 0⟩
    | none =>
      if xferPitch m.xb < 8 * w then some ⟨0x0A, 0x47, 0, 0⟩
      else if m.xa.toNat % 64 ≠ 0 then some ⟨0x0A, 0x49, m.xa.toNat, 0⟩
      else
        match (List.range 64).find? (fun r => spadEnd < m.rowAddr r + 8 * w) with
        | some r => some ⟨0x0A, 0x49, m.rowAddr r, r⟩
        | none => none
  | .tin .. | .tacc .. =>
    if m.xa.toNat % 64 ≠ 0 then some ⟨0x0A, 0x49, m.xa.toNat, 0⟩
    else
      match (List.range 64).find? (fun r => spadEnd < m.rowAddr r + 64) with
      | some r => some ⟨0x0A, 0x49, m.rowAddr r, r⟩
      | none => (match m.instr with
        | .tacc _ t _ _ => if s.core.mode t ≠ xferInt m.xb then some ⟨0x0A, 0x46, 0, 0⟩ else none
        | _ => none)
  | .wbld _ _ _ u =>
    if m.xa.toNat % 64 ≠ 0 ∨ spadEnd < m.xa.toNat + 4096 then some ⟨0x0A, 0x49, m.xa.toNat, 0⟩
    else if u ≠ 0 ∧ (m.xb.toNat % 64 ≠ 0 ∨ spadEnd < m.xb.toNat + 1024) then some ⟨0x0A, 0x49, m.xb.toNat, 0⟩
    else none
  | .wprn24 _ _ c | .wprn48 _ _ c =>
    let src := s.core.slab c ++ s.core.slab (c + 1)
    match src.find? (fun e => (badDesc e.desc).isSome) with
    | some e => some ⟨0x10, (badDesc e.desc).getD 1, 0, 0⟩
    | none =>
      if src.any (fun e => !(arrFmt e.fmt && fmtKeep e.fmt = 0)) then some ⟨0x10, 3, 0, 0⟩
      else if ((s.core.slab c).zip (s.core.slab (c + 1))).any (fun e => e.1.desc ≠ e.2.desc) then some ⟨0x0A, 0x48, 0, 0⟩
      else if sget false s.core.wpoison c || sget false s.core.wpoison (c + 1) then some ⟨0x0A, 0x0A, 0, 0⟩
      else none
  | _ => none

/-- The tile and slab regions, and the scratchpad regions, that the start of an operation touches (R348). -/
def MOp.regions (m : MOp) : List Nat :=
  let clip : Span → Nat → List Nat := fun sp n => match sp with
    | some (a, b) => (List.range n).filter fun k => a ≤ (k : Int) && (k : Int) ≤ b
    | none => []
  let x := m.sets
  ((clip x.1 96 ++ clip x.2.1 96).map tileRegion ++ (clip x.2.2.1 64 ++ clip x.2.2.2 64).map slabRegion).eraseDups
def MOp.spadRegions (m : MOp) : List Nat :=
  let rows := fun w => (List.range 64).flatMap fun r => runOf (m.rowAddr r) w
  (match m.instr with
    | .tout .. => rows (8 * fmtWidth (xferDesc m.xb % 256))
    | .tin .. | .tacc .. => rows 64
    | .wbld _ _ _ u => runOf m.xa.toNat 4096 ++ if u = 0 then [] else runOf m.xb.toNat 1024
    | _ => []).eraseDups

/-- Cycles from start to completion, where they are fixed (R151). -/
def mLat : Instr → Option Nat
  | .wprn24 .. | .wprn48 .. => some 16
  | .tzero _ _ n _ => some (2 + 8 * n)
  | .tout .. | .tin .. | .tacc .. => some 70
  | .tmov .. => some 68
  | .wbld .. => some 24
  | _ => none

/-- An operation starts (R152, R155): its tiles and slabs are touched, its checks made, its scratchpad regions touched. Its steps
start from its timestamp at the fork, or where queued accesses were outstanding then, from the one that these have reached (R249,
R251). A nest with a COUNT of 0 completes in the next cycle (R162). -/
def State.startM (s : State) (m : MOp) : State :=
  let t := s.core.th.task
  let g := s.touchList t.part t.slot m.regions
  if !g.1 then g.2.holdM m m.regions
  else
    match g.2.startChecks m with
    | some f => (g.2.updM m.seq fun m => { m with started := some s.pkg.time }).faultM m f
    | none =>
      let h := g.2.touchList t.part t.slot m.spadRegions
      if !h.1 then h.2.holdM m m.spadRegions
      else
        let now := s.pkg.time
        let empty := isNest m.instr && m.cfg.tiles.isNone
        let at_ := if m.behind then Nat.max m.pts s.core.th.csr.pts else m.pts
        h.2.updM m.seq fun m =>
          { m with started := some now, nextAt := now + 2, fork := at_, pts := Nat.max at_ m.pts,
                   doneAt := if empty then some (now + 1) else (mLat m.instr).map (now + ·) }

/-- CONV of `tout` (R169): scaled encode of an FP32 element, or of the exact integer. -/
def toutElem (int : Bool) (f : Nat) (w sc : Word) : Nat :=
  if int then (convTo f (scaleMul (ofInt w.toInt) sc).1).1 else (scaledEncode f w sc).1

/-- Writes the blocks of a run, `n` elements of `w` bits each. -/
def State.putRun (s : State) (by_ : Thr) (sw : Bool) (fork pts : Nat) (d : Desc) (w : Nat) (es : List Nat) : List Nat → Nat × State
  | [] => (pts, s)
  | a :: l =>
    let n := 512 / w
    let v := (es.take n).foldr (fun e k => e + 2 ^ w * k) 0
    let r := s.engPutBlock by_ sw fork a (BitVec.ofNat 512 v) (some d)
    r.2.putRun by_ sw fork (Nat.max pts r.1) d w (es.drop n) l

/-- Reads the blocks of a row's run for `tin` and `tacc`, with the checks made as it is read (R168): block by block, and in each block
FORMAT, SCALE and KIND, then WIDTH, then the KIND of INT32 mode (DESIGN CHOICE, log entry 122). -/
def State.readRun (s : State) (sw int : Bool) (fork pts w : Nat) : List Nat → Except MFault (List DBlock × Nat × State)
  | [] => .ok ([], pts, s)
  | a :: l =>
    if s.engBad sw a then .error ⟨0x0A, 0x0A, a, 0⟩
    else
      let r := s.engBlock sw fork a
      let f := r.1.fmt
      match descSub true r.1.desc.toNat with
      | some k => .error ⟨0x10, k, a, 0⟩
      | none =>
        if fmtWidth f ≠ w then .error ⟨0x10, 4, a, 0⟩
        else if int && f % 16 ≠ 2 && f % 16 ≠ 6 then .error ⟨0x10, 3, a, 0⟩
        else
          match r.2.2.readRun sw int fork (Nat.max pts r.2.1) w l with
          | .error e => .error e
          | .ok q => .ok (r.1 :: q.1, q.2)

/-- The value of an element of a run for a tile (R169). -/
def tinElem (int : Bool) (scale : List Word) (b : DBlock) (e : Nat) : Word :=
  if int then wInt (sextNat e b.width) else (scaledDecode b.fmt e (scaleAt scale b.sidx)).1

/-- A row of `tin` or `tacc` (R168, R169): the descriptors of its run, as far as the scratchpad holds it, before SRANGE. -/
def State.inRow (s : State) (m : MOp) (t r : Nat) (acc : Bool) : State :=
  let sw := xferSw m.xb
  let int := xferInt m.xb
  let a := m.rowAddr r
  let w := fmtWidth ((s.core.spad.descAt (viewBlock sw a)).toNat % 256)
  let fail := fun (f : MFault) => s.faultM m { f with step := r }
  match s.readRun sw int m.fork m.pts w [a] with
  | .error f => fail f
  | .ok _ =>
    let rs := runOf a (Nat.min (8 * w) (spadEnd - a))
    let k := s.core.th.task
    let g := s.touchList k.part k.slot rs
    if !g.1 then g.2.holdM m rs
    else
      match g.2.readRun sw int m.fork m.pts w ((runBlocks a (w / 8)).filter (· < spadEnd)) with
      | .error f => fail f
      | .ok q =>
        if spadEnd < a + 8 * w then fail ⟨0x0A, 0x49, a, r⟩
        else if acc && sget false s.core.tpoison t then fail ⟨0x0A, 0x0A, 0, r⟩
        else
          let vs := (rowElems q.1).map fun e => tinElem int m.scale e.2 e.1
          let old := q.2.2.core.row t r
          let new := if acc then (old.zip vs).map fun e => if int then e.1 + e.2 else (addF e.1 e.2).1 else vs
          (q.2.2.updCore fun c => let c1 := c.setRow t r new; if r = 0 && !acc then c1.setMode t int else c1).updM m.seq
            fun m => { m with pts := q.2.1, row := r + 1 }

/-- Whether the next event of a `tmov` is the read of row `row`; otherwise a row that has been read is written. -/
def MOp.reads (m : MOp) (now : Nat) : Bool := m.row < 64 && m.started.getD 0 + m.row ≤ now

/-- A row of a transfer moves (R167, R169): row `row` of `tout`, `tin` and `tacc`, tile `row` of `tzero`; a `tmov` reads row
`row`, and writes it 4 cycles later. -/
def State.moveRow (s : State) (m : MOp) : State :=
  let r := m.row
  let next := fun (s : State) => s.updM m.seq fun m => { m with row := r + 1 }
  match m.instr with
  | .tzero _ t _ k =>
    next (s.updCore fun c =>
      { (c.setTile (t + r) []).setMode (t + r) (k % 2 = 1) with tpoison := sset false c.tpoison (t + r) false })
  | .tout _ t _ _ =>
    if sget false s.core.tpoison t then s.faultM m ⟨0x0A, 0x0A, 0, r⟩
    else
      let d := xferDesc m.xb
      let w := fmtWidth (d % 256)
      let sc := scaleAt m.scale (xferE m.xb)
      let es := (s.core.row t r).map fun v => toutElem (s.core.mode t) (d % 256) v sc
      let q := s.putRun (s.core.th.tid, m.seq, true) (xferSw m.xb) m.fork m.pts (BitVec.ofNat 16 d) w es (runBlocks (m.rowAddr r) (w / 8))
      q.2.updM m.seq fun m => { m with pts := q.1, row := r + 1 }
  | .tin _ t _ _ => s.inRow m t r false
  | .tacc _ t _ _ => s.inRow m t r true
  | .tmov _ t u =>
    if m.reads s.pkg.time then
      if sget false s.core.tpoison u then s.faultM m ⟨0x0A, 0x0A, 0, r⟩
      else next (s.updM m.seq fun m => { m with rows := m.rows ++ [(m.started.getD 0 + r + 4, r, s.core.row u r)] })
    else
      match m.rows with
      | e :: l =>
        (s.updCore fun c =>
          let c1 := c.setRow t e.2.1 e.2.2
          if e.2.1 = 0 then c1.setMode t (c.mode u) else c1).updM m.seq fun m => { m with rows := l }
      | [] => s
  | _ => s

/-- Reads a metadata entry of 16 bytes: it, the thread's timestamp, the state (R171, R249, R256). -/
def State.metaEntry (s : State) (fork a : Nat) : Nat × Nat × State :=
  let r := s.engWords false a 0 4
  let t := r.2.engStampLoad fork a
  (r.1, t.1, t.2)

/-- What an operation does as it completes: `wbld` and `wprn` write their slab (R171, R172). -/
def State.finishM (s : State) (m : MOp) : State :=
  match m.instr with
  | .wbld _ b _ u =>
    let r := (List.range 64).foldl (fun (r : List DBlock × Bool × Nat × State) n =>
      let q := r.2.2.2.engBlock false m.fork (m.xa.toNat + 64 * n)
      let k := if u = 0 then (0, 0, q.2.2) else q.2.2.metaEntry m.fork (m.xb.toNat + 16 * n)
      let bad := k.2.2.engBad false (m.xa.toNat + 64 * n) || (u ≠ 0 && k.2.2.engBad false (m.xb.toNat + 16 * n))
      (r.1 ++ [{ q.1 with mask := if fmtKeep q.1.fmt = 0 then 0 else BitVec.ofNat 128 k.1 }], r.2.1 || bad,
        Nat.max r.2.2.1 (Nat.max q.2.1 k.2.1), k.2.2)) ([], false, m.pts, s)
    let s1 := r.2.2.2.updM m.seq fun m => { m with pts := r.2.2.1 }
    if r.2.1 then s1.faultM m ⟨0x0A, 0x0A, m.xa.toNat, 0⟩ else s1.updCore fun c => c.setSlab b r.1
  | .wprn24 _ b c => s.updCore fun k => k.setSlab b (((k.slab c).zip (k.slab (c + 1))).map fun e => pruneCol 4 e.1 e.2)
  | .wprn48 _ b c => s.updCore fun k => k.setSlab b (((k.slab c).zip (k.slab (c + 1))).map fun e => pruneCol 8 e.1 e.2)
  | _ => s

/-! ### When the steps are due -/

/-- The cycle in which the next row of a transfer moves (R167, R169). -/
def MOp.rowDue (m : MOp) : Option Nat :=
  match m.started, m.failed with
  | some q, false =>
    match m.instr with
    | .tzero _ _ n _ => if m.row < n then some (q + 2 + 8 * (m.row + 1)) else none
    | .tout .. | .tin .. | .tacc .. => if m.row < 64 then some (q + m.row) else none
    | .tmov .. =>
      match m.rows with
      | e :: _ => some (if m.row < 64 then Nat.min (q + m.row) e.1 else e.1)
      | [] => if m.row < 64 then some (q + m.row) else none
    | _ => none
  | _, _ => none

/-- Whether M operations of a core may start: its task runs, or has issued END, and its core is not being removed (R174, R276). -/
def State.mLive (s : State) (c : Core) : Bool :=
  (match c.phase with | .run | .ending => true | _ => false) && !s.shrinking c.num

/-- The operations before one in a list. -/
def mBefore (q : List MOp) (seq : Nat) : List MOp := q.filter (·.seq < seq)

/-- Whether a time is known and has come. -/
def dueBy (t : Option Nat) (now : Nat) : Bool := match t with | some t => t ≤ now | none => false

/-- The step that is due for an operation of a core at a cycle, with its rank among steps of the same cycle: landings,
rows, completions, pass starts, operation starts. A nest that a stop holds between passes stays (R174); an operation starts after the
queued accesses issued before it (R251). -/
def MOp.due (s : State) (c : Core) (m : MOp) : Option (Nat × Instr) :=
  let now := s.pkg.time
  if m.held.any fun r => c.exch.any fun e => e.region = r then none
  else if dueBy (m.pass.map (· + 32)) now then some (0, .passLanding)
  else if dueBy m.rowDue now then some (1, .tileRowTransfer)
  else if dueBy m.doneAt now then some (2, .mOpComplete)
  else if m.started.isSome && m.pass.isNone && m.doneAt.isNone && m.nextAt ≤ now
      && (isNest m.instr || (match m.instr with | .tmma .. => true | _ => false))
      && !(isNest m.instr && (m.stop || !s.mLive c)) then some (3, .passStart)
  else if m.started.isNone && m.doneAt.isNone && m.nextAt ≤ now && s.mLive c && s.performedTo c.num c.th.tid m.after && (mBefore c.th.mq m.seq).all (fun y =>
      onArray y.instr ≠ onArray m.instr && !m.waitsFor y) then some (4, .mOpStart)
  else none

/-- The step of a core's M unit that is due now. -/
def State.mDue (s : State) (c : Core) : Option (Instr × Stim) :=
  let l := c.th.mq.filterMap fun m => (m.due s c).map fun d => (d.1, m.seq, d.2)
  match sortBy (fun a b => a.1 < b.1 || (a.1 = b.1 && a.2.1 < b.2.1)) l with
  | d :: _ => some (d.2.2, { c := c.num, n := d.2.1 })
  | [] => none

/-- Runs a step of operation `n` of core `c` where it is the one due. -/
def mStep (i : Instr) (f : State → MOp → State) (s : State) : Res :=
  .next (s.onCore s.ev.c fun s =>
    match s.core.th.mq.find? (·.seq = s.ev.n) with
    | some m => if (m.due s s.core).map (·.2) = some i then f s m else s
    | none => s)

/-- `M_OP_START` (R152, R155). -/
def execMOpStart (s : State) : Res := mStep .mOpStart State.startM s
/-- `PASS_START` (R162). -/
def execPassStart (s : State) : Res := mStep .passStart State.startPass s
/-- `PASS_LANDING` (R162). -/
def execPassLanding (s : State) : Res := mStep .passLanding State.landPass s
/-- `TILE_ROW_TRANSFER` (R167, R169). -/
def execTileRowTransfer (s : State) : Res := mStep .tileRowTransfer State.moveRow s
/-- `M_OP_COMPLETE` (R153): the operation leaves tl, and its thread's timestamp joins the task's. -/
def execMOpComplete (s : State) : Res :=
  mStep .mOpComplete (fun s m =>
    let s1 : State := if m.failed then s else s.finishM m
    let last := match s1.core.th.mq.find? (·.seq = m.seq) with | some x => x.pts | none => m.pts
    (s1.flushCells m).updTh fun t =>
      { t with mq := t.mq.filter (·.seq ≠ m.seq), csr := { t.csr with pts := Nat.max t.csr.pts last } }) s

/-- The M step that is due on any core. -/
def State.matrixDue (s : State) : Option (Instr × Stim) :=
  (s.allCores.filter fun c => c.th.mq ≠ [] && !s.paused c.num).findSome? s.mDue

end Sys2Proof.Machine
end

