-- ==== Sys2Proof/Machine/Remote.lean ====
section
/-! DEFINITION. Packets performed at this package (R193, R304, R305, R316, R320, R325): requests of other ranks at their home,
answers to this package's own, contributions and results of collectives. -/

namespace Sys2Proof.Machine

/-! ### Requests at their home -/

/-- The context that a request is for; none where it or its partition is gone (R352). -/
def State.target (s : State) (k : Packet) : Option CtxDesc :=
  if (s.getPart k.part).torn then none else s.gangCtx k.part k.gang

/-- Where a request of another rank lies: a physical address with its attributes, a refusal, or past the end of memory. -/
inductive Foreign where
  | at_ (pa attr : Nat)
  | refuse (sub : Nat)
  | hole (pa : Nat)
  deriving DecidableEq, Repr

/-- Translates an address for another rank (R183, R187, R234): REMOWN, XLATE and NOXDEV, then PERM for a write. -/
def State.foreign (s : State) (d : CtxDesc) (va : Nat) (write : Bool) : Foreign × State :=
  if va < spadEnd then (.refuse 5, s)
  else if winStart ≤ va then (.refuse (if va < winEnd then 3 else 1), s)
  else
    let r := s.unitXlate 0 d va
    (match r.1 with
      | .hole pa => .hole pa
      | .fault _ => .refuse 1
      | .leaf e =>
        let pa := e.pa + (va - e.base)
        if !attrXdev e.attr then .refuse 3
        else if write && (Place.mem pa e.attr).readOnly then .refuse 2
        else .at_ pa e.attr, r.2)

/-- The place of a request at the home of its line: no L1 lies between (R235). -/
def homePlace (pa attr : Nat) : Place := .mem pa (if attrClass attr = 0 then attr + 1 else attr)

/-- Who performs a request at the home of a physical address: the die that owns its stack (R235, R249). -/
def fabricWho (part pa : Nat) : Who := .fabric part (bits pa 14 12 / 2)

/-- Sends the answer of the home of a physical address to a request: north through the mesh of its die to the hub (R300, log entry
53), or straight to this package's own endpoint. Who observes the answer joins the access: it comes before whatever that rank does at
any die afterwards (R252, R259, log entry 108). -/
def State.reply (s : State) (k : Packet) (pa : Nat) (r : Packet) : State :=
  let s := s.exportTs k.part (s.importTs k.part)
  let a := { r with drank := k.srank, srank := k.drank, part := k.part, tag := k.tag, gang := k.gang }
  if k.srank = k.drank then s.toSelf a else s.meshSend (bits pa 14 12 / 2 * 256 + Config.bank pa % 256) none a

/-- Refuses a request, and logs it where it came from another rank (R305, R358). -/
def State.refuse (s : State) (k : Packet) (sub : Nat) : State :=
  (if k.srank = k.drank then s else s.logRefused k sub).endpoint (nakOf k sub) k.drank

/-- The steps that all requests share: the context, the address, then what is done there. -/
def State.atHome (s : State) (write : Bool) (f : Packet → CtxDesc → Nat → Nat → State → State) : Res :=
  match s.takeIn with
  | none => .next s
  | some (k, s1) =>
    match s1.target k with
    | none => .next (s1.refuse k 0x0B)
    | some d =>
      match s1.foreign d (k.addr % 2 ^ 48) write with
      | (.hole pa, _) => .fault (.noSuchPhysicalAddress pa)
      | (.refuse e, s2) => .next (s2.refuse k e)
      | (.at_ pa attr, s2) => .next (f k d pa attr s2)

/-- Writes the pieces of a run at their home; blocks written whole take their descriptors and lose their poison (R59, R361). -/
def State.homeStores (s : State) (part pa attr : Nat) (data : List Byte) (desc : List Desc) : List (Nat × Nat) → State
  | [] => s
  | (o, n) :: l =>
    let p := homePlace (pa + o) attr
    let s1 := (s.recall (.mem (pa + o) attr)).writeBytes (fabricWho part (pa + o)) 0 0 0 p (leNat ((data.drop o).take n)) n
    let s2 : State := if (pa + o) % 64 = 0 ∧ 64 ≤ data.length - o then
      let s3 := s1.cleanBlock p
      match desc[o / 64]? with
      | some d => s3.updPkg fun k => { k with hbm := { k.hbm with desc := sset 0 k.hbm.desc ((pa + o) / 64) d } }
      | none => s3
      else s1
    s2.homeStores part pa attr data desc l

/-- `REMOTE_WRITE` (R325): the bytes of a write are stored at their home, which answers. -/
def execRemoteWrite (s : State) : Res :=
  s.atHome true fun k d pa attr s =>
    ((s.homeStores k.part pa attr k.payload k.desc (pieces pa k.payload.length)).sink k.part d.slot).reply k pa { kind := 6 }

/-- Whether a run of memory meets a poisoned block. -/
def State.runBad (s : State) (pa n : Nat) : Bool := (wordOffs n).any fun o => s.pkg.hbm.bad (pa + o)

/-- Reads words at their home. -/
def State.homeWords (s : State) (part pa attr : Nat) : List Nat → List Word × State
  | [] => ([], s)
  | o :: l =>
    let r := (s.recall (.mem (pa + o) attr)).rmwWord (fabricWho part (pa + o)) 0 0 0 (homePlace (pa + o) attr) fun _ => none
    let q := r.2.homeWords part pa attr l
    (r.1 :: q.1, q.2)

/-- Cuts a run into the pieces of its 64-byte blocks: the offset of each piece and its length. -/
def blockCuts (va n : Nat) : List (Nat × Nat) :=
  (List.range ((va + n + 63) / 64 - va / 64)).map fun k =>
    let a := Nat.max va (64 * (va / 64 + k))
    (a - va, Nat.min (va + n) (64 * (va / 64 + k) + 64) - a)

/-- What a request of several blocks reads at its home. -/
inductive HomeRead where
  | got (pa : Nat) (ws : List Word) (desc : List Desc)
  | refuse (sub : Nat)
  | hole (pa : Nat)
  deriving DecidableEq, Repr

/-- Reads the pieces of a run, each block translated on its own (R183, R240, R241): where the first lies, its words, and the
descriptors of the blocks at every 64th byte of the run. -/
def State.homeBlocks (s : State) (part : Nat) (d : CtxDesc) (va : Nat) : List (Nat × Nat) → HomeRead × State
  | [] => (.got 0 [] [], s)
  | (o, n) :: l =>
    match s.foreign d ((va + o) % 2 ^ 48) false with
    | (.hole pa, s1) => (.hole pa, s1)
    | (.refuse e, s1) => (.refuse e, s1)
    | (.at_ pa attr, s1) =>
      if s1.runBad pa n then (.refuse 0x0A, s1)
      else
        let r := s1.homeWords part pa attr (wordOffs n)
        match r.2.homeBlocks part d va l with
        | (.got _ ws ds, s2) => (.got pa (r.1 ++ ws) (r.2.pkg.hbm.descAt pa :: ds), s2)
        | e => e

/-- `READ_REQUEST` (R304, log entry 13): ARG[8:0] says how many bytes; with ARG[9] the descriptors of the blocks come too. -/
def execReadRequest (s : State) : Res :=
  match s.takeIn with
  | none => .next s
  | some (k, s1) =>
    match s1.target k with
    | none => .next (s1.refuse k 0x0B)
    | some d =>
      let va := k.addr % 2 ^ 48
      let n := Nat.min (k.arg.toNat % 512) 256
      match s1.homeBlocks k.part d va (blockCuts va n) with
      | (.hole pa, _) => .fault (.noSuchPhysicalAddress pa)
      | (.refuse e, s2) => .next (s2.refuse k e)
      | (.got pa ws ds, s2) =>
        .next (s2.reply k pa { kind := 3, payload := leBytes (wordsNat ws) n, desc := if bit k.arg.toNat 9 then ds else [] })

/-- `ATOMIC_REQUEST` (R193, R305): one word, or with a payload a block combined as `cred` does, its type and operation in ARG (log
entry 13). -/
def execAtomicRequest (s : State) : Res :=
  s.atHome true fun k d pa attr s =>
    if s.runBad pa (Nat.max 4 k.payload.length) then s.refuse k 0x0A
    else
      let s1 := s.sink k.part d.slot
      if k.payload = [] then
        let r := (s1.recall (.mem pa attr)).rmwWord (fabricWho k.part pa) 0 0 0 (homePlace pa attr) fun w => amoNew (atopInstr k.atop) w k.arg 0
        r.2.reply k pa { kind := 5, payload := leBytes r.1.toNat 4 }
      else
        let r := s1.homeWords k.part pa attr (wordOffs k.payload.length)
        let ws := (r.1.zip (bytesWords k.payload)).map fun e => comb (bits k.arg.toNat 3 0) (bits k.arg.toNat 7 4) e.1 e.2
        (r.2.homeStores k.part pa attr (leBytes (wordsNat ws) k.payload.length) [] (pieces pa k.payload.length)).reply k pa { kind := 5 }

/-! ### Answers -/

/-- The operation that an answer is for, and the state without it. -/
def State.takeRem (s : State) (k : Packet) : Option (RemOp × State) :=
  match s.pkg.rem.find? (fun r => r.tag = k.tag && r.part = k.part) with
  | none => none
  | some r => some (r, s.updPkg fun g => { g with rem := g.rem.filter fun x => !(x.tag = r.tag && x.part = r.part) })

/-- An answer that a command awaited has come, with the timestamp that it brings (R252). -/
def State.answered (s : State) (tid ref : Nat) : State :=
  s.updCmd tid ref fun m => { m with wait := m.wait - 1, pts := Nat.max m.pts (s.importTs m.task.part) }

/-- What a step that acts on an answer leads to: `keep` is the state in which the answer still waits. -/
def Stepped.resume (r : Stepped) (c : Cmd) (k : Seg) (keep : State → State) : Res :=
  match r with
  | .made s1 => .next s1
  | .wait s1 => .next (keep s1)
  | .bad o sub a s1 => .next (s1.failCmd c 0x0A sub a (c.stepNo k o))
  | .hole pa => .fault (.noSuchPhysicalAddress pa)

/-- Puts an answer that must wait for an exchange back; no older answer of its command is awaited where the order matters. -/
def State.putBack (s : State) (k : Packet) (r : RemOp) : State :=
  (s.updPkg fun g => { g with rem := r :: g.rem, inq := g.inq ++ [{ vc := vcOf k 0, gen := g.regs.rgen, pkt := k, port := inside, vcIn := vcOf k 0 }] })

/-- `READ_RESPONSE` (R193): a word for lq, or the data or masks of a command's step. -/
def execReadResponse (s : State) : Res :=
  match s.takeIn with
  | none => .next s
  | some (k, s1) =>
    match s1.takeRem k with
    | none => .next s1
    | some (r, s2) =>
      let ws := bytesWords k.payload
      let with_ := fun ref (f : Cmd → CtxDesc → State → Stepped) (g : Seg) =>
        match s2.findCmd r.tid ref with
        | none => .next s2
        | some c =>
          if c.stopped then .next (s2.answered r.tid ref)
          else match s2.cmdCtx c with
            | none => .next s2
            | some d => (f c d (s2.answered r.tid ref)).resume c g fun t =>
                (t.updCmd r.tid ref fun m => { m with wait := m.wait + 1 }).putBack k r
      match r.kind with
      | .load => .next ((s2.joinTs r.tid (s2.importTs r.part)).answer r.acc (ws.headD 0))
      | .read ref g => with_ ref (fun c d t =>
          if isCwb c.instr then t.column c d g ws (k.desc.headD 0) else t.putStep c d g ws (if c.dh then k.desc else [])) g
      | .mask ref g => with_ ref (fun c _ t =>
          t.putColumn c g ((List.range 16).map fun i => lane r.acc.v i) (BitVec.ofNat 16 r.acc.c.toNat) (leNat k.payload)) g
      | _ => .next s2

/-- `ATOMIC_RESPONSE` (R193): the old word for lq; a signal or a combined block of a command; a released effect. -/
def execAtomicResponse (s : State) : Res :=
  match s.takeIn with
  | none => .next s
  | some (k, s1) =>
    match s1.takeRem k with
    | none => .next s1
    | some (r, s2) =>
      match r.kind with
      | .load => .next ((s2.joinTs r.tid (s2.importTs r.part)).answer r.acc (w32 (leNat k.payload)))
      | .write ref _ | .signal ref => .next (s2.answered r.tid ref)
      | _ => .next s2

/-- `WRITE_DONE` (R325): a write, a signal or a fabric store has been performed at its home. -/
def execWriteDone (s : State) : Res :=
  match s.takeIn with
  | none => .next s
  | some (k, s1) =>
    match s1.takeRem k with
    | none => .next s1
    | some (r, s2) =>
      match r.kind with
      | .write ref _ | .signal ref => .next (s2.answered r.tid ref)
      | .store => .next (s2.joinTs r.tid (s2.importTs r.part))
      | _ => .next s2

/-- A refusal of what the home of a combination sent on, which its tag names: this package's own command of that collective faults
(R311). Of an answer that was refused nothing is left here. -/
def State.collRefused (s : State) (k : Packet) : State :=
  if k.tag < 2 ^ 31 ∨ (k.nkind ≠ 9 ∧ k.nkind ≠ 10) then s
  else match s.pkg.cmds.find? (fun c => c.inColl k.part (bits k.tag 25 20) (bits k.tag 5 0) (bits k.tag 19 6)) with
    | some c => s.failCmd c 0x0A (k.arg.toNat % 256) 0 0
    | none => s

/-- `NEGATIVE_ACKNOWLEDGEMENT` (R187, R193, R305): ENGFAULT at the operation that was refused; a load gets 0 in lq. -/
def execNegativeAcknowledgement (s : State) : Res :=
  match s.takeIn with
  | none => .next s
  | some (k, s1) =>
    match if k.nkind = 3 ∨ k.nkind = 5 ∨ k.nkind = 6 ∨ k.nkind = 11 ∨ 2 ^ 31 ≤ k.tag then none else s1.takeRem k with
    | none => .next (s1.collRefused k)
    | some (r, s2) =>
      let sub := k.arg.toNat % 256
      let fail := fun ref step => match s2.findCmd r.tid ref with
        | some c => s2.failCmd c 0x0A sub r.addr (step c)
        | none => s2
      match r.kind with
      | .load => .next ((s2.engineFault r.tid r.acc.task (r.acc.fault sub r.addr)).answer r.acc 0)
      | .store => .next (s2.engineFault r.tid r.acc.task (r.acc.fault sub r.addr))
      | .release => .next (s2.launchFaultBy (reqCore r.core) r.part r.slot (sub * 256 + 0x0A) r.acc.task.id r.acc.baddr.toNat r.addr)
      | .read ref g | .mask ref g | .write ref g => .next (fail ref fun c => c.stepNo g 0)
      | .signal ref | .contrib ref => .next (fail ref fun _ => 0)

/-! ### Collectives -/

/-- `COLLECTIVE_CONTRIBUTION` (R316): a contribution reaches the home of its combination. -/
def execCollectiveContribution (s : State) : Res :=
  match s.takeIn with
  | none => .next s
  | some (k, s1) =>
    match s1.target k with
    | none => .next (s1.refuse k 0x0B)
    | some d => .next (s1.contribute k.part d k 12)

/-- Whether a started collective may take a result now. -/
def State.resultCmd (s : State) (p slot : Nat) (k : Packet) : Option Cmd :=
  match s.ctxDesc p slot with
  | none => none
  | some d => s.pkg.cmds.find? fun c => c.isFor p slot k && c.agrees d k && !isPart k && (k.payload = [] || !c.needsGate d.rank || c.gate)

/-- A result among those that wait: a part of a row meets the other part. -/
def addResult (l : List Packet) (k : Packet) : List Packet :=
  match if isPart k then l.find? (otherPart k) else none with
  | some q => l.filter (· ≠ q) ++ [joinParts k q]
  | none => l ++ [k]

/-- `COLLECTIVE_RESULT` (R195, R316): a result reaches its rank; with `n` = 1, result `j` of context (`p`, `s`) is taken by
its collective. -/
def execCollectiveResult (s : State) : Res :=
  if s.ev.n = 1 then
    match (s.getCtx s.ev.p s.ev.s).results[s.ev.j]?, s.ctxDesc s.ev.p s.ev.s with
    | some k, some d =>
      match s.resultCmd s.ev.p s.ev.s k with
      | none => .next s
      | some c =>
        match s.takeResult c d k with
        | .made s1 => .next s1
        | .wait s1 => .next s1
        | .bad o sub a s1 => .next (s1.failCmd c 0x0A sub a (k.posOff + o / c.ewidth))
        | .hole pa => .fault (.noSuchPhysicalAddress pa)
    | _, _ => .next s
  else
    match s.takeIn with
    | none => .next s
    | some (k, s1) =>
      match s1.target k with
      | none => .next (s1.refuse k 0x0B)
      | some d =>
        if (s1.getCtx k.part d.slot).ended.any (fun e => e.1 = k.posChan && e.2.1 = k.posSeq) then .next s1
        else .next (s1.updCtx k.part d.slot fun x => { x with results := addResult x.results k })

/-- `REDUCTION_SLOT_EXPIRY` (R317): contribution `k` of the switch's slots has waited 2,048 cycles and goes on unreduced. -/
def execReductionSlotExpiry (s : State) : Res :=
  match s.pkg.rslots[s.ev.k]? with
  | some r =>
    if r.since + 2048 ≤ s.pkg.time then
      .next ((s.updPkg fun g => { g with rslots := ldel g.rslots s.ev.k }).forward { r.tx with port := 8 } 2)
    else .next s
  | none => .next s

/-- `MISMATCH_NOTICE` (R196, R320): the collective ends on this rank, and is ended at its start where it has not started. -/
def execMismatchNotice (s : State) : Res :=
  match s.takeIn with
  | none => .next s
  | some (k, s1) =>
    let chan := bits k.argq 5 0
    let seq := bits k.argq 21 8
    let sub := bits k.argq 31 24
    match s1.gangCtx k.part (bits k.argq 47 32) with
    | none => .next s1
    | some d =>
      let x := s1.getCtx k.part d.slot
      if x.ended.any fun e => e.1 = chan && e.2.1 = seq then .next s1
      else
        let mine := fun (p : Packet) => p.posChan = chan && p.posSeq = seq
        let s2 := s1.updCtx k.part d.slot fun x =>
          { x with ended := x.ended ++ [(chan, seq, sub)], holds := x.holds.filter (fun h => !mine h.pkt)
                   results := x.results.filter fun p => !mine p }
        match s2.pkg.cmds.find? (fun c => c.isFor k.part d.slot { posChan := chan, posSeq := seq }) with
        | some c => .next (s2.failCmd c 0x0D sub 0 0)
        | none => .next s2

/-! ### What may happen -/

/-- The step that takes a packet at the endpoint. -/
def packetStep (k : Packet) : Option Instr :=
  match k.kind with
  | 1 => some .remoteWrite
  | 2 => some .readRequest
  | 3 => some .readResponse
  | 4 => some .atomicRequest
  | 5 => some .atomicResponse
  | 6 => some .writeDone
  | 7 => some .negativeAcknowledgement
  | 8 => some .channelMessageArrival
  | 9 => some .collectiveContribution
  | 10 => some .collectiveResult
  | 11 =>
    match k.msg with
    | 1 => some .prepare
    | 2 => some .ready
    | 3 => some .refuse
    | 4 => some .sample
    | 5 => some .counts
    | 6 => some .capture
    | 7 => some .commit
    | 8 => some .abort
    | 9 => some .done
    | 10 => some .kfull
    | 16 => some .generationFlip
    | 17 => some .oldGenerationCount
    | 18 => some .time
    | 19 => some .mismatchNotice
    | _ => none
  | _ => none

/-- The command whose step a remote operation is. -/
def RemOp.ofCmd (r : RemOp) : Option Nat :=
  match r.kind with
  | .read ref _ | .mask ref _ | .write ref _ => some ref
  | _ => none

/-- Whether an answer waits for those of earlier steps of its command: the packets to a remote destination leave in element order
(R325), and the first failure in that order stops the command (R187, R329). The data of a step that goes on to another rank waits while
a packet of its engine stands before the hub (R326).  -/
def State.outOfTurn (s : State) (k : Packet) : Bool :=
  match s.pkg.rem.find? (fun r => r.tag = k.tag && r.part = k.part) with
  | none => false
  | some r =>
    match r.ofCmd with
    | none => false
    | some ref =>
      let far := match s.findCmd r.tid ref, s.ctxDesc r.part r.slot with
        | some c, some d => gaRank c.dst ≠ d.rank
        | _, _ => false
      (k.kind = 3 && far && s.engineWaits r.core) || (k.kind = 7 || (k.kind = 3 && far)) && ((s.pkg.rem.takeWhile (· ≠ r)).any fun x => x.tid = r.tid && x.part = r.part && x.ofCmd = some ref)

/-- The core beside which the home of a physical address stands. -/
def homeCore (pa : Nat) : Nat := bits pa 14 12 / 2 * 256 + Config.bank pa % 256

/-- The core to which the mesh takes a packet from another rank: the one whose operation it answers, the receiver of a message, or
the one beside the home of a request (R300). A request that has no home is refused at the hub. -/
def State.coreFor (s : State) (k : Packet) : Option Nat :=
  if k.kind = 1 ∨ k.kind = 2 ∨ k.kind = 4 then
    (s.target k).bind fun d => match (s.foreign d (k.addr % 2 ^ 48) (k.kind ≠ 2)).1 with
      | .at_ pa _ => some (homeCore pa)
      | _ => none
  else if k.kind = 3 ∨ k.kind = 5 ∨ k.kind = 6 ∨ (k.kind = 7 ∧ k.tag < 2 ^ 31) then
    (s.pkg.rem.find? fun r => r.tag = k.tag && r.part = k.part).map (·.core)
  else if k.kind = 8 then
    match s.gangCtx k.part k.gang with
    | some d => s.physCore d (k.dcore % 1024)
    | none => none
  else none

/-- The packets of the endpoint's queue that may be taken now: any of a partition that does not rebase, first into the mesh where a
core is to get it (R300); pod control only in its order. -/
def State.packetSteps (s : State) : List (Instr × Stim) :=
  (List.range s.pkg.inq.length).filterMap fun j =>
    match s.pkg.inq[j]? with
    | none => none
    | some t =>
      if t.held || ((s.getPart t.pkt.part).rebasing && t.pkt.kind ≤ 5) then none
      else if t.port ≠ inside && (s.coreFor t.pkt).isSome then some (.ucieAdapterForward, { n := 1, k := j + 1 })
      else if t.pkt.kind = 11 && (s.pkg.inq.take j).any (fun u => u.pkt.kind = 11) then none
      else if (t.pkt.kind = 3 || t.pkt.kind = 7) && s.outOfTurn t.pkt then none
      else (packetStep t.pkt).map fun i => (i, { k := j + 1 })

/-- The results that started collectives may take. -/
def State.resultSteps (s : State) : List (Instr × Stim) :=
  s.pkg.parts.flatMap fun q => q.2.ctxs.flatMap fun x =>
    (List.range x.2.results.length).filterMap fun j =>
      match x.2.results[j]? with
      | some k => if !q.2.rebasing && (s.resultCmd q.1 x.1 k).isSome then
          some ((.collectiveResult, { n := 1, p := q.1, s := x.1, j }) : Instr × Stim) else none
      | none => none

/-- A contribution whose wait has ended. -/
def State.slotDue (s : State) : Option (Instr × Stim) :=
  match s.pkg.rslots.findIdx? (fun r => r.since + 2048 ≤ s.pkg.time) with
  | some k => some (.reductionSlotExpiry, { k })
  | none => none

end Sys2Proof.Machine
end

