-- ==== Sys2Proof/Machine/Walker.lean ====
section
/-! DEFINITION. Launches (R265 to R267, R301, R302, R314, R315), graph nodes and arrivals (R268 to R273, R277, R278), and the
writing of completion records (R289, R291, R356). -/

namespace Sys2Proof.Machine

/-! ### The walker's accesses -/

/-- A place as the walker reaches it: memory at its home. -/
def Place.home : Place → Place
  | .spad c o => .spad c o
  | .mem pa a => homePlace pa a

/-- The region of a place is exchanged for a context where that is needed (R348), and a PRIV line comes back to its stack
(R235). -/
def State.claim (s : State) (p slot : Nat) (pl : Place) : State :=
  match pl with
  | .mem .. => s.recall pl
  | .spad c o =>
    let t := s.touchPlace p slot (.spad c o)
    if t.1 then t.2 else s.exchange c (spadRegion o) p slot

/-- What a read of the walker gives: words, or the ENGFAULT subcause (R271). -/
inductive Looked where
  | words (l : List Word) (s : State)
  | bad (sub : Nat) (s : State)
  | hole (pa : Nat)

/-- Reads `n` words at a VA that do not pass a page. -/
def State.look (s : State) (p : Nat) (d : CtxDesc) (va n : Nat) : Looked :=
  let r := s.reach 0 p d none va
  match r.1 with
  | .hole pa => .hole pa
  | .bad k => .bad k r.2
  | .found pl =>
    let s1 := r.2.claim p d.slot pl
    if (List.range n).any fun k => s1.placeBad (pl.plus (4 * k)) then .bad 0x0A s1
    else
      let x := (List.range n).foldl (fun (a : List Word × State) k =>
        let y := a.2.rmwWord (.fabric p 0) 0 0 0 (pl.home.plus (4 * k)) fun _ => none
        (a.1 ++ [y.1], y.2)) ([], s1)
      .words x.1 x.2

/-- The first address of a range that the walker may not write, of `n` bytes from a VA (R267). -/
def State.unwritable (s : State) (p : Nat) (d : CtxDesc) (va n : Nat) : Option Nat :=
  (va :: ((List.range (n / 64 + 1)).map fun k => (va / 64 + k + 1) * 64).filter (· < va + n)).find? fun a =>
    2 ^ 48 ≤ a || match (s.reach 0 p d none a).1 with
      | .found pl => pl.readOnly
      | _ => true

/-- Stores bytes for the walker, word by word, at a range that it may write. -/
def State.walkerPut (s : State) (p : Nat) (d : CtxDesc) (va : Nat) (data : List Byte) : State :=
  (pieces va data.length).foldl (fun s e =>
    match (s.reach 0 p d none (va + e.1)).1 with
    | .found pl =>
      let s1 := (s.claim p d.slot pl).writeBytes (.fabric p 0) 0 0 0 pl.home (leNat ((data.drop e.1).take e.2)) e.2
      if (va + e.1) % 64 = 0 ∧ 64 ≤ data.length - e.1 then s1.cleanBlock pl.home else s1
    | _ => s) s

/-! ### Host targets (R356) -/

/-- Bytes of a partition's page (R363). -/
def State.pageLe (s : State) (p off n : Nat) : Nat := leGet (s.getPart p).regs.page off n

/-- Whether `n` bytes at a host target lie in a valid entry's range. -/
def State.hostOk (s : State) (p t n : Nat) : Bool :=
  let e := 0x3000 + 32 * bits t 55 48
  t < 2 ^ 56 && bit (s.pageLe p e 4) 31 && t % 2 ^ 48 + n ≤ s.pageLe p (e + 0x10) 8

/-- A write to a host target: an RDMA WRITE on the QP of its entry, with the entry's R-key, at the offset from its base (R356). -/
def State.hostPut (s : State) (p t : Nat) (data : List Byte) : State :=
  let e := 0x3000 + 32 * bits t 55 48
  s.emit (.hostWrite p (s.pageLe p e 1) (s.pageLe p (e + 4) 4) (s.pageLe p (e + 8) 8 + t % 2 ^ 48) data)

/-! ### Completion records (R289) -/

def Launch.q (l : Launch) (k : Nat) : Nat := l.word k + l.word (k + 1) * 2 ^ 32
def Launch.graph (l : Launch) : Nat := l.q 0
def Launch.entry (l : Launch) : Nat := l.word 2 % 65536
def Launch.gang (l : Launch) : Nat := l.word 2 / 65536
def Launch.cls (l : Launch) : Nat := l.word 3 % 4
def Launch.dhost (l : Launch) : Bool := bit (l.word 3) 2
def Launch.shost (l : Launch) : Bool := bit (l.word 3) 3
def Launch.done (l : Launch) : Nat := l.q 6
def Launch.sig (l : Launch) : Nat := l.q 8
def Launch.image (l : Launch) : Nat := l.word 11 % 65536

/-- The completion record of a launch that ends at a time. -/
def Launch.recordBytes (l : Launch) (fin : Nat) : List Byte :=
  let f := fun v => if l.faults = 0 then 0 else v
  leBytes l.status 4 ++ leBytes l.faults 4 ++ leBytes (f l.cause) 4 ++ leBytes (f l.ftask.toNat) 4 ++ leBytes l.start 8
    ++ leBytes fin 8 ++ leBytes l.folds 4 ++ leBytes l.tasks 4 ++ leBytes (f l.fpc.toNat) 4 ++ leBytes (f l.fva) 8 ++ leBytes 0 12

/-- Writes a completion record to its destination where `room` bytes from there can be written (R267, R289), and after it a hang
report that is known to be writable, for a host target in the same sequence of writes (R291): whether the record was written. -/
def State.putDone (s : State) (p : Nat) (d : Option CtxDesc) (l : Launch) (fin room : Nat) (report : List Byte) : Bool × State :=
  if l.dhost then
    if s.hostOk p l.done room then (true, s.hostPut p l.done (l.recordBytes fin ++ report)) else (false, s)
  else match d with
    | some d =>
      let ok := (s.unwritable p d l.done room).isNone
      let s1 := if ok then s.walkerPut p d l.done (l.recordBytes fin) else s
      (ok, if report = [] then s1 else s1.walkerPut p d (l.done + 64) report)
    | none => (false, s)

/-- Writes the record and then the signal of a launch, each where it can be written (R267, R289, R357): whether the record, and
the signal, was written. -/
def State.putRecord (s : State) (p : Nat) (d : Option CtxDesc) (l : Launch) (fin room : Nat) (report : List Byte) :
    (Bool × Bool) × State :=
  let r := s.putDone p d l fin room report
  if l.shost then
    if s.hostOk p l.sig 4 then
      if l.dhost && r.1 then
        ((r.1, true), r.2.updPkg fun k => { k with hostPost := k.hostPost ++ [(p, l.sig, w32 (l.word 10))] })
      else ((r.1, true), r.2.hostPut p l.sig (leBytes (l.word 10) 4))
    else ((r.1, false), r.2)
  else
    match d with
    | some d =>
      if (s.unwritable p d l.sig 4).isNone then ((r.1, true), r.2.walkerPut p d l.sig (leBytes (l.word 10) 4)) else ((r.1, false), r.2)
    | none => ((r.1, false), r.2)

/-- The bytes from DONE on that acceptance tests: the record and the hang report of a context's cores; the record alone where the
launch names no context (R267, log entry 112). -/
def Launch.doneRoom (_ : Launch) (d : Option CtxDesc) : Nat := 64 + 16 * match d with | some d => d.ncore | none => 0

/-- A launch that completes at once: FAULT with one fault that the walker records (R267, R302, R369). -/
def State.refuseLaunch (s : State) (p : Nat) (d : Option CtxDesc) (l : Launch) (sub fpc fva : Nat) : State :=
  let cause := sub * 256 + 0x0A
  let l1 : Launch := { l with faults := 1, status := 1, cause, ftask := 0xFFFFFFFF, fpc, fva }
  let r := s.putRecord p d l1 s.pkg.time (l.doneRoom d) []
  if r.1.1 || r.1.2 then r.2.logErr p fva reqWalker 0x10 cause else r.2.logErr p 0 reqWalker 0x10 cause

/-- A fault that the walker records in a live launch (R271, R273, R369). -/
def State.walkerFault (s : State) (p slot sub : Nat) (ftask : Word) (fpc fva : Nat) : State :=
  s.launchFaultBy reqWalker p slot (sub * 256 + 0x0A) ftask fpc fva

/-- The FTASK of a fault at a node. -/
def nodeTask (i : Nat) : Word := w32 (i % 4096 * 2 ^ 20 + 0xFFFFF)

/-! ### Arming and acceptance -/

/-- `ARM` (R265): mailbox slot `v` of partition `p` is armed by queue pair `n`; an armed slot, and a value above 15, are
logged. -/
def execArm (s : State) : Res :=
  let p := s.ev.p
  let q := s.getPart p
  if 16 ≤ s.ev.v then .next (s.logErr p 0 (2 ^ 28 + s.ev.n) 4 (s.ev.v % 65536))
  else if q.regs.armed.contains s.ev.v then .next (s.logErr p 0 (2 ^ 28 + s.ev.n) 4 s.ev.v)
  else .next (s.updPart p fun q => { q with regs := { q.regs with armed := q.regs.armed ++ [s.ev.v] } })

/-- The record in a mailbox slot. -/
def State.mailRecord (s : State) (p k : Nat) : List Word :=
  (List.range 16).map fun i => w32 (s.pageLe p (64 * k + 4 * i) 4)

/-- A launch as captured from a mailbox slot. -/
def State.captureLaunch (s : State) (p k : Nat) : Launch := { slot := 0, mail := k, record := s.mailRecord p k, start := s.pkg.time }

/-- The first armed slot that may be accepted: its context, if it names one, has no live launch (R265). -/
def State.acceptable (s : State) (p : Nat) : Option Nat :=
  (s.getPart p).regs.armed.find? fun k =>
    match s.gangCtx p (s.captureLaunch p k).gang with
    | some d => (s.getLaunch p d.slot).isNone
    | none => true

/-- Whether a record is invalid (R266). -/
def Launch.invalid (l : Launch) : Bool :=
  l.graph % 64 ≠ 0 || 2 ^ 48 ≤ l.graph || 4096 ≤ l.entry || 16 ≤ l.word 3 || l.done % 64 ≠ 0 || l.sig % 4 ≠ 0 || 65536 ≤ l.word 11
    || l.word 12 ≠ 0 || l.word 13 ≠ 0 || l.word 14 ≠ 0 || l.word 15 ≠ 0

/-- The select of output `k` of a calendar entry, outputs in the order N, E, S, W, L (R301). -/
def calSel (e : Word × Word) (k : Nat) : Nat := bits e.2.toNat (3 * k + 2) (3 * k)

/-- CALBAD of an entry's own fields (R302). -/
def calBad (e : Word × Word) : Bool :=
  let ks := List.range 5
  2 ^ 18 ≤ e.1.toNat || 2 ^ 15 ≤ e.2.toNat || ks.any (fun k => calSel e k = 7 || calSel e k = k + 1)
    || ks.any fun k => 1 ≤ calSel e k && calSel e k ≤ 5 && ks.any fun j => j ≠ k && calSel e j = calSel e k

/-- The owner of a calendar slot (R298). -/
def State.slotOwner (s : State) (n : Nat) : Nat :=
  match s.pkg.regs.calown.find? (·.1 = n) with
  | some e => e.2
  | none => n % 8

/-- The first calendar entry that fails, with its subcause (R302). -/
def State.calFault (s : State) (p k : Nat) (seen : List Nat) : List (Word × Word) → Option (Nat × Nat)
  | [] => none
  | e :: l =>
    let key := e.1.toNat % 2 ^ 18
    if calBad e then some (k, 0x55)
    else if s.slotOwner (e.1.toNat % 256) ≠ p then some (k, 0x54)
    else if seen.contains key then some (k, 0x55)
    else s.calFault p (k + 1) (key :: seen) l

/-- The bytes that a channel entry reserves at the homes (R315). -/
def chanNeed (w0 : Word) : Nat :=
  let w := w0.toNat
  if bits w 1 0 = 3 then (bits w 29 24 + 1) * (bits w 21 16 + 1) * 256 else 0

/-- The lowest channel whose reservation does not fit in what is left. -/
def chanOver (left : Nat) : List (Nat × Word × Word) → Option Nat
  | [] => none
  | (c, w0, _) :: l => if left < chanNeed w0 then some c else chanOver (left - chanNeed w0) l

/-- Writes a context's channel table from its image (R314): other entries are cleared. -/
def State.putChannels (s : State) (p slot : Nat) (l : List (Nat × Word × Word)) : State :=
  let a := (s.getPart p).regs.chanbase + 1024 * slot
  let put := fun (m : Memory) (e : Nat × Word × Word) =>
    lePut (lePut m (a + 16 * e.1) e.2.1.toNat 4) (a + 16 * e.1 + 4) e.2.2.toNat 4
  s.updPkg fun k => { k with hbm := { k.hbm with mem := l.foldl put (sdrop k.hbm.mem a (a + 1024)) } }

/-- Which logical core the core map of a context names for each physical core (R335). -/
def State.readMap (s : State) (d : CtxDesc) (m : Sparse Nat) : Sparse Nat :=
  (List.range d.ncore).foldl (fun m l => match s.physCore d l with | some c => sset 0 m c (l + 1) | none => m) m

/-- The checks of acceptance that need the context and its image, and the start of the launch (R267, R302, R315). -/
def State.accept (s : State) (p : Nat) (d : CtxDesc) (i : Image) (l : Launch) : State :=
  let n := l.doneRoom (some d)
  let doneBad := if l.dhost then (if s.hostOk p l.done n then none else some l.done) else s.unwritable p d l.done n
  let sigBad := if l.shost then (if s.hostOk p l.sig 4 then none else some l.sig) else s.unwritable p d l.sig 4
  match doneBad, sigBad with
  | some a, _ => s.logErr p a reqWalker 5 0
  | none, some a => s.logErr p a reqWalker 5 0
  | none, none =>
    let q := s.getPart p
    if 4096 < i.calendar.length then s.refuseLaunch p (some d) l 0x55 0xFFFFFFFF 0
    else
      match s.calFault p 0 [] i.calendar with
      | some (k, sub) => s.refuseLaunch p (some d) l sub k 0
      | none =>
        let used := (q.launches.map (·.reserve)).foldl (· + ·) 0
        match chanOver (sget 0 s.pkg.regs.rallow p * 1024 - used) (sortBy (fun a b => a.1 < b.1) i.channels) with
        | some c => s.refuseLaunch p (some d) l 0x56 c 0
        | none =>
          let need := (i.channels.map fun e => chanNeed e.2.1).foldl (· + ·) 0
          let s1 := s.updPart p fun q =>
            { q with launches := q.launches ++ [{ l with slot := d.slot, arrivals := [l.entry], reserve := need, instNo := q.nextInst }] }
          (s1.updCtx p d.slot fun x => { x with calendar := i.calendar, wdog := 0, lmap := s.readMap d x.lmap }).putChannels p d.slot i.channels

/-- `LAUNCH_ACCEPT` (R265, R267): the first acceptable armed slot of partition `p` is captured and freed, and its launch
checked. -/
def execLaunchAccept (s : State) : Res :=
  let p := s.ev.p
  match s.acceptable p with
  | none => .next s
  | some k =>
    let l := s.captureLaunch p k
    let s1 := (s.sweep p).updPart p fun q => { q with regs := { q.regs with armed := q.regs.armed.erase k } }
    let d := s1.gangCtx p l.gang
    let bad := s1.refuseLaunch p d l 0x51 k l.graph
    if l.invalid then .next bad
    else
      match d, (s1.images p).find? (fun i => i.id = l.image && i.valid) with
      | some d, some i => .next (s1.accept p d i l)
      | _, _ => .next bad

/-! ### Splitting a domain (R277, R278) -/

/-- The bounds and grain of dimension `k` of a task. -/
def Task.halvable (t : Task) (k : Nat) : Bool := let x := lget (0, 1, 1) t.dims k; x.2.2 < x.2.1 - x.1

/-- The dimension that a split divides. -/
def Task.splitDim (t : Task) : Option Nat := (t.order.take t.ndim).find? t.halvable

/-- The two children of a split; none where no dimension is halvable. -/
def Task.split (t : Task) : Option (Task × Task) :=
  match t.splitDim with
  | none => none
  | some k =>
    let x := lget (0, 1, 1) t.dims k
    let u := (x.2.1 - x.1 + x.2.2 - 1) / x.2.2
    let m := x.1 + x.2.2 * ((u + 1) / 2)
    some ({ t with dims := lset t.dims k (x.1, m, x.2.2) }, { t with dims := lset t.dims k (m, x.2.1, x.2.2) })

/-- The leaves of `n` levels of splitting, lower children first. -/
def Task.seeds (t : Task) : Nat → List Task
  | 0 => [t]
  | n + 1 => match t.split with
    | some (a, b) => a.seeds n ++ b.seeds n
    | none => t.seeds n

/-! ### Nodes (R268 to R270) -/

/-- Whether words are zero but for those listed. -/
def zeroBut (l : List Word) (used : List Nat) : Bool :=
  (List.range 16).all fun k => used.contains k || lget 0 l k = 0

/-- A node's word. -/
def nw (l : List Word) (k : Nat) : Nat := (lget 0 l k).toNat

/-- Whether a node breaks R268 to R270. Bit 7 of the CTL word of a TASK node, listed neither as a field nor as zero, is to be zero
(DESIGN CHOICE, log entry 128). -/
def badNode (l : List Word) : Bool :=
  let c := nw l 0
  let next := nw l 1 / 65536
  match c % 16 with
  | 0 => c ≠ 0 || !zeroBut l [0]
  | 1 =>
    let nd := bits c 9 8 + 1
    let ord := (List.range 3).map fun k => bits c (17 + 2 * k) (16 + 2 * k)
    let dim := fun k => (nw l (5 + 3 * k), nw l (6 + 3 * k), nw l (7 + 3 * k))
    bit c 7 || bits c 15 10 ≠ 0 || bits c 31 30 ≠ 0 || nd = 4 || 10 < bits c 25 22 || nw l 1 % 65536 ≠ 0 || 4096 ≤ next
      || nw l 2 % 16 ≠ 0 || 16 < bits (nw l 3) 4 0 || 24 < bits (nw l 3) 12 8 || 64 < bits (nw l 3) 22 16
      || bits (nw l 3) 7 5 ≠ 0 || bits (nw l 3) 15 13 ≠ 0 || bits (nw l 3) 31 23 ≠ 0
      || (List.range 3).any (fun k => let x := dim k; if k < nd then x.2.1 ≤ x.1 || x.2.2 = 0 else x ≠ (0, 1, 1))
      || (List.range nd).any fun k => !(ord.take nd).contains k
  | 2 =>
    64 ≤ c || bits c 3 0 ≠ 2 || nw l 1 % 65536 ≠ 0 || 4096 ≤ next || nw l 2 % 16 ≠ 0 || nw l 3 % 16 ≠ 0 || nw l 4 % 16 ≠ 0
      || 16 < bits (nw l 5) 4 0 || 24 < bits (nw l 5) 12 8 || bits (nw l 5) 7 5 ≠ 0 || bits (nw l 5) 31 13 ≠ 0
      || !zeroBut l [0, 1, 2, 3, 4, 5, 6]
  | 3 | 4 =>
    16 ≤ c || 4096 ≤ nw l 1 % 65536 || 4096 ≤ next || nw l 2 % 4 ≠ 0 || 65536 ≤ nw l 3 || !zeroBut l [0, 1, 2, 3]
  | 5 => 16 ≤ c || nw l 1 % 65536 = 0 || 4096 ≤ next || !zeroBut l [0, 1]
  | _ => true

/-- The task that a TASK node describes, before it is split. -/
def nodeTaskOf (p : Nat) (l : Launch) (i : Nat) (w : List Word) (inst : Nat) : Task :=
  let c := nw w 0
  let mask := nw w 14 + nw w 15 * 2 ^ 32
  { part := p, slot := l.slot, node := i, inst, cls := Nat.max (bits c 5 4) l.cls, foldable := bit c 6, ndim := bits c 9 8 + 1,
    order := (List.range 3).map fun k => bits c (17 + 2 * k) (16 + 2 * k),
    dims := (List.range 3).map fun k => (nw w (5 + 3 * k), nw w (6 + 3 * k), nw w (7 + 3 * k)),
    entry := w32 (nw w 2), image := l.image, spad := bits (nw w 3) 4 0, accr := bits (nw w 3) 12 8, hold := bits (nw w 3) 22 16,
    cycles := nw w 4, affAny := mask = 0,
    aff := ((List.range 64).filter (bit mask)).map fun k => bits c 29 26 * 64 + k, args := BitVec.ofNat 64 (l.q 4) }

/-- The kernels of a BSET node, by role. -/
def bsetTasks (p : Nat) (l : Launch) (i : Nat) (w : List Word) (inst : Nat) : List Task :=
  (List.range 3).map fun r =>
    { part := p, slot := l.slot, node := i, inst, cls := Nat.max (bits (nw w 0) 5 4) l.cls, order := [0, 1, 2],
      dims := [(0, 1, 1), (0, 1, 1), (0, 1, 1)], entry := w32 (nw w (2 + r)), image := l.image, spad := bits (nw w 5) 4 0,
      accr := bits (nw w 5) 12 8, cycles := nw w 6, args := BitVec.ofNat 64 (l.q 4), role := some r, bound := inst }

/-! ### Arrivals (R272) -/

/-- Delivers an arrival. -/
def State.arrival (s : State) (p slot i : Nat) : State :=
  s.updLaunch p slot fun l => { l with arrivals := l.arrivals ++ [i] }

/-- How many tasks a launch may still create (R273). -/
def Launch.room (l : Launch) : Nat := 2 ^ 20 - l.serial

/-- The pipes of a finished instance are empty (R286): its messages go, those still on their way too, with its credits. -/
def State.emptyPipes (s : State) (p slot inst : Nat) : State :=
  let gang := match s.ctxDesc p slot with | some d => d.gang | none => 0
  let late := fun (k : Packet) => k.kind = 8 && k.part = p && k.gang = gang && k.dcore / 1024 = inst + 1
  let keep := fun (f : MeshFlit) => match f.pkt with
    | some k => if late k then { f with pkt := none } else f
    | none => f
  let lost := s.pkg.mesh.countP (fun f => f.pkt.any late) + s.pkg.adapter.countP (fun e => e.2.pkt.any late)
    + s.pkg.inq.countP fun t => late t.pkt
  let s1 := s.updPkg fun g =>
    { g with mesh := g.mesh.map keep, adapter := g.adapter.map fun e => (e.1, keep e.2), inq := g.inq.filter fun t => !late t.pkt }
  let other := fun (e : Nat × Nat) => e.1 / 65536 ≠ inst + 1
  s1.updCtx p slot fun x =>
    { x with msgs := x.msgs.filter fun m => m.core / 1024 ≠ inst + 1
             msgRecv := x.msgRecv + lost
             used := x.used.filter other, back := x.back.filter other
             sendNo := x.sendNo.filter other, recvNo := x.recvNo.filter other }

/-- A subtree of an instance has one task less: when it finishes, and when the instance does, arrivals go out (R272). A
finished bound set leaves its pipes empty (R286). -/
def State.finishTask (s : State) (t : Task) : State :=
  match s.getLaunch t.part t.slot with
  | none => s
  | some l =>
    match l.insts.find? (·.id = t.inst) with
    | none => s
    | some i =>
      let left := (i.subs.find? (·.1 = t.sub)).elim 0 (·.2) - 1
      let subs := if left = 0 then i.subs.filter (·.1 ≠ t.sub) else i.subs.map fun e => if e.1 = t.sub then (e.1, left) else e
      let s1 := s.updLaunch t.part t.slot fun l =>
        { l with insts := if subs = [] then l.insts.filter (·.id ≠ i.id) else lmapIf (·.id = i.id) (fun (x : Inst) => { x with subs := subs }) l.insts }
      let s2 := if subs = [] ∧ i.cores ≠ [] then s1.emptyPipes t.part t.slot i.id else s1
      if left = 0 ∧ (i.each ∨ subs = []) then s2.arrival t.part t.slot i.next else s2

/-- A new instance of a TASK or BSET node with its tasks in the ready queue of their class (R272, R278). Where no task can be
made, no subtree finishes: nothing goes to a JOIN, and one arrival to any other successor. -/
def State.startInst (s : State) (p : Nat) (l : Launch) (i next va : Nat) (each bset : Bool) (all : List Task) : State :=
  let inst := (s.getPart p).nextInst
  let s0 := s.updPart p fun q => { q with nextInst := q.nextInst + 1 }
  let n := if bset then (if l.room < 3 then 0 else 3) else Nat.min all.length l.room
  let mk := fun (e : Task × Nat) => { e.1 with serial := l.serial + e.2, sub := if bset then 0 else e.2 }
  let made := (all.take n).zip (List.range n) |>.map mk
  let subs := if bset then (if n = 0 then [] else [(0, 3)]) else (List.range n).map fun k => (k, 1)
  let ent := fun (ts : List Task) (c : Nat) => ({ tasks := ts, tid := none, cls := c, since := s.pkg.time, aged := false } : ReadyEnt)
  let cls := (all.headD {}).cls
  let s1 := s0.updPart p fun q =>
    { q with ready := q.ready ++ (if bset then (if n = 0 then [] else [ent made cls]) else made.map fun t => ent [t] cls) }
  let s2 := s1.updLaunch p l.slot fun l =>
    { l with serial := l.serial + n, insts := if subs = [] then l.insts else l.insts ++ [{ id := inst, node := i, next, each, subs }] }
  let s3 := (List.range (if bset then (if n = 0 then 1 else 0) else all.length - n)).foldl (fun s _ =>
    s.walkerFault p l.slot 0x53 (nodeTask i) i va) s2
  if subs = [] ∧ !each then s3.arrival p l.slot next else s3

/-- Whether a node is a JOIN. -/
def State.isJoin (s : State) (p : Nat) (d : CtxDesc) (va : Nat) : Bool :=
  match s.look p d va 16 with
  | .words l _ => nw l 0 % 16 = 5
  | _ => false

/-- An arrival acts at a node that has been read (R272). -/
def State.atNode (s : State) (p : Nat) (d : CtxDesc) (l : Launch) (i : Nat) (w : List Word) : Res :=
  let va := l.graph + 64 * i
  let lo := nw w 1 % 65536
  let next := nw w 1 / 65536
  let inst := (s.getPart p).nextInst
  if badNode w then .next (s.walkerFault p l.slot 0x50 (nodeTask i) i va)
  else
    match nw w 0 % 16 with
    | 1 =>
      let each := s.isJoin p d (l.graph + 64 * next)
      .next (s.startInst p l i next va each false ((nodeTaskOf p l i w inst).seeds (bits (nw w 0) 25 22)))
    | 2 => .next (s.startInst p l i next va false true (bsetTasks p l i w inst))
    | 5 =>
      let c := sget 0 l.joins i + 1
      let s1 := s.updLaunch p l.slot fun l => { l with joins := sset 0 l.joins i (if c = lo then 0 else c) }
      .next (if c = lo then s1.arrival p l.slot next else s1)
    | 0 => .next (s.updLaunch p l.slot fun l => { l with endReached := true })
    | _ =>
      let a := nw w 2 + nw w 3 * 2 ^ 32
      match s.look p d a 1 with
      | .words x s1 => .next (s1.arrival p l.slot (if x.headD 0 ≠ 0 then lo else next))
      | .bad k s1 => .next (s1.walkerFault p l.slot k (nodeTask i) i a)
      | .hole pa => .fault (.noSuchPhysicalAddress pa)

/-- Whether a context holds the rota and has not been stopped for a rebase (R250) or a vote (R342). -/
def State.onRota (s : State) (p slot : Nat) : Bool :=
  s.holdsRota p slot && !(s.getPart p).rebasing && (s.getPart p).vote.pst = .run

/-- `NODE_ARRIVAL` (R272): the oldest arrival of the launch of context (`p`, `s`) reaches its node, which is read. -/
def execNodeArrival (s : State) : Res :=
  let p := s.ev.p
  match s.getLaunch p s.ev.s, s.ctxDesc p s.ev.s with
  | some l, some d =>
    match l.arrivals with
    | i :: rest =>
      if !s.onRota p l.slot then .next s
      else
        let s1 := s.updLaunch p l.slot fun l => { l with arrivals := rest }
        let va := l.graph + 64 * i
        match s1.look p d va 16 with
        | .words w s2 => s2.atNode p d { l with arrivals := rest } i w
        | .bad k s2 => .next (s2.walkerFault p l.slot k (nodeTask i) i va)
        | .hole pa => .fault (.noSuchPhysicalAddress pa)
    | [] => .next s
  | _, _ => .next s

end Sys2Proof.Machine
end

