-- ==== Sys2Proof/Machine/Tasks.lean ====
section
/-! DEFINITION. Dispatch, ageing and pre-emption (R280 to R285), the start and the stop of a task on a core (R274, R213), folds
(R279), the release of held effects and the freeing of cores (R276, R287), the end of a launch (R288 to R291). -/

namespace Sys2Proof.Machine

/-! ### Starting, stopping and restarting a task on a core -/

/-- The scale table that a kernel starts with (R62). -/
def State.startScale (s : State) (t : Task) : List Word :=
  match (s.images t.part).find? (·.id = t.image) with
  | some i => match i.scales.find? (·.1 = t.entry.toNat) with
    | some e => e.2
    | none => []
  | none => []

/-- The thread of a task in its start state (R274). -/
def State.startThread (s : State) (core : Nat) (t : Task) : Thread :=
  let sc := s.startScale t
  { tid := s.pkg.tidNo, core, task := t, pc := t.entry, scale := sc, scaleV := sc, left := t.cycles, limited := t.cycles ≠ 0,
    x := sset 0 (sset 0 [] 2 (w32 t.args.toNat)) 3 (w32 (bits t.args.toNat 47 32)) }

/-- A task starts on a core: its L1 drops its lines (R243, R274). -/
def State.startTask (s : State) (core : Nat) (t : Task) : State :=
  let th := s.startThread core t
  let s1 := s.flushL1 core fun _ => true
  (s1.updPkg fun k => { k with tidNo := k.tidNo + 1 }).updCoreN core fun c =>
    { c with phase := .run, th, env := {}, issue := .issued, xreq := none, xans := [] }

/-- Whether a core has had its cycle in this cycle. -/
def State.hadCycle (s : State) (core : Nat) : Bool := if s.core.num = core then s.turned else s.done.any (·.num = core)

/-- Stops what a core does (R213, R174, R342) at its next cycle: a task at its bundle boundary, with its nests at their next pass; a handler
keeps its state as it is. The stop point lies in this cycle where the core has not had its cycle yet, and later by the service of
partly served accesses. -/
def State.haltCore (s : State) (core why : Nat) : State :=
  let had := b2n (s.hadCycle core)
  s.onCore core fun s =>
    let s1 : State := if s.core.phase = .run ∧ s.core.th.mode = .task then ((s.stopTask why 1 s.core.th.pc).2.updTh fun t =>
        { t with snap := t.snap.map fun n => { n with stop := n.stop - w32 (1 - had) } }) else s.dropAnswers
    s1.updCore fun c =>
      { c with phase := .stopped why
               th := { c.th with was := c.phase, mq := c.th.mq.map fun (m : MOp) => if isNest m.instr && m.started.isSome then { m with stop := true } else m } }

/-- Goes on with what a core did before a stop (R213, R281): the operations that its M unit has not started return to their paths as the
task issues again (R174). -/
def State.unhalt (s : State) (core : Nat) : State :=
  s.onCore core fun s =>
    let t := s.core.th
    let s1 := s.updCore fun c => { c with phase := t.was, th := { t with was := .idle } }
    match t.snap, t.mode with
    | some n, .task =>
      (s1.resume n.rpc 3 .task).updTh fun t =>
        { t with mq := lmapIf (·.started.isNone) (fun (m : MOp) => { m with nextAt := s.pkg.time + 3 }) t.mq }
    | _, _ =>
      s1.updTh fun t =>
        { t with mq := t.mq.map fun (m : MOp) => if m.stop then { m with stop := false, nextAt := s.pkg.time + 2 } else m }

/-- Whether a stopped core's M unit has come to rest (R174). -/
def Core.mQuiet (c : Core) : Bool :=
  c.th.mq.all fun m => m.pass.isNone && m.doneAt.isNone && (m.started.isNone || isNest m.instr)

/-- The deferred write-backs of stopped nests are made (R174). -/
def State.flushNests (s : State) (core : Nat) : State :=
  s.onCore core fun s => s.core.th.mq.foldl (fun s m => if m.stop then s.flushCells m else s) s

/-! ### Placing (R280, R285) -/

/-- The physical core of a logical core where it is free. -/
def State.freeCore (s : State) (p : Nat) (d : CtxDesc) (l : Nat) : Option Nat :=
  match s.physCore d l with
  | some c =>
    let q := s.getPart p
    if q.cores.contains c && !q.shrink.contains c && (s.getCore c).phase = .idle then some c else none
  | none => none

/-- The free cores that a task's affinity allows, by logical core. -/
def State.freeFor (s : State) (d : CtxDesc) (t : Task) : List (Nat × Nat) :=
  (List.range d.ncore).filterMap fun l =>
    if t.affAny || t.aff.contains l then (s.freeCore t.part d l).map fun c => (l, c) else none

/-- The parked threads that an entry brings back: one, or those of a bound set. -/
def State.entryThreads (s : State) (e : ReadyEnt) : List Thread :=
  match e.tid with
  | none => []
  | some tid =>
    match s.pkg.parked.find? (·.tid = tid) with
    | none => []
    | some t => if t.task.role.isSome then s.pkg.parked.filter (fun u => u.task.ctx = t.task.ctx && u.task.bound = t.task.bound && u.task.role.isSome) else [t]

/-- The context slot of an entry. -/
def ReadyEnt.slot (e : ReadyEnt) : Nat := (e.tasks.headD {}).slot

/-- The cores that an entry would take, by logical core; none where it cannot be placed. -/
def State.placeFor (s : State) (p : Nat) (e : ReadyEnt) : Option (List (Nat × Nat)) :=
  match s.ctxDesc p e.slot with
  | none => none
  | some d =>
    if e.tid.isSome then
      let cs := (s.entryThreads e).map (·.core)
      if cs ≠ [] ∧ cs.all (fun c => (s.getCore c).phase = .idle && !(s.getPart p).shrink.contains c) then
        some (cs.map fun c => (s.lcoreOf p e.slot c, c))
      else none
    else
      let n := e.tasks.length
      let fs := s.freeFor d (e.tasks.headD {})
      if 0 < n ∧ n ≤ fs.length then some (fs.take n) else none

/-- The ready entries that a dispatch scans, in its order: those of the context that holds the rota, class by class. -/
def State.scanOrder (s : State) (p : Nat) : List ReadyEnt :=
  (List.range 4).flatMap fun k => (s.getPart p).ready.filter fun e => e.cls = k && s.onRota p e.slot

/-- The first entry that can be placed; an aged entry that cannot blocks those after it. -/
def State.scan (s : State) (p : Nat) : List ReadyEnt → Option (ReadyEnt × List (Nat × Nat))
  | [] => none
  | e :: l =>
    match s.placeFor p e with
    | some cs => some (e, cs)
    | none => if e.aged then none else s.scan p l

/-- Regions that a task was granted (R275, R348). -/
def Task.regions (t : Task) : List Nat := List.range (Nat.min t.spad 16) ++ (List.range (Nat.min t.accr 24)).map (· + 16)

/-- The regions that stay a parked task's: the granted ones, and the slabs, which no grant covers (R282, R348). -/
def Task.parks (t : Task) : List Nat := t.regions ++ [40, 41, 42, 43]

/-- Brings a parked thread back to its core: its regions are its context's again (R282, R348). -/
def State.unpark (s : State) (t : Thread) : State :=
  let s1 := s.flushL1 t.core fun _ => true
  let s2 := s1.updPkg fun k => { k with parked := k.parked.filter (·.tid ≠ t.tid) }
  let s3 := s2.updCoreN t.core fun c =>
    { c with phase := .stopped 1, th := t, env := {}, issue := .issued,
             owner := c.owner.map fun e => if e.2 = .parked t.task.part t.task.slot t.tid then (e.1, .ctx t.task.part t.task.slot) else e }
  s3.unhalt t.core

/-- Places an entry. -/
def State.place (s : State) (p : Nat) (e : ReadyEnt) (cs : List (Nat × Nat)) : State :=
  let s1 := s.updPart p fun q => { q with ready := q.ready.erase e, nextDispatch := s.pkg.time + 4 }
  if e.tid.isSome then (s.entryThreads e).foldl State.unpark s1
  else
    let s2 := (e.tasks.zip cs).foldl (fun s x => s.startTask x.2.2 x.1) s1
    let t := e.tasks.headD {}
    if t.role.isSome then
      s2.updLaunch p t.slot fun l => { l with insts := lmapIf (·.id = t.inst) (fun (i : Inst) => { i with cores := cs.map (·.1) }) l.insts }
    else s2

/-! ### Pre-emption (R282) -/

/-- The cores that a class-0 entry may take from their tasks: those its affinity allows whose task is of another class. -/
def State.victims (s : State) (p : Nat) (e : ReadyEnt) : List Core :=
  match s.ctxDesc p e.slot with
  | none => []
  | some d =>
    let t := e.tasks.headD {}
    (List.range d.ncore).filterMap fun l =>
      match s.physCore d l with
      | some c =>
        let k := s.getCore c
        let own := match e.tid with | some _ => (s.entryThreads e).any (·.core = c) | none => t.affAny || t.aff.contains l
        if own && k.phase = .run && k.th.task.ctx = (p, e.slot) && k.th.task.cls ≠ 0 && (k.th.task.role.isNone || e.tasks.length = 3)
        then some k else none
      | none => none

/-- The task to pre-empt: of the highest-numbered class, the one that started last. -/
def pickVictim (l : List Core) : Option Core :=
  (sortBy (fun (a b : Core) => b.th.task.cls < a.th.task.cls || (a.th.task.cls = b.th.task.cls && b.th.tid < a.th.tid)) l).head?

/-- Whether a pre-emption of a partition is under way. -/
def State.preempting (s : State) (p : Nat) : Bool := s.allCores.any fun c => c.phase = .stopped 1 && c.th.task.part = p

/-- Pre-empts for the entry that heads the scan, where it is of class 0 and no core can take it (R282). -/
def State.preempt (s : State) (p : Nat) (l : List ReadyEnt) : State :=
  match l with
  | [] => s
  | e :: _ =>
    if e.cls ≠ 0 ∨ (s.placeFor p e).isSome ∨ s.preempting p then s
    else
      match pickVictim (s.victims p e) with
      | none => s
      | some c =>
        if c.th.task.role.isSome then
          (s.allCores.filter fun k => k.phase = .run && k.th.task.ctx = c.th.task.ctx && k.th.task.role.isSome
            && k.th.task.bound = c.th.task.bound).foldl (fun s k => s.haltCore k.num 1) s
        else s.haltCore c.num 1

/-- Whether a dispatch opportunity of a partition would do something. -/
def State.dispatchable (s : State) (p : Nat) : Bool :=
  let l := s.scanOrder p
  (s.getPart p).nextDispatch ≤ s.pkg.time && ((s.scan p l).isSome || match l with
    | e :: _ => e.cls = 0 && (s.placeFor p e).isNone && !s.preempting p && s.victims p e ≠ []
    | [] => false)

/-- `TASK_DISPATCH` (R280, R282): at a dispatch opportunity of partition `p` the first placeable entry is placed, and a task
pre-empted for a class-0 entry that heads the scan. -/
def execTaskDispatch (s : State) : Res :=
  let p := s.ev.p
  if s.pkg.time < (s.getPart p).nextDispatch then .next s
  else
    let l := s.scanOrder p
    let s1 := s.preempt p l
    match s.scan p l with
    | some (e, cs) => .next (s1.place p e cs)
    | none => .next s1

/-- `PREEMPTION_SAVED` (R282): the stopped task of core `c` has come to rest, but for locks and waits that stay at their homes and what
comes after them (R140); it is parked with its regions and re-enters its queue, a bound set as a whole. -/
def execPreemptionSaved (s : State) : Res :=
  let c := s.getCore s.ev.c
  let t := c.th.task
  if c.phase ≠ .stopped 1 ∨ !c.mQuiet ∨ c.qacc.any (fun q => q.tid = c.th.tid && !s.heldBack q) then .next s
  else
    let s1 := (s.flushNests c.num).flushL1 c.num fun _ => true
    let th : Thread := { (s1.getCore c.num).th with core := c.num }
    let s2 := s1.updCoreN c.num fun k =>
      { k with phase := .idle, th := {}
               owner := k.owner.map fun e => if e.2 = .ctx t.part t.slot ∧ t.parks.contains e.1 then (e.1, .parked t.part t.slot th.tid) else e }
    let s3 := s2.updPkg fun k => { k with parked := k.parked ++ [th] }
    let more := t.role.isSome && s3.allCores.any fun k => k.phase = .stopped 1 && k.th.task.ctx = t.ctx && k.th.task.role.isSome
      && k.th.task.bound = t.bound
    if more then .next s3
    else .next (s3.updPart t.part fun q =>
      { q with ready := q.ready ++ [{ tasks := [t], tid := some th.tid, cls := t.cls, since := s.pkg.time, aged := false }] })

/-- An entry that has just passed the limit of waiting (R280). -/
def ReadyEnt.ages (e : ReadyEnt) (now : Nat) : Bool := !e.aged && 2 ^ 20 < now - e.since

/-- `TASK_AGING` (R280): entry `k` of partition `p` moves behind the entries that aged before it. -/
def execTaskAging (s : State) : Res :=
  let q := s.getPart s.ev.p
  match q.ready[s.ev.k]? with
  | some e =>
    if e.ages s.pkg.time then
      let l := ldel q.ready s.ev.k
      .next (s.updPart s.ev.p fun q => { q with ready := l.filter (·.aged) ++ [{ e with aged := true }] ++ l.filter fun x => !x.aged })
    else .next s
  | none => .next s

/-- The entry that ages now. -/
def State.ageDue (s : State) : Option (Instr × Stim) :=
  s.pkg.parts.findSome? fun q => (q.2.ready.findIdx? fun e => e.ages s.pkg.time).map fun k => (.taskAging, { p := q.1, k })

/-! ### Folds (R279) -/

/-- Whether every queued access of a thread has been performed and its engine threads have stopped (R279 step 3). -/
def State.drained (s : State) (core tid : Nat) : Bool :=
  let c := s.getCore core
  !c.qacc.any (·.tid = tid) && !s.pkg.waiters.any (·.acc.tid = tid) && !s.pkg.cmds.any (·.tid = tid) && !s.pkg.rem.any (·.tid = tid)

/-- New tasks at the head of their queue, behind the aged entries. -/
def Partition.queueHead (q : Partition) (l : List ReadyEnt) : Partition :=
  { q with ready := q.ready.filter (·.aged) ++ l ++ q.ready.filter fun e => !e.aged }

/-- The children of a task that has folded enter the ready queue; a task that is made again does so whole (R279, R350). -/
def State.putChildren (s : State) (t : Task) (l : List Task) (fold : Bool) : State :=
  match s.getLaunch t.part t.slot with
  | none => s
  | some n =>
    let made := (l.zip (List.range l.length)).map fun e => { e.1 with serial := n.serial + e.2 }
    let s1 := s.updPart t.part fun q => q.queueHead (made.map fun t =>
      ({ tasks := [t], tid := none, cls := t.cls, since := s.pkg.time, aged := false } : ReadyEnt))
    s1.updLaunch t.part t.slot fun n =>
      { n with serial := n.serial + l.length, folds := if fold then n.folds + 1 else n.folds
               insts := lmapIf (·.id = t.inst) (fun (i : Inst) =>
                 { i with subs := i.subs.map fun e => if e.1 = t.sub then (e.1, e.2 + l.length - 1) else e }) n.insts }

/-- Steps 4 and 5 of a fold. -/
def State.foldTask (s : State) (t : Task) (epc : Word) : State :=
  match s.getLaunch t.part t.slot with
  | none => s
  | some l =>
    match t.split with
    | some (a, b) =>
      if l.room < 2 then
        (s.walkerFault t.part t.slot 0x53 t.id t.node (l.graph + 64 * t.node)).finishTask t
      else s.putChildren t [{ a with depth := t.depth + 1 }, { b with depth := t.depth + 1 }] true
    | none => (s.launchFault t.part t.slot 0x0F t.id epc.toNat 0).finishTask t

/-- `FOLD_COMPLETE` (R279, R350): every access of the folding task of core `c` has been made, and its dirty lines are back in HBM,
before its children are queued, or it is made again, or with no more halving or on an abandonment it is gone (R272). -/
def execFoldComplete (s : State) : Res :=
  let c := s.getCore s.ev.c
  if !s.drained c.num c.th.tid then .next s
  else
    let go := fun (s : State) => s.updCoreN c.num fun k => { k with phase := .cleaning }
    let s1 := s.flushL1 c.num fun _ => true
    match c.phase with
    | .folding false => .next (go (s1.onCore c.num fun s => s.foldTask c.th.task c.th.csr.epc))
    | .folding true => .next (go (s1.putChildren c.th.task [c.th.task] false))
    | .dropping => .next (go s1)
    | _ => .next s

/-- A granted region as a fold leaves it (R279 step 6): data, full bits and descriptors of a scratchpad region, tiles +0 in
FP32 mode. -/
def Core.cleanRegion (c : Core) (r : Nat) : Core :=
  let z := c.zeroRegion r
  if r < 16 then { z with spad := { z.spad with wts := c.spad.wts, rts := c.spad.rts } } else z

/-- Frees a core. -/
def State.freeUp (s : State) (core : Nat) : State :=
  (s.flushL1 core fun _ => true).updCoreN core fun c => { c with phase := .idle, th := {}, env := {}, issue := .issued, xreq := none, xans := [] }

/-- `FOLD_CLEANUP_DONE` (R279 step 6): the granted regions of core `c` are cleaned, and the core is free. -/
def execFoldCleanupDone (s : State) : Res :=
  let c := s.getCore s.ev.c
  let t := c.th.task
  if c.phase = .cleaning then
    let one := fun (s : State) (r : Nat) =>
      let x := s.remoteTouch c.num r t.part t.slot
      (if x.1 then x.2 else s.exchange c.num r t.part t.slot).updCoreN c.num fun k => k.cleanRegion r
    .next ((t.regions.foldl one s).freeUp c.num)
  else .next s

/-- Lock operations and waits (R137, R139). -/
def isLockWait : Instr → Bool
  | .rwlRd .. | .rwlWr .. | .rwlRu .. | .rwlWu .. | .waita .. | .waitc .. => true
  | _ => false

/-- A task of a core is abandoned (R281, R290): it folds without children; its locks and waits leave their homes (log entry 60), and its
other accesses and requests are completed (R133, R140). -/
def State.abandonCore (s : State) (core : Nat) : State :=
  let tid := (s.getCore core).th.tid
  let s1 := s.onCore core fun s => (s.leaveAll.dropWork).updCore fun c => { c with phase := .dropping, qacc := c.qacc.filter fun q => !(q.tid = tid && isLockWait q.instr) }
  s1.updPkg fun k => { k with waiters := k.waiters.filter (·.acc.tid ≠ tid) }

/-! ### The release of held effects (R276) -/

/-- Whether the counters of a core's task are zero, and nothing of it is under way. -/
def State.settled (s : State) (core : Nat) : Bool :=
  let c := s.getCore core
  let t := c.th
  t.cbuf = [] && t.mq = [] && t.lqPend = [] && t.vqPend = [] && t.slips = [] && t.inflight = [] && !c.qack.contains t.tid
    && s.drained core t.tid

/-- A release fails (R138): one fault of the launch, and the later releases are still made. -/
def State.releaseFault (s : State) (t : Thread) (baddr : Word) (sub va : Nat) : State :=
  s.launchFault t.task.part t.task.slot (sub * 256 + 0x0A) t.task.id baddr.toNat va

/-- Performs a held effect of the running core: the state, and whether it has been performed or given up. -/
def State.release (s : State) (h : Held) : Except Nat (Bool × State) :=
  let t := s.core.th
  let p := t.task.part
  match s.taskCtx t.task with
  | none => .ok (true, s)
  | some d =>
    let part := p
    match h with
    | .message ch l => .ok (if s.hasCredit ch then (true, s.sendMsg ch l) else (false, s))
    | .reserved _ => .ok (true, s)
    | .amo i addr b c remote baddr =>
      if remote then
        .ok (true, s.sendRem d part s.core.num t.tid addr .release { tid := t.tid, task := t.task, baddr } { kind := 4, arg := b, atop := fabAtop i })
      else
        let r := s.reach (s.core.num / 256) part d (some s.core.num) addr
        match r.1 with
        | .hole pa => .error pa
        | .bad k => .ok (true, r.2.releaseFault t baddr k addr)
        | .found pl =>
          if pl.readOnly then .ok (true, r.2.releaseFault t baddr 2 addr)
          else
            let x := r.2.touchPlace part t.task.slot pl
            if !x.1 then .ok (false, x.2)
            else if x.2.placeBad pl then .ok (true, x.2.releaseFault t baddr 0x0A addr)
            else .ok (true, ((x.2.rmwWord (.task t.tid) s.core.num d.asid addr pl fun w => amoNew i w b c).2).sink part t.task.slot)
    | .signal addr val op baddr _ =>
      if gaRank addr ≠ d.rank then
        .ok (true, s.sendRem d part s.core.num t.tid addr .release { tid := t.tid, task := t.task, baddr } (signalPkt val.toNat op))
      else
        match s.signalAt (.task t.tid) s.core.num t.task d (gaVa addr) val.toNat op with
        | .made s1 => .ok (true, s1)
        | .wait s1 => .ok (false, s1)
        | .bad _ sub va s1 => .ok (true, s1.releaseFault t baddr sub va)
        | .hole pa => .error pa

/-- `HELD_RELEASE` (R276): core `c`, whose task has issued END and whose counters are zero, performs its oldest held effect; a
fault recorded meanwhile ends the task with none performed; after the last the task has ended. -/
def execHeldRelease (s : State) : Res :=
  s.onCoreR s.ev.c fun s =>
    let t := s.core.th
    if s.core.phase ≠ .ending ∨ !s.settled s.core.num then .next s
    else
      match t.pendF, t.holdq with
      | f :: _, _ =>
        let r := sget {} t.recs f.val.toNat
        .next (s.endFaulted (f.sub % 256 * 256 + f.cause) (if r.valid then r.baddr.toNat else t.pc.toNat) (if r.valid then r.fva.toNat else 0))
      | [], [] => .next ((s.leaveAll).updCore fun c => { c with phase := .released })
      | [], h :: l =>
        match s.release h with
        | .error pa => .fault (.noSuchPhysicalAddress pa)
        | .ok (true, s1) => .next (s1.updTh fun t => { t with holdq := l })
        | .ok (false, s1) => .next s1

/-- `CORE_FREED` (R287): the task of core `c` is over and its buffers are empty: its subtree counts it out, and the core is
free. -/
def execCoreFreed (s : State) : Res :=
  let c := s.getCore s.ev.c
  if c.phase = .released ∧ s.settled c.num then .next ((s.finishTask c.th.task).freeUp c.num) else .next s

/-! ### The end of a launch (R288 to R291) -/

/-- Whether nothing of a context is under way on the package's cores. -/
def State.ctxIdle (s : State) (p slot : Nat) : Bool :=
  !s.allCores.any (fun c => c.phase ≠ .idle && c.th.task.ctx = (p, slot)) && !s.pkg.parked.any (fun t => t.task.ctx = (p, slot))
    && !s.allCores.any (fun c => c.qacc.any fun q => q.task.ctx = (p, slot)) && !s.pkg.cmds.any fun m => m.task.ctx = (p, slot)

/-- Whether end detection of a launch runs (R288). -/
def State.endable (s : State) (p : Nat) (l : Launch) : Bool :=
  l.endReached && l.insts = [] && l.arrivals = [] && !(s.getPart p).ready.any (fun e => e.slot = l.slot) && s.onRota p l.slot

/-- A launch completes: its record and signal are written, and it is live no longer (R289). -/
def State.completeLaunch (s : State) (p slot : Nat) (report : List Byte) : State :=
  match s.getLaunch p slot with
  | none => s
  | some l =>
    let r := s.putRecord p (s.ctxDesc p slot) l s.pkg.time 64 report
    let s1 := if r.1.1 then r.2 else r.2.logErr p 0 reqWalker 0x10 (l.cause % 65536)
    s1.updPart p fun q => { q with launches := q.launches.filter (·.slot ≠ slot) }

/-- A sample of end detection: the counts of messages while all is idle. -/
def State.endSample (s : State) (p slot : Nat) : Option (Nat × Nat) :=
  if s.ctxIdle p slot then some ((s.getCtx p slot).msgSent, (s.getCtx p slot).msgRecv) else none

/-- `END_DETECTION_SAMPLE` (R288): a sample for the launch of context (`p`, `s`); two in a row that agree end it. -/
def execEndDetectionSample (s : State) : Res :=
  let p := s.ev.p
  match s.getLaunch p s.ev.s with
  | none => .next s
  | some l =>
    if !s.endable p l ∨ s.pkg.time < l.sampleAt.getD 0 then .next s
    else
      let now := s.endSample p l.slot
      if l.sampleAt.isSome ∧ now.isSome ∧ now = l.sample then .next (s.completeLaunch p l.slot [])
      else .next (s.updLaunch p l.slot fun l => { l with sample := now, sampleAt := some (s.pkg.time + 256) })

/-- The sample of end detection that is due. -/
def State.sampleDue (s : State) : Option (Instr × Stim) :=
  s.pkg.parts.findSome? fun q => (q.2.launches.find? fun l => s.endable q.1 l && l.sampleAt.getD 0 ≤ s.pkg.time).map fun l =>
    (.endDetectionSample, { p := q.1, s := l.slot })

/-- WHY of the hang report for a core that runs a task (R291): a bundle held by `wait` or `twait` is told by its words. -/
def State.whyHeld (s : State) : Nat :=
  let t := s.core.th
  if t.mode = .handler then 9
  else if s.core.phase = .ending then 10
  else
    match t.waitG with
    | some g =>
      match ((s.getCtx t.task.part t.task.slot).open g) with
      | some e => if e.line.isSome then 5 else 6
      | none => 5
    | none =>
      let ops := match s.core.overlays.find? (fun o => o.image = t.task.image && o.page = t.pc.toNat / 16384) with
        | some o =>
          let k := t.pc.toNat % 16384 / 4
          match decodeBundle (sget 0 o.words k).toNat (sget 0 o.words (k + 1)).toNat (sget 0 o.words (k + 2)).toNat (sget 0 o.words (k + 3)).toNat with
          | .ok b => b.ops.map fun (o : SlotOp) => o.op
          | .error _ => []
        | none => []
      let blocked := fun (i : Instr) => match i with
        | .wait _ ql qs cp tl => if s.waitOver ql qs cp tl then 0 else 3
        | .twait _ m => if s.tokensClear m then 0 else 4
        | _ => 0
      match (ops.map blocked).find? (· ≠ 0) with
      | some k => k
      | none =>
        if ops.any s.portStall then 2
        else match t.slips.find? (fun (e : Slip) => e.why = 1 || e.why = 5) with
          | some e => if e.why = 1 then 7 else 8
          | none => 1

/-- The hang report's entry of a logical core (R291): a task that is gone (R281) leaves none, though its core is not free yet. -/
def State.hangEntry (s : State) (p : Nat) (d : CtxDesc) (l : Nat) : List Byte :=
  let f := fun (pc why id : Nat) => leBytes pc 4 ++ leBytes why 4 ++ leBytes id 4 ++ leBytes (s.pkg.time % 2 ^ 32) 4
  match s.physCore d l with
  | none => f 0 0 0xFFFFFFFF
  | some c =>
    let k := s.getCore c
    if k.phase ≠ .idle ∧ k.phase ≠ .cleaning ∧ k.phase ≠ .released ∧ k.th.task.ctx = (p, d.slot) then
      f k.th.pc.toNat (if k.phase = .stopped 1 then 11 else (s.onCoreV c fun s => (s.whyHeld, s)).1) k.th.task.id.toNat
    else
      match s.pkg.parked.find? (fun t => t.core = c && t.task.ctx = (p, d.slot)) with
      | some t => f t.pc.toNat 11 t.task.id.toNat
      | none => f 0 0 0xFFFFFFFF

/-- A pre-empted task is abandoned (R281): the regions that it still owns are its context's again, those granted to it as a fold
leaves them (R279 step 6). Its images go with it. -/
def State.cleanParked (s : State) (t : Thread) : State :=
  s.updCoreN t.core fun c =>
    let own := (c.owner.filter fun e => e.2 = .parked t.task.part t.task.slot t.tid).map (·.1)
    (own.filter t.task.regions.contains).foldl Core.cleanRegion
      { c with owner := c.owner.map fun e => if own.contains e.1 then (e.1, .ctx t.task.part t.task.slot) else e }

/-- Every task of a launch is abandoned (R281). -/
def State.abandonAll (s : State) (p slot : Nat) : State :=
  let mine := fun (t : Task) => t.ctx = (p, slot)
  let s1 := (s.allCores.filter fun c => c.phase ≠ .idle && c.phase ≠ .cleaning && mine c.th.task).foldl (fun s c => s.abandonCore c.num) s
  let gone := s1.pkg.parked.filter fun t => mine t.task
  let tids := gone.map (·.tid)
  let s2 := (gone.foldl State.cleanParked s1).updPkg fun k =>
    { k with parked := k.parked.filter fun t => !mine t.task
             waiters := k.waiters.filter fun w => !mine w.acc.task
             cmds := lmapIf (fun m => mine m.task) (fun (m : Cmd) => { m with stopped := true }) k.cmds
             taskImgs := k.taskImgs.filter fun e => !tids.contains e.1 }
  s2.updPart p fun q => { q with ready := q.ready.filter fun e => e.slot ≠ slot }

/-- `HANG_WATCHDOG_EXPIRY` (R290): the hang report of the launch of context (`p`, `s`), its tasks abandoned, status HANG. -/
def execHangWatchdogExpiry (s : State) : Res :=
  let p := s.ev.p
  match s.getLaunch p s.ev.s with
  | none => .next s
  | some l =>
    if (s.getCtx p l.slot).wdog < (s.getPart p).regs.wdi then .next s
    else
      let d := s.ctxDesc p l.slot
      let report := match d with
        | some d => (List.range d.ncore).flatMap (s.hangEntry p d)
        | none => []
      let bad := match d with
        | some d => if l.dhost then ((List.range d.ncore).find? fun k => !s.hostOk p l.done (80 + 16 * k)).map (l.done + 64 + 16 * ·)
          else (s.unwritable p d (l.done + 64) report.length)
        | none => none
      let s1 := match bad with | some a => s.logErr p a reqWalker 5 0 | none => s
      let s2 := (s1.abandonAll p l.slot).updLaunch p l.slot fun l => l.raise 2
      .next ((s2.updCtx p l.slot fun x => { x with wdog := 0 }).completeLaunch p l.slot (if bad.isSome then [] else report))

/-- The watchdog that has run out. -/
def State.hangDue (s : State) : Option (Instr × Stim) :=
  s.pkg.parts.findSome? fun q => (q.2.launches.find? fun l => q.2.regs.wdi ≤ (sget {} q.2.ctxs l.slot).wdog).map fun l =>
    (.hangWatchdogExpiry, { p := q.1, s := l.slot })

/-! ### What may happen -/

/-- The steps of tasks and launches that may happen now. -/
def State.taskSteps (s : State) : List (Instr × Stim) :=
  (s.pkg.parts.flatMap fun q =>
    (if (s.acceptable q.1).isSome then [((.launchAccept, { p := q.1 }) : Instr × Stim)] else [])
    ++ ((q.2.launches.filter fun l => l.arrivals ≠ [] && s.onRota q.1 l.slot).map fun l => (.nodeArrival, { p := q.1, s := l.slot }))
    ++ if s.dispatchable q.1 then [(.taskDispatch, { p := q.1 })] else [])
  ++ s.allCores.flatMap fun c =>
    let e : Stim := { c := c.num }
    match c.phase with
    | .stopped 1 => if c.mQuiet && !c.qacc.any (fun q => q.tid = c.th.tid && !s.heldBack q) then [((.preemptionSaved, e) : Instr × Stim)] else []
    | .folding _ | .dropping => if s.drained c.num c.th.tid then [(.foldComplete, e)] else []
    | .cleaning => [(.foldCleanupDone, e)]
    | .ending => if s.settled c.num then [(.heldRelease, e)] else []
    | .released => if s.settled c.num then [(.coreFreed, e)] else []
    | _ => []

end Sys2Proof.Machine
end

