-- ==== Sys2Proof/Machine/Net.lean ====
section
/-! DEFINITION. The on-die mesh and its calendar (R297 to R301), the UCIe adapters (R300), the Ebram links with replay and lane
failure (R303, R306 to R310), the routing generations (R312) and the pod time base (R313). -/

namespace Sys2Proof.Machine

/-! ### The mesh (R297 to R301) -/

/-- The gang whose calendar entries are in force in a partition (R301): after a switch, the old one until the next slot 0. -/
def Partition.calGang (q : Partition) (now : Nat) : Nat := if now < q.calAt then q.calPrev else q.gang

/-- The programmed entries in force for a partition. -/
def State.activeCal (s : State) (p : Nat) : List (Word × Word) :=
  match s.gangCtx p ((s.getPart p).calGang s.pkg.time) with
  | some d => (s.getCtx p d.slot).calendar
  | none => []

/-- The default input of an output in a slot (R299). Ports are N 0, E 1, S 2, W 3, L 4. -/
def patternIn (slot o : Nat) : Nat := (o + 1 + slot / 8 % 4) % 5

/-- The input that feeds an output of a router: by its programmed entry where it has one (R301), else by the pattern. -/
def inputOf (e : Option (Word × Word)) (slot o : Nat) : Option Nat :=
  let k := patternIn slot o
  match e with
  | none => some k
  | some e =>
    let v := calSel e o
    if v = 0 then (if (List.range 5).any (fun j => j ≠ o && calSel e j = k + 1) then none else some k)
    else if v ≤ 5 then some (v - 1) else none

/-- The output port that a flit needs at its router (R300). -/
def MeshFlit.next (f : MeshFlit) : Nat :=
  match f.dest with
  | none => 0
  | some c =>
    if c / 256 ≠ f.die then 0
    else
      let col := f.router % 16
      let row := f.router / 16
      let tcol := c % 16
      let trow := c % 256 / 16
      if col < tcol then 1 else if tcol < col then 3 else if row < trow then 2 else if trow < row then 0 else 4

/-- Whether two flits stand in one queue. -/
def MeshFlit.sameQueue (a b : MeshFlit) : Bool := a.die = b.die && a.router = b.router && a.port = b.port && a.part = b.part

/-- Whether flit `k` heads its queue and a connection of this cycle carries it on (R297, R298). -/
def State.flitGoes (s : State) (k : Nat) : Bool :=
  match s.pkg.mesh[k]? with
  | none => false
  | some f =>
    let slot := s.pkg.time % 256
    f.at_ ≤ s.pkg.time && s.slotOwner slot = f.part && !(s.pkg.mesh.take k).any f.sameQueue
      && inputOf ((s.activeCal f.part).find? fun e => e.1.toNat % 2 ^ 18 = slot + f.die * 2 ^ 8 + f.router * 2 ^ 10) slot f.next
          = some f.port

/-- A flit at the input of the next router. -/
def MeshFlit.moved (f : MeshFlit) (now : Nat) : MeshFlit :=
  match f.next with
  | 0 => { f with router := f.router - 16, port := 2, at_ := now + 1 }
  | 1 => { f with router := f.router + 1, port := 3, at_ := now + 1 }
  | 2 => { f with router := f.router + 16, port := 0, at_ := now + 1 }
  | _ => { f with router := f.router - 1, port := 1, at_ := now + 1 }

/-- `MESH_FLIT_HOP` (R297): flit `k` moves one hop: to the next router, into the die's UCIe adapter, or to its core, where the
last flit delivers the packet. The flits behind it wait for the next cycle. -/
def execMeshFlitHop (s : State) : Res :=
  if !s.flitGoes s.ev.k then .next s
  else
    match s.pkg.mesh[s.ev.k]? with
    | none => .next s
    | some f =>
      let now := s.pkg.time
      let rest := (ldel s.pkg.mesh s.ev.k).map fun (g : MeshFlit) => if g.sameQueue f then { g with at_ := now + 1 } else g
      let s1 := s.updPkg fun g => { g with mesh := rest }
      if f.next = 4 then
        .next (match f.pkt with | some k => s1.toSelf k | none => s1)
      else if f.next = 0 ∧ f.router < 16 then .next (s1.updPkg fun g => { g with adapter := g.adapter ++ [(f.die, f)] })
      else .next (s1.updPkg fun g => { g with mesh := g.mesh ++ [f.moved now] })

/-- A flit that a connection carries now. -/
def State.meshDue (s : State) : Option (Instr × Stim) :=
  ((List.range s.pkg.mesh.length).find? s.flitGoes).map fun k => (.meshFlitHop, { k })

/-- Whether a written ownership takes effect now: in the first cycle after the write whose slot is 0 (R298). -/
def State.calTurns (s : State) : Bool := s.pkg.time % 256 = 0 && s.pkg.regs.calownAt ≤ s.pkg.time

/-- `CALENDAR_OWNERSHIP_CHANGE` (R298): in a cycle whose slot is 0 a written ownership takes effect, and the programmed entries of
every slot that changes owner are cleared. -/
def execCalendarOwnershipChange (s : State) : Res :=
  match s.pkg.regs.calownW with
  | some w =>
    if s.calTurns then
      let s1 := s.updPkg fun k => { k with regs := { k.regs with calown := w, calownW := none } }
      let same := fun (e : Word × Word) => s1.slotOwner (e.1.toNat % 256) = s.slotOwner (e.1.toNat % 256)
      .next (s1.updPkg fun k =>
        { k with parts := k.parts.map fun q =>
          (q.1, { q.2 with ctxs := q.2.ctxs.map fun x => (x.1, { x.2 with calendar := x.2.calendar.filter fun e => same e }) }) })
    else .next s
  | none => .next s

/-- The change of ownership that is due. -/
def State.calDue (s : State) : Option (Instr × Stim) :=
  if s.pkg.regs.calownW.isSome ∧ s.calTurns then some (.calendarOwnershipChange, {}) else none

/-! ### The UCIe adapters (R300) -/

/-- Whether a flit at an adapter can go on: into a mesh, or into the hub, which takes the packet with its last flit. -/
def State.adapterGoes (s : State) (f : MeshFlit) : Bool :=
  match f.dest, f.pkt with
  | none, some k => k.drank = k.srank || s.hubRoom k
  | _, _ => true

/-- Whether two flits end packets of one VC for the hub, which keep their order (R325). -/
def MeshFlit.sameVc (a b : MeshFlit) : Bool :=
  match a.dest, a.pkt, b.dest, b.pkt with
  | none, some k, none, some l => vcOf k 0 = vcOf l 0
  | _, _, _, _ => false

/-- The flit of a partition that a die's adapter takes next: the first that can go on and that no flit of its VC precedes. -/
def State.adapterNext (s : State) (die p : Nat) : Option Nat :=
  (List.range s.pkg.adapter.length).find? fun j =>
    match s.pkg.adapter[j]? with
    | some e => e.1 = die && e.2.part = p && s.adapterGoes e.2 && !(s.pkg.adapter.take j).any fun x => x.1 = die && x.2.sameVc e.2
    | none => false

/-- The partition whose turn it is at a die's adapter. -/
def State.adapterPick (s : State) (die : Nat) : Option Nat :=
  let last := sget 7 s.pkg.adapterRr die
  ((List.range 8).map fun i => (last + 1 + i) % 8).find? fun p => (s.adapterNext die p).isSome

/-- A packet that has come from the hub stands with its flits at the adapter of the die of core `c` (R300). -/
def State.hubToDie (s : State) (c : Nat) (k : Packet) : State :=
  let f : Option Packet → Nat × MeshFlit := fun o => (c / 256, { die := c / 256, router := c % 16, port := 0, part := k.part, dest := some c, pkt := o })
  s.updPkg fun g => { g with adapter := g.adapter ++ List.replicate (pktFlits k - 1) (f none) ++ [f (some k)] }

/-- `UCIE_ADAPTER_FORWARD` (R300): the adapter of die `l` serves the next partition that has a flit waiting: the flit enters the
mesh of a die in its core's column, or the hub, where the last flit brings the packet to the package switch. With `n` = 1 the hub
hands entry `k` − 1 of the endpoint's queue to the adapter of the die whose core is to get it; with `n` = 2 a packet that waits at the
hub for room at the switch enters it (R306). -/
def execUcieAdapterForward (s : State) : Res :=
  if s.ev.n = 1 then
    match s.takeIn with
    | some (k, s1) => .next (match s.coreFor k with | some c => s1.hubToDie c k | none => s1.toSelf k)
    | none => .next s
  else if s.ev.n = 2 then
    match s.hubNext with
    | some j => match s.pkg.hubq[j]? with
      | some e => .next ((s.updPkg fun g => { g with hubq := ldel g.hubq j }).enterSwitch e.1)
      | none => .next s
    | none => .next s
  else
  match s.adapterPick s.ev.l with
  | none => .next s
  | some p =>
    match (s.adapterNext s.ev.l p).bind fun j => s.pkg.adapter[j]?.map fun e => (j, e) with
    | none => .next s
    | some (j, e) =>
      let s1 := s.updPkg fun g => { g with adapter := ldel g.adapter j, adapterRr := sset 7 g.adapterRr s.ev.l p }
      match e.2.dest with
      | some c =>
        let f : MeshFlit := { e.2 with die := c / 256, router := c % 16, port := 0, at_ := s.pkg.time + 1 }
        .next (s1.updPkg fun g => { g with mesh := g.mesh ++ [f] })
      | none => .next (match e.2.pkt with | some k => s1.endpoint k k.srank | none => s1)

/-! ### Lanes (R309, R310) -/

/-- Appends an event of a link to the link event log (R310). -/
def State.linkEvent (s : State) (l event : Nat) : State :=
  let k := s.getLink l
  s.updPkg fun g =>
    { g with regs := { g.regs with linklog := g.regs.linklog ++ [⟨s.pkg.time, l, event, k.good.toNat, k.acked, k.expect⟩] } }

/-- Whether a link carries traffic, and whether it is down. -/
def Link.open (k : Link) : Bool := k.up && !k.train
def Link.down (k : Link) : Bool := !k.up && !k.train

/-- The widest aligned group of lanes that are all set in a mask: its width and its lowest lane (R309). -/
def laneGroup (m : Nat) : Option (Nat × Nat) :=
  [16, 8, 4, 2, 1].findSome? fun w =>
    (((List.range (16 / w)).map (· * w)).find? fun f => (List.range w).all fun i => bit m (f + i)).map fun f => (w, f)

/-- WIDTH of LSTAT (R310). -/
def widthCode (w : Nat) : Nat := match w with | 16 => 5 | 8 => 4 | 4 => 3 | 2 => 2 | 1 => 1 | _ => 0

/-- Whether a lane is in a link's working group. -/
def Link.works (k : Link) (lane : Nat) : Bool := k.first ≤ lane && lane < k.first + k.width

/-- A retrain begins: 4 µs, 7,200 cycles (R3, R309). -/
def Link.retrain (k : Link) (now : Nat) : Link := { k with up := false, train := true, retrainAt := now + 7200 }

/-- Lanes are excluded from a link; it retrains where its working group has lost one. -/
def State.loseLanes (s : State) (l : Nat) (m : BitVec 16) : State :=
  let k := s.getLink l
  let hit := (List.range 16).any fun i => k.lanes.getLsbD i && m.getLsbD i && k.works i
  s.updLink l fun k =>
    let k1 := { k with good := k.good &&& ~~~m, lanes := k.lanes &&& ~~~m }
    if hit && k.open then k1.retrain s.pkg.time else k1

/-- `LANE_FAILURE` (R309): lane `v` of link `l` has lost lock, or with `n` ≠ 0 has counted `n` errors, which fails it only above the
threshold of LTHRESH. A lane that training has brought back can fail again (R309). -/
def execLaneFailure (s : State) : Res :=
  let k := s.getLink s.ev.l
  let t := k.lthresh.toNat % 65536
  if !k.lanes.getLsbD s.ev.v ∨ 8 ≤ s.ev.l ∨ (s.ev.n ≠ 0 ∧ (t = 0 ∨ s.ev.n ≤ t)) then .next s
  else .next ((s.loseLanes s.ev.l (BitVec.ofNat 16 (2 ^ s.ev.v))).linkEvent s.ev.l 1)

/-- `LSTAT_GOOD_WRITE` (R310): the lanes whose bits in `v` are 1 are excluded from link `l` until a reset. -/
def execLstatGoodWrite (s : State) : Res :=
  let m := BitVec.ofNat 16 s.ev.v
  if 8 ≤ s.ev.l then .next s else .next ((s.loseLanes s.ev.l m).updLink s.ev.l fun k => { k with barred := k.barred ||| m })

/-- A link starts to carry traffic on a group of lanes: its sender replays, its replay timer and its receiver's count start again
(R307, R308, R326). -/
def Link.raise (k : Link) (g : Nat × Nat) (now : Nat) : Link :=
  { k with up := true, train := false, width := g.1, first := g.2, resend := k.replay.length, lastAck := now, accepted := 0 }

/-- A link goes down: it will retry in 1 ms, 1,800,000 cycles (R309). -/
def Link.fall (k : Link) (now : Nat) : Link := { k with up := false, train := false, width := 0, first := 0, retryAt := now + 1800000 }

/-! ### Links: receiving (R307) -/

/-- The signed 16-bit difference of two sequence numbers. -/
def seqDiff (a b : Nat) : Int := sextNat (a + 65536 - b % 65536) 16

/-- Sends ACK or NAK on VC 64, carrying E − 1. -/
def State.sendAck (s : State) (l : Nat) (nak : Bool) : State := s.emit (.flit l (ctlFlit nak (((s.getLink l).expect + 65535) % 65536)))

/-- An error on a link: NAK, unless one is outstanding. -/
def State.linkError (s : State) (l : Nat) : State :=
  if (s.getLink l).nakOut then s else (s.sendAck l true).updLink l fun k => { k with nakOut := true }

/-- Packets up to `n` have been acknowledged. -/
def Link.free (k : Link) (n now : Nat) : Link :=
  let d := seqDiff n k.acked
  if 0 < d ∧ d.toNat ≤ k.replay.length then
    let left := k.replay.drop d.toNat
    { k with acked := n % 65536, replay := left, resend := Nat.min k.resend left.length, lastAck := now }
  else { k with lastAck := now }

/-- An acknowledgement of the packets up to `n`, and a request to send again from the one after (R308). -/
def Link.acks (k : Link) (n now : Nat) : Link := k.free n now
def Link.naks (k : Link) (n now : Nat) : Link := let k1 := k.free n now; { k1 with resend := k1.replay.length }

/-- `LINK_PACKET_RECEIVE` (R303, R307): the flits `fs` of a packet arrive on link `l`; a flit of VC 64 acknowledges. -/
def execLinkPacketReceive (s : State) : Res :=
  let l := s.ev.l
  let k := s.getLink l
  let f := s.ev.fs.headD ⟨[], 0⟩
  if !k.open ∨ 8 ≤ l ∨ s.ev.fs = [] ∨ !s.switchReady then .next s
  else if flitGood f ∧ flitVc f = 64 then
    .next (s.updLink l fun k => if isNakFlit f then k.naks (flitSeq f) s.pkg.time else k.acks (flitSeq f) s.pkg.time)
  else
    match if s.ev.fs.all (fun g => flitGood g && flitSeq g = flitSeq f && flitVc g = flitVc f) then parsePacket s.ev.fs else none with
    | none => .next (s.linkError l)
    | some pkt =>
      let d := seqDiff (flitSeq f) k.expect
      if d < 0 then .next s
      else if 0 < d then .next (s.linkError l)
      else
        let s1 := s.updLink l fun k =>
          { k with expect := (k.expect + 1) % 65536, nakOut := false, accepted := k.accepted + 1,
                   firstAt := if k.accepted = 0 then s.pkg.time else k.firstAt }
        let s2 := if k.accepted = 15 then (s1.sendAck l false).updLink l fun k => { k with accepted := 0 } else s1
        .next (s2.switchIn { vc := flitVc f, gen := flitGen f, pkt, port := l, vcIn := flitVc f })

/-- `ACK_TIMER_EXPIRY` (R307): 256 ns, 461 cycles, after the first packet accepted since the count last restarted; not while the
link carries nothing. -/
def execAckTimerExpiry (s : State) : Res :=
  let k := s.getLink s.ev.l
  if 0 < k.accepted ∧ k.open ∧ k.firstAt + 461 ≤ s.pkg.time then
    .next ((s.sendAck s.ev.l false).updLink s.ev.l fun k => { k with accepted := 0 })
  else .next s

/-! ### Links: sending (R306, R308) -/

/-- The first packet of a VC that a link's sender holds, where there is credit for it. -/
def Link.firstOf (k : Link) (vc : Nat) : Option Nat :=
  match k.sendq.findIdx? (fun t => t.vc = vc) with
  | some j => match k.sendq[j]? with
    | some t => if pktFlits t.pkt ≤ sget 32 k.credits vc then some j else none
    | none => none
  | none => none

/-- The new packet that a link's sender takes next: pod control, or the next VC in round robin that has a packet and credit for
it. -/
def Link.pick (k : Link) : Option Nat := (65 :: (List.range 64).map fun i => (k.rr + 1 + i) % 64).findSome? k.firstOf

/-- Whether a link has something to send. -/
def Link.sends (k : Link) : Bool := k.open && (0 < k.resend || (k.replay.length < 1024 && k.pick.isSome))

/-- Puts the flits of a packet on a link. -/
def State.sendFlits (s : State) (l seq : Nat) (t : TxPkt) : State :=
  (flitsOf t.pkt seq t.vc t.gen).foldl (fun s f => s.emit (.flit l f)) s

/-- `LINK_PACKET_SEND` (R306, R308): link `l` sends one whole packet, of those to be replayed first. -/
def execLinkPacketSend (s : State) : Res :=
  let l := s.ev.l
  let k := s.getLink l
  if !k.sends then .next s
  else if 0 < k.resend then
    let j := k.replay.length - k.resend
    match k.replay[j]? with
    | some t => .next ((s.sendFlits l ((k.acked + 1 + j) % 65536) t).updLink l fun k => { k with resend := k.resend - 1 })
    | none => .next (s.updLink l fun k => { k with resend := 0 })
  else
    match k.pick with
    | none => .next s
    | some j =>
      match k.sendq[j]? with
      | none => .next s
      | some t =>
        .next ((((s.freed t).sendFlits l k.seqNo t).updLink l fun k =>
          { k with sendq := ldel k.sendq j, seqNo := (k.seqNo + 1) % 65536, replay := k.replay ++ [t],
                   lastAck := if k.replay = [] then s.pkg.time else k.lastAck,
                   rr := if t.vc < 64 then t.vc else k.rr,
                   credits := sset 32 k.credits t.vc (sget 32 k.credits t.vc - pktFlits t.pkt) }))

/-- `ACK` (R308): an acknowledgement that carries `n` arrives on link `l`. -/
def execAck (s : State) : Res :=
  if (s.getLink s.ev.l).open then .next (s.updLink s.ev.l fun k => k.acks s.ev.n s.pkg.time) else .next s

/-- `NAK` (R308): packets up to `n` are freed, and the sender starts again from the one after. -/
def execNak (s : State) : Res :=
  if (s.getLink s.ev.l).open then
    .next (s.updLink s.ev.l fun k => k.naks s.ev.n s.pkg.time)
  else .next s

/-- Whether a link's sender has waited 2 µs, 3,600 cycles, for an acknowledgement. -/
def Link.late (k : Link) (now : Nat) : Bool := k.open && k.replay ≠ [] && k.resend < k.replay.length && k.lastAck + 3600 ≤ now

/-- `REPLAY_TIMEOUT` (R308): as NAK. -/
def execReplayTimeout (s : State) : Res :=
  if (s.getLink s.ev.l).late s.pkg.time then
    .next ((s.updLink s.ev.l fun k => { k with resend := k.replay.length, lastAck := s.pkg.time }).linkEvent s.ev.l 5)
  else .next s

/-- `VC_CREDIT_RETURN` (R306): `n` flits of buffer space of VC `v` come back to the sender of link `l`. -/
def execVcCreditReturn (s : State) : Res :=
  .next (s.updLink s.ev.l fun k => { k with credits := sset 32 k.credits s.ev.v (Nat.min 32 (sget 32 k.credits s.ev.v + s.ev.n)) })

/-! ### Generations (R312) and time (R313) -/

/-- `ROUTE_TABLE_WRITE` (R312): entry `k` of bank `n` becomes `v`, unless the bank is in use or packets of the old generation
remain. -/
def execRouteTableWrite (s : State) : Res :=
  let r := s.pkg.regs
  let old := if r.rgen then 1 else 0
  if s.ev.n = old ∨ r.oldLeft ∨ 1024 ≤ s.ev.k ∨ 2 ≤ s.ev.n then .next s
  else .next (s.updPkg fun g =>
    { g with regs := if s.ev.n = 0 then { g.regs with route0 := sset 0x000F g.regs.route0 s.ev.k (s.ev.v % 65536) }
                     else { g.regs with route1 := sset 0x000F g.regs.route1 s.ev.k (s.ev.v % 65536) } })

/-- `GENERATION_FLIP` (R312): new injections are stamped with the new generation; the old bank stays in use for the packets that
carry the old one. The sender of the message is told how many this package's switch holds, and every later number (log entry 73). -/
def execGenerationFlip (s : State) : Res :=
  match s.takeIn with
  | none => .next s
  | some (k, s1) =>
    let g := bit k.argq 0
    if g = s1.pkg.regs.rgen then .next s1
    else
      let s2 := s1.updPkg fun r => { r with regs := { r.regs with rgen := g, oldLeft := true } }
      let n := s2.oldHeld
      let s3 := s2.updPkg fun r => { r with regs := { r.regs with gencnt := n, oldTo := some (k.drank, k.srank), oldTold := n } }
      .next (if k.srank = k.drank then s3 else s3.sendOld k.drank k.srank n)

/-- `OLD_GENERATION_COUNT` (R312): the pod's count of packets of the old generation; once it is zero none is left to tell. With `n` = 1
this package's switch tells the pod controller how many it holds now. -/
def execOldGenerationCount (s : State) : Res :=
  if s.ev.n = 1 then
    match s.pkg.regs.oldTo with
    | some (me, dest) =>
      let n := s.oldHeld
      let s1 := s.updPkg fun g => { g with regs := { g.regs with oldTold := n, gencnt := if me = dest then n else g.regs.gencnt } }
      .next (if me = dest then s1 else s1.sendOld me dest n)
    | none => .next s
  else
    match s.takeIn with
    | none => .next s
    | some (k, s1) =>
      let n := k.argq % 2 ^ 32
      .next (s1.updPkg fun r =>
        { r with regs := { r.regs with gencnt := n, oldLeft := n ≠ 0, oldTo := if n = 0 then none else r.regs.oldTo } })

/-- A function's FUNCREADY bit is set (R367). -/
def State.funcReady (s : State) (n : Nat) : State :=
  s.updPkg fun g => { g with regs := { g.regs with funcready := if g.regs.funcready.contains n then g.regs.funcready else g.regs.funcready ++ [n] } }

/-- `TIME` (R313): the master's counter says by how much the chip cycle counter is to be corrected; within 2 cycles the time base
is locked (R367). One link that is UP suffices (DESIGN CHOICE, log entry 130). -/
def execTime (s : State) : Res :=
  match s.takeIn with
  | none => .next s
  | some (k, s1) =>
    if s1.pkg.links.any fun e => e.2.up then
      let d : Int := (k.argq : Int) - s1.pkg.time
      let s2 := s1.updPkg fun g => { g with corr := d }
      .next (if -2 ≤ d ∧ d ≤ 2 then s2.funcReady (32 * 32 + 22) else s2)
    else .next s1

/-! ### What is due, and what may happen -/

/-- The timers of the links. -/
def State.linkDue (s : State) : Option (Instr × Stim) :=
  s.pkg.links.findSome? fun e =>
    let now := s.pkg.time
    let k := e.2
    if k.train && k.retrainAt ≤ now then some ((.retrainDone, { l := e.1 }) : Instr × Stim)
    else if k.down && k.retryAt ≠ 0 && k.retryAt ≤ now then some (.trainingRetry, { l := e.1 })
    else if 0 < k.accepted && k.open && k.firstAt + 461 ≤ now then some (.ackTimerExpiry, { l := e.1 })
    else if k.late now then some (.replayTimeout, { l := e.1 })
    else none

/-- The steps of the network that may happen now. -/
def State.netSteps (s : State) : List (Instr × Stim) :=
  ((List.range 4).filterMap fun d => if (s.adapterPick d).isSome then some ((.ucieAdapterForward, { l := d }) : Instr × Stim) else none)
  ++ (if s.hubNext.isSome then [((.ucieAdapterForward, { n := 2 }) : Instr × Stim)] else [])
  ++ s.pkg.links.filterMap fun e => if e.2.sends then some ((.linkPacketSend, { l := e.1 }) : Instr × Stim) else none

end Sys2Proof.Machine
end

