-- ==== Sys2Proof/Machine/Park.lean ====
section
/-! DEFINITION. What a gang switch does on the package: stopping a gang (R342), the eager save and the restore of its cores (R346,
R347), its kennel (R344, R345), and the exchange of regions (R348). -/

namespace Sys2Proof.Machine

/-! ### Stopping a gang (R342) -/

/-- Whether a core runs a task of a context. -/
def Core.runs (c : Core) (p slot : Nat) : Bool := c.phase ≠ .idle && c.th.task.ctx = (p, slot)

/-- Every core of a context stops (R342 step 1): one whose task folds, is dropped or is being pre-empted comes to its end first. -/
def State.stopGang (s : State) (p slot : Nat) : State :=
  (s.allCores.filter fun c => c.runs p slot && (c.phase = .run || c.phase = .ending || c.phase = .released)).foldl
    (fun s c => s.haltCore c.num 2) s

/-- Whether a packet of a context is in the mesh or an adapter, or waits at the hub. -/
def State.meshBusy (s : State) (p slot : Nat) : Bool :=
  let mine := fun (k : Packet) => k.part = p && s.pktSlot k = some slot
  let flit := fun (f : MeshFlit) => match f.pkt with
    | some k => mine k
    | none => false
  s.pkg.mesh.any flit || s.pkg.adapter.any (fun e => flit e.2) || s.pkg.hubq.any fun e => mine e.1

/-- Whether a started command has packets still to inject (R342 step 3): steps to make, data that it awaits and sends on to another
rank, or, where it is no collective, a signal for another rank. -/
def State.stillSends (s : State) (m : Cmd) : Bool :=
  m.cur.isSome || m.next ≠ [] || match s.cmdCtx m with
    | none => false
    | some d =>
      !isColl m.instr && ((m.wait ≠ 0 && usesDst m.instr && gaRank m.src ≠ d.rank && gaRank m.dst ≠ d.rank)
        || (m.signals && !m.held && !m.signalled && gaRank m.sig ≠ d.rank))

/-- Whether a context has come to rest (R342 steps 1 to 3): its cores have stopped, its started commands have moved their last
block, its queued accesses, but for those behind a lock or wait that stays at its home (R140), and its packets have left the cores. -/
def State.gangStill (s : State) (p slot : Nat) : Bool :=
  s.allCores.all (fun c => !c.runs p slot || (c.phase = .stopped 2 && c.mQuiet))
    && !s.allCores.any (fun c => c.qacc.any fun q => q.task.ctx = (p, slot) && !s.heldBack q)
    && !s.pkg.cmds.any (fun m => m.task.ctx = (p, slot) && !m.stopped && s.stillSends m)
    && !s.meshBusy p slot

/-- A context goes on where it stopped (R213). -/
def State.resumeGang (s : State) (p slot : Nat) : State :=
  (s.allCores.filter fun c => c.runs p slot && c.phase = .stopped 2).foldl (fun s c => s.unhalt c.num) s

/-! ### Eager blocks (R346) -/

/-- The words of a snapshot that are in use (R223). -/
def snapUsed (t : Thread) (n : Snap) : List Nat :=
  let f := fun (base k : Nat) => (List.range k).map (base + ·)
  f 0 16 ++ f 0x10 (5 * n.land.countP (·.isSp)) ++ f 0x150 (68 * n.land.countP (·.isV)) ++ f 0x1250 (8 * n.slips.length)
    ++ f 0x12D0 (64 * n.holders.length) ++ f 0x1350 32 ++ f 0x1370 (64 * t.mq.countP (·.kept)) ++ f 0x1470 (19 * t.cbuf.length)
    ++ n.newM.flatMap (fun e => f (0x1370 + 64 * e.1) 64) ++ n.newC.flatMap (fun e => f (0x1470 + 19 * e.1) 19)
    ++ ((List.range 8).filter fun k => (sget {} t.recs k).valid).flatMap fun k => f (0x16D0 + 24 * k) 24

/-- Bytes of 32-bit words. -/
def leWords (l : List Word) : List Byte := l.flatMap fun w => leBytes w.toNat 4

/-- The words of the eager block of the core whose turn it is that the restore compares: those of the snapshot that are in use, and the
CSRs, by word offset (R346). -/
def State.eagerWords (s : State) : List (Nat × Word) :=
  let t := s.core.th
  (match t.snap with
    | some n => (snapUsed t n).map fun w => (w, s.snapRead t w)
    | none => []) ++ (List.range 64).map fun n => (0x1940 + n, s.csrVal n)

/-- The parts of the eager block of the core whose turn it is, each with its offset (R346). -/
def State.eagerParts (s : State) : List (Nat × List Byte) :=
  let t := s.core.th
  let r := List.range
  (s.eagerWords.map fun e => (4 * e.1, leBytes e.2.toNat 4))
  ++ [(0x6000, leWords ((r 64).map fun n => if xPort n then 0 else t.rx n)),
      (0x6100, (r 128).flatMap fun n => leBytes (t.rp n).toNat 8),
      (0x6600, leWords ((r 16).map fun k => lget 0x3F800000 t.scale k)),
      (0x6640, leWords (t.tlatch :: (r 4).map fun k => let b := sget 0 t.binds k; if b = 0 then 0 else w32 (2 ^ 31 + (b - 1)))),
      (0x6680, (r 256).flatMap fun i => let e := sget 0 t.tags i; leBytes (if e = 0 then 0 else (e - 1) * 2 ^ 12 + 2 ^ 63) 8),
      (0x6E80, leWords ((r 32).map (fun k => lget 0 t.lq k) ++ [w32 t.lq.length])),
      (0x7000, (r 4).flatMap fun k => leBytes (lget 0 t.vq k).toNat 256),
      (0x7400, (r 64).flatMap fun n => leBytes (t.rv n).toNat 256),
      (0xB400, leBytes t.vq.length 4 ++ List.replicate 2044 0),
      (0xBC08, List.replicate 1016 0)]

/-- Writes the eager block of a core to the block of a logical core in a context's save area. -/
def State.putBlockOf (s : State) (d : CtxDesc) (l core : Nat) : State :=
  let parts := (s.onCoreV core fun s => (s.eagerParts, s)).1
  s.updPkg fun k => { k with hbm := { k.hbm with mem := parts.foldl (fun m e => bytesPut m (d.block l + e.1) e.2) k.hbm.mem } }

/-- Writes the eager block of a stopped core to its context's save area, and keeps its thread with the context: the core is
free. -/
def State.saveCore (s : State) (d : CtxDesc) (core : Nat) : State :=
  let s1 := (s.flushNests core).flushL1 core fun _ => true
  let c := s1.getCore core
  let t := c.th
  let l := s1.lcoreOf t.task.part d.slot core
  let s2 := s1.putBlockOf d l core
  let th : Thread := { t with core := l, wrote := (s1.onCoreV core fun s => (s.eagerWords, s)).1 }
  (s2.updCoreN core fun c => { c with phase := .idle, th := {}, env := {}, issue := .issued, xreq := none, xans := [] }).updCtx
    t.task.part d.slot fun x => { x with saved := x.saved ++ [th] }

/-- The contexts of a partition hold no wired-AND line: none of them runs (R284). -/
def State.dropLines (s : State) (p : Nat) : State :=
  s.updPart p fun q => { q with ctxs := q.ctxs.map fun e =>
    (e.1, { e.2 with episodes := e.2.episodes.map fun (e : Episode) => { e with line := none } }) }

/-- The eager blocks of the logical cores of a context that run no task (R346). -/
def State.saveIdle (s : State) (p : Nat) (d : CtxDesc) : State :=
  (List.range d.ncore).foldl (fun s l =>
    match s.physCore d l with
    | some c =>
      if (s.getCore c).phase = .idle ∧ (s.getPart p).cores.contains c then
        let blank : Thread := { core := c, task := { part := p, slot := d.slot } }
        (s.updCoreN c fun k => { k with th := blank, env := {} }).putBlockOf d l c |>.updCoreN c fun k => { k with th := {} }
      else s
    | none => s) s

/-- The context header as a save writes it (R346): for each group 128 bytes, bit `l` a member on logical core `l`, and from 0x2000 on for
each group 16 bytes of its open episode, without its arrivals (DESIGN CHOICE of the layout, log entry 65). -/
def Ctx.header (x : Ctx) : List (Nat × List Byte) :=
  (List.range 64).flatMap fun g =>
    [(128 * g, leBytes ((x.saved.filter fun t => t.csr.gmask.getLsbD g).foldl (fun n t => n ||| 2 ^ (t.core % 1024)) 0) 128),
     (0x2000 + 16 * g, match x.open g with
       | some e => leBytes (1 + (match e.die with | some d => 2 + d % 4 * 2 ^ 8 | none => 0) + e.pts % 2 ^ 32 * 2 ^ 32 + e.opened % 2 ^ 64 * 2 ^ 64) 16
       | none => leBytes 0 16)]

/-- Writes the header of a context that goes out. -/
def State.putHeader (s : State) (p : Nat) (d : CtxDesc) : State :=
  let x := s.getCtx p d.slot
  let s1 := s.updCtx p d.slot fun x => { x with kept := true }
  if d.save = 0 then s1
  else s1.updPkg fun k => { k with hbm := { k.hbm with mem := x.header.foldl (fun m e => bytesPut m (d.save + e.1) e.2) k.hbm.mem } }

/-- The memberships of a saved thread as the header has them: those of the eager block, but where the header no longer is what the save
wrote. -/
def State.headGroups (s : State) (d : CtxDesc) (old new : Thread) : BitVec 64 :=
  BitVec.ofNat 64 ((List.range 64).foldl (fun n g =>
    let h := bit (s.hbmLe (d.save + 128 * g + old.core / 8) 1) (old.core % 8)
    if (if h = old.csr.gmask.getLsbD g then new.csr.gmask.getLsbD g else h) then n + 2 ^ g else n) 0)

/-- The open episodes of a context as its header has them. -/
def State.headEpisodes (s : State) (d : CtxDesc) : List Episode :=
  (List.range 64).filterMap fun g =>
    let w := s.hbmLe (d.save + 0x2000 + 16 * g) 16
    if !bit w 0 then none
    else some { grp := g, die := if bit w 1 then some (bits w 15 8 % 4) else none, line := none, arrived := [], opened := bits w 127 64, pts := bits w 63 32 }

/-- The eager save of every core of a partition's running gang (R346): those that are stopped, and those that run no task. -/
def State.saveGang (s : State) (p : Nat) : State :=
  let s := match s.gangCtx p (s.getPart p).gang with | some d => s.saveIdle p d | none => s
  let s1 := ((s.allCores.filter fun c => c.phase = .stopped 2 && c.th.task.part = p).foldl (fun s c =>
    match s.taskCtx c.th.task with
    | some d => s.saveCore d c.num
    | none => s) s).dropLines p
  match s1.gangCtx p (s1.getPart p).gang with | some d => s1.putHeader p d | none => s1

/-- A CSR as the restore takes it from the eager block (R346). -/
def Thread.restoreCsr (t : Thread) (n : Nat) (w : Word) : Thread :=
  match n with
  | 0x012 => { t with csr := { t.csr with pts := w.toNat } }
  | 0x018 => { t with csr := { t.csr with gmask := setLo t.csr.gmask w } }
  | 0x019 => { t with csr := { t.csr with gmask := setHi t.csr.gmask w } }
  | _ => { t.setCsr n w with holdCnt := t.holdCnt }

/-- A thread with what its eager block holds (R346): the words of its snapshot and its CSRs where they are no longer those that the save
wrote, the registers, the scale table, the `rtime` latch, the link-port bindings, the tag table, and the entries of lq and vq. -/
def State.reload (s : State) (base : Nat) (t : Thread) : Thread :=
  let m := s.pkg.hbm.mem
  let nums := fun (o top n : Nat) => (unpackNums m (base + o) (base + top) n n).filter fun e => e.2 ≠ 0
  let word := fun (o : Nat) => w32 (leGet m (base + o) 4)
  let t2 := t.wrote.foldl (fun (t : Thread) e =>
    let v := word (4 * e.1)
    if v = e.2 then t
    else if 0x1940 ≤ e.1 then t.restoreCsr (e.1 - 0x1940) v
    else match t.snap with
      | some n => snapSet t n e.1 v
      | none => t) t
  let table := (List.range 16).map fun k => word (0x6600 + 4 * k)
  let same : Bool := decide (table = (List.range 16).map (lget 0x3F800000 t.scale))
  let nl := Nat.min 32 (word 0x6F00).toNat
  let nv := Nat.min 4 (word 0xB400).toNat
  { t2 with
    wrote := []
    x := putNums 0 w32 [] 0 ((nums 0x6000 0x6100 4).filter fun e => e.1 ≠ 0 && !xPort e.1)
    p := putNums 0 (BitVec.ofNat 64) [] 0 ((nums 0x6100 0x6500 8).filter (·.1 ≠ 0))
    scale := if same then t.scale else table
    scaleV := if same then t.scaleV else table
    tlatch := word 0x6640
    binds := putNums 0 id [] 0 ((List.range 4).filterMap fun k =>
      let w := (word (0x6644 + 4 * k)).toNat
      if bit w 31 then some (k, w % 64 + 1) else none)
    tags := putNums 0 id [] 0 ((nums 0x6680 0x6E80 8).filterMap fun e => if bit e.2 63 then some (e.1, bits e.2 47 12 + 1) else none)
    lq := ((List.range nl).map fun k => word (0x6E80 + 4 * k)) ++ t.lq.drop nl
    vq := ((List.range nv).map fun k => BitVec.ofNat 2048 (leGet m (base + 0x7000 + 256 * k) 256)) ++ t.vq.drop nv
    v := putNums 0 (BitVec.ofNat 2048) [] 0 (nums 0x7400 0xB400 256) }

/-- What a thread has under way in its own scratchpad is there on another core. -/
def QAcc.moved (q : QAcc) (src dst : Nat) : QAcc :=
  match q.place with
  | .spad k o => if k = src && q.va < spadEnd then { q with place := .spad dst o } else q
  | .mem .. => q

/-- The queued accesses of a thread that stayed behind a lock or wait go with it to another core, and what it has registered at a home
(R140, R346). -/
def State.moveQueue (s : State) (tid dst : Nat) : State :=
  let s1 := (s.allCores.filter fun c => c.num ≠ dst && (c.qacc.any (·.tid = tid) || c.qack.contains tid)).foldl (fun s c =>
    (s.updCoreN dst fun x => { x with qacc := x.qacc ++ (c.qacc.filter (·.tid = tid)).map (·.moved c.num dst), qack := x.qack ++ c.qack.filter (· = tid) }).updCoreN
      c.num fun x => { x with qacc := x.qacc.filter (·.tid ≠ tid), qack := x.qack.filter (· ≠ tid) }) s
  s1.updPkg fun k =>
    { k with waiters := lmapIf (·.acc.tid = tid) (fun (w : Waiter) => { w with core := dst, acc := w.acc.moved w.core dst }) k.waiters }

/-- Brings a saved thread back, with its eager block, to the physical core that its logical core now has. -/
def State.restoreThread (s : State) (p : Nat) (d : CtxDesc) (t : Thread) : State :=
  match s.physCore d t.core with
  | none => s
  | some c =>
    if (s.getCore c).phase ≠ .idle ∨ !(s.getPart p).cores.contains c then s
    else
      let s1 := s.updCtx p d.slot fun x => { x with saved := x.saved.filter (·.tid ≠ t.tid) }
      let mine := fun (m : Cmd) => { m with own := c }
      let r := s.reload (d.block t.core) t
      let t : Thread := if d.save = 0 then r else { r with csr := { r.csr with gmask := s.headGroups d t r } }
      let th : Thread := { t with core := c, cbuf := t.cbuf.map mine }
      let s2 := (s1.moveQueue t.tid c).updCoreN c fun k => { k with phase := .stopped 2, th, env := {}, issue := .issued }
      (s2.updPkg fun k => { k with cmds := lmapIf (·.tid = t.tid) mine k.cmds }).unhalt c

/-- The restore of a context's cores (R346), with the core map as the device reads it now (R335), and of its header where it has been
saved before. -/
def State.restoreGang (s : State) (p : Nat) (d : CtxDesc) : State :=
  let s1 := s.updCtx p d.slot fun x =>
    { x with lmap := s.readMap d x.lmap, episodes := if x.kept && d.save ≠ 0 then s.headEpisodes d else x.episodes }
  (s1.getCtx p d.slot).saved.foldl (fun s t => s.restoreThread p d t) s1

/-! ### The kennel (R344, R345) -/

/-- The VC of a buffered packet decides its place in the order of capture. -/
def State.captureOne (s : State) (p slot : Nat) (wher : Nat) (drop : State → State) (t : TxPkt) : State :=
  let r := s.capture p slot t wher (wher ≠ 2) (wher = 0)
  if r.1 then drop r.2
  else s.updPart p fun q => { q with vote := { q.vote with kfull := true } }

/-- Whether a buffered packet belongs to a context. -/
def State.owned (s : State) (p slot : Nat) (t : TxPkt) : Bool := t.pkt.part = p && s.pktSlot t.pkt = some slot

/-- Writes the buffered packets of a context to its kennel (R344): VC by VC those that wait for a link, then those of the
endpoint's queue, then the contributions in reduction slots. -/
def State.captureAll (s : State) (p slot : Nat) : State :=
  let vcs := List.range 64
  let s1 := vcs.foldl (fun s vc => (List.range 8).foldl (fun s l =>
    ((s.getLink l).sendq.filter fun t => t.vc = vc && s.owned p slot t).foldl (fun s t =>
      s.captureOne p slot 0 (fun s => s.updLink l fun k => { k with sendq := k.sendq.erase t }) t) s) s) s
  let s2 := vcs.foldl (fun s vc => (s.pkg.inq.filter fun t => t.vc = vc && t.port ≠ inside && s.owned p slot t).foldl (fun s t =>
    s.captureOne p slot (if t.held then 0 else 2) (fun s => s.updPkg fun k => { k with inq := k.inq.erase t }) t) s) s1
  (s2.pkg.rslots.filter fun r => s2.owned p slot r.tx).foldl (fun s r =>
    s.captureOne p slot 1 (fun s => s.updPkg fun k => { k with rslots := k.rslots.erase r }) r.tx) s2

/-- The packet of a kennel record, with the port it arrived on. -/
def State.recordPkt (s : State) (a : Nat) : Option TxPkt :=
  let n := s.hbmLe a 1
  let fs : List Flit := (List.range n).map fun i =>
    { body := bytesGet s.pkg.hbm.mem (a + 0x40 + 64 * i) 64, hdr := BitVec.ofNat 64 (s.hbmLe (a + 8 + 8 * i) 8) }
  (parsePacket fs).map fun pkt =>
    { vc := s.hbmLe (a + 3) 1, gen := s.pkg.regs.rgen, pkt, port := s.hbmLe (a + 2) 1, vcIn := s.hbmLe (a + 3) 1 }

/-- Whether the kennel of the running gang of a partition holds records. -/
def State.kennelLeft (s : State) (p : Nat) : Option CtxDesc :=
  if !(s.getPart p).reinject then none
  else match s.gangCtx p (s.getPart p).gang with
    | some d => if d.kennel ≠ 0 ∧ s.hbmLe (d.kennel + 4) 4 < s.hbmLe d.kennel 4 then some d else none
    | none => none

/-- `KENNEL_REINJECT` (R345): the next record of the running gang's kennel returns to the point it was taken from; after the last
one the header is zero. A record of the switch is counted as it leaves the kennel, as it was when it entered; its place in a switch
input was given back then. With `n` = 1 packet `k` of those that the kennel had no room for goes its way from the switch. -/
def execKennelReinject (s : State) : Res :=
  let p := s.ev.p
  if s.ev.n = 1 then
    match s.pkg.swq[s.ev.k]? with
    | some t => .next ((s.updPkg fun g => { g with swq := ldel g.swq s.ev.k }).switchIn t)
    | none => .next s
  else
  match s.kennelLeft p with
  | none => .next (s.updPart p fun q => { q with reinject := false })
  | some d =>
    let n := s.hbmLe (d.kennel + 4) 4
    let a := d.kennel + 64 + 384 * n
    let last := n + 1 = s.hbmLe d.kennel 4
    let head := fun (m : Memory) => if last then lePut m d.kennel 0 8 else lePut m (d.kennel + 4) (n + 1) 4
    let s1 := (s.updPkg fun k => { k with hbm := { k.hbm with mem := head k.hbm.mem } }).updPart p fun q => { q with reinject := !last }
    match s.recordPkt a with
    | none => .next s1
    | some t =>
      if s.hbmLe (a + 1) 1 = 2 then .next (s1.updPkg fun g => { g with inq := g.inq ++ [t] })
      else .next ((s1.updCtx p d.slot fun x => { x with sent := x.sent + 1 }).switchIn { t with port := 8 })

/-- Whether a packet that the kennel had no room for is to stay in the switch (R344). -/
def State.stays (s : State) (t : TxPkt) : Bool :=
  match s.pktSlot t.pkt with
  | some slot => s.capturing t.pkt.part slot
  | none => false

/-- The kennel that is to be emptied before its gang goes on; then what stayed in the switch. -/
def State.kennelDue (s : State) : Option (Instr × Stim) :=
  match s.pkg.parts.find? (fun q => q.2.reinject) with
  | some q => some (.kennelReinject, { p := q.1 })
  | none => (s.pkg.swq.findIdx? fun t => !s.stays t).map fun k => (.kennelReinject, { n := 1, k })

/-! ### Exchanges (R348) -/

/-- `EXCHANGE_COMPLETE` (R348): exchange `k` of core `c` finishes; the accesses that wait for it proceed. -/
def execExchangeComplete (s : State) : Res :=
  match (s.getCore s.ev.c).exch[s.ev.k]? with
  | some e =>
    match e.toucher with
    | .ctx p slot => .next (s.exchange s.ev.c e.region p slot)
    | _ => .next s
  | none => .next s

/-- The exchanges under way. -/
def State.exchSteps (s : State) : List (Instr × Stim) :=
  s.allCores.flatMap fun c => (List.range c.exch.length).map fun k => ((.exchangeComplete, { c := c.num, k }) : Instr × Stim)

/-! ### The switch of a partition from one gang to another -/

/-- The running gang goes out and another comes in (R339, R346): its calendar entries from the next slot 0 on (R301), its kennel
before its tasks (R345). -/
def State.switchGang (s : State) (p h : Nat) : State :=
  let g := (s.getPart p).gang
  let s2 := (s.saveGang p).updPart p fun q =>
    { q with gang := h, calPrev := g, calAt := (s.pkg.time / 256 + 1) * 256, reinject := true }
  match s2.gangCtx p h with
  | some d => s2.restoreGang p d
  | none => s2

end Sys2Proof.Machine
end

