-- ==== Sys2Proof/Machine/Gang.lean ====
section
/-! DEFINITION. The rota of a partition and its boundaries (R336, R337), the vote with its coordinator and its participants (R338
to R341), the column log (R343), and a link that goes down under a vote (R309, R340). -/

namespace Sys2Proof.Machine

/-! ### The column (R336) -/

/-- QUANT and GANG of a row. -/
def Partition.quant (q : Partition) (j : Nat) : Nat := (sget 0 q.regs.rota j).toNat % 1024
def Partition.rowGang (q : Partition) (j : Nat) : Nat := (sget 0 q.regs.rota j).toNat / 65536

/-- Whether the column is valid: every row within ROTALEN has a quantum. -/
def Partition.columnOk (q : Partition) : Bool :=
  1 ≤ q.regs.rotalen && q.regs.rotalen ≤ 64 && (List.range q.regs.rotalen).all fun j => q.quant j ≠ 0

/-- The length of a round in cycles. -/
def Partition.roundLen (q : Partition) : Nat := 4096 * ((List.range q.regs.rotalen).map q.quant).foldl (· + ·) 0

/-- The row in progress and its gang: the last row of an ended round continues until the first round of a new column begins (R336). -/
def Partition.cell (q : Partition) : Nat × Nat := q.tail.getD (q.rowNow, q.rowGang q.rowNow)

/-- The first point `epoch` + k × `len` at or after a cycle, for an integer k. -/
def gridNext (epoch len t : Nat) : Nat :=
  if t ≤ epoch then epoch - (epoch - t) / len * len else epoch + (t - epoch + len - 1) / len * len

/-- The number k of the round that starts at a cycle, in 32 bits. -/
def roundNo (epoch len t : Nat) : Nat := (((t : Int) - epoch) / len % 2 ^ 32).toNat

/-- Whether writes to the column wait. -/
def PartRegs.waits (r : PartRegs) : Bool := r.rotalenW.isSome || r.rotaepochW.isSome || r.rotaW ≠ []

/-- The column as written. -/
def PartRegs.written (r : PartRegs) : PartRegs :=
  { r with rotalen := r.rotalenW.getD r.rotalen, rotaepoch := r.rotaepochW.getD r.rotaepoch,
           rota := r.rotaW.foldl (fun m e => sset 0 m e.1 e.2) r.rota, rotalenW := none, rotaepochW := none, rotaW := [] }

/-- Whether the round in progress has ended, or none is in progress, and writes wait. -/
def Partition.applies (q : Partition) (now : Nat) : Bool :=
  q.regs.waits && (!q.columnOk || (q.rowNow + 1 = q.regs.rotalen && q.nextAt ≤ now))

/-- `ROTA_COLUMN_APPLY` (R336): the written column takes effect in partition `p` at the end of the round in progress, or at once
where none is; the next round starts at the next point of its grid. An invalid column runs nothing. -/
def execRotaColumnApply (s : State) : Res :=
  let p := s.ev.p
  let q := s.getPart p
  if !q.applies s.pkg.time then .next s
  else
    let fin := if q.columnOk then q.nextAt else s.pkg.time
    let r := q.regs.written
    let q1 : Partition := { q with regs := r, rowNow := r.rotalen - 1, tail := if q.columnOk then some (q.rowNow, q.rowGang q.rowNow) else none }
    if q1.columnOk then .next (s.updPart p fun _ => { q1 with nextAt := gridNext r.rotaepoch q1.roundLen fin })
    else
      let s1 := s.updPart p fun _ => q1
      let s2 := match s1.gangCtx p q.gang with | some d => s1.stopGang p d.slot | none => s1
      .next ((s2.updPart p fun q => { q with gang := 0 }).dropLines p)

/-! ### The participant set (R337) -/

/-- This package's pod id, as the context of one of two gangs gives it. -/
def State.myPod (s : State) (p g h : Nat) : Nat :=
  match s.gangCtx p g, s.gangCtx p h with
  | some d, _ => s.podId d d.rank
  | none, some d => s.podId d d.rank
  | none, none => 0

/-- The packages that hold a rank of a gang: by the rank map of its context here. A gang with no context here is known to the
pod controller only (log entry 16). -/
def State.podsOf (s : State) (p g : Nat) : List Nat :=
  if g = 0 then []
  else match s.gangCtx p g with
    | some d => (List.range d.gangsz).map (s.podId d)
    | none => Config.gangPods p g

/-- The gangs that a package of the pod changes between at a boundary: this one by its own column, another by what the pod
controller keeps consistent (log entry 16). -/
def State.cellOf (s : State) (p me pod : Nat) : Nat × Nat :=
  let q := s.getPart p
  if pod = me then (q.gang, q.rowGang q.rowNow)
  else let c := Config.column pod p q.roundNow q.rowNow; (c.1 % 65536, c.2 % 65536)

/-- The smallest participant set that holds the packages of a list, with G and H of each. -/
def closePods (s : State) (p me : Nat) : Nat → List Nat → List (Nat × Nat × Nat) → List (Nat × Nat × Nat)
  | 0, _, acc => acc
  | _ + 1, [], acc => acc
  | n + 1, pod :: rest, acc =>
    let c := s.cellOf p me pod
    let acc1 := acc ++ [(pod, c.1, c.2)]
    let more := ((s.podsOf p c.1 ++ s.podsOf p c.2).eraseDups).filter fun x => !rest.contains x && !acc1.any fun e => e.1 = x
    closePods s p me n (rest ++ more) acc1

/-- Whether another package of the pod changes gang at this boundary. -/
def State.changes (s : State) (p me pod : Nat) : Bool := pod ≠ me && let c := s.cellOf p me pod; c.1 ≠ c.2

/-- The participant set of a vote at a boundary of this package, in order of pod id: every package that changes gang, and those that
hold a rank of a gang concerned (R337). -/
def State.participants (s : State) (p me : Nat) : List (Nat × Nat × Nat) :=
  sortBy (fun a b => a.1 < b.1) (closePods s p me 1024 (me :: (List.range 1024).filter (s.changes p me)) [])

/-! ### Vote messages (R338) -/

/-- A pod-control packet of a vote. -/
def votePkt (i : VoteId) (p me dest msg : Nat) : Packet :=
  { drank := dest, srank := me, part := p, kind := 11, msg, row := i.row, attempt := i.attempt, round := i.round, coord := i.coord }

/-- Sends a pod-control packet. -/
def State.podSend (s : State) (me : Nat) (k : Packet) : State := s.endpoint k me

/-- Updates the vote of a partition. -/
def State.updVote (s : State) (p : Nat) (f : Vote → Vote) : State := s.updPart p fun q => { q with vote := f q.vote }

/-- The coordinator sends a message to every participant. -/
def State.toAll (s : State) (p msg : Nat) (f : Packet → Packet) : State :=
  let v := (s.getPart p).vote
  match v.cid with
  | none => s
  | some i => v.set.foldl (fun s e => s.podSend i.coord (f (votePkt i p i.coord e.1 msg))) s

/-- The participant answers its coordinator. -/
def State.answerVote (s : State) (p msg : Nat) (f : Packet → Packet) : State :=
  let v := (s.getPart p).vote
  s.podSend v.me (f (voteReply v p msg))

/-- The identity that a vote message carries. -/
def msgId (k : Packet) : VoteId := ⟨k.round, k.row, k.attempt, k.coord⟩

end Sys2Proof.Machine
end

