-- ==== Sys2Proof/Machine/Vote.lean ====
section
/-! DEFINITION. The vote (R337 to R345): boundaries, the participant's and the coordinator's steps, their timers, and links that
go down under a vote (R309). -/

namespace Sys2Proof.Machine

/-! ### The column log (R343) -/

/-- Appends a record of a partition's vote to its column log; `drain` is the time from the first sample to the decision. -/
def State.colLog (s : State) (p event reason who drain : Nat) : State :=
  s.updPart p fun q =>
    let v := q.vote
    let i : VoteId := v.id.getD ⟨0, 0, 0, 0⟩
    let e : ColEnt :=
      { time := s.pkg.time, gout := v.g, gin := v.h, row := i.row, event, reason, who, attempt := i.attempt, kpkt := v.kpkt, drain }
    { q with regs := { q.regs with collog := sset ⟨0, 0, 0, 0, 0, 0, 0, 0, 0, 0⟩ q.regs.collog (q.regs.colhead % 256) e
                                   colhead := q.regs.colhead + 1 } }

/-! ### Boundaries (R337) -/

/-- The coordinator asks every participant to prepare. A set of more than 42 packages, 252 bytes, takes several packets, which carry
the size of the set in ARG (R304, log entry 13). -/
def State.callVote (s : State) (p : Nat) (i : VoteId) (set : List (Nat × Nat × Nat)) : State :=
  let s1 := s.updVote p fun v =>
    { v with cst := .waitReady, cid := some i, set, replies := [], prev := none, timer := s.pkg.time, firstSample := 0, doneFrom := [] }
  let part := fun (j : Nat) => ((set.drop (42 * j)).take 42).flatMap fun (e : Nat × Nat × Nat) => leBytes e.1 2 ++ leBytes e.2.1 2 ++ leBytes e.2.2 2
  (List.range ((set.length + 41) / 42)).foldl (fun s j =>
    s.toAll p 1 fun k => { k with payload := part j, arg := if 42 < set.length then w32 set.length else 0 }) s1

/-- A retry that has not been made is cancelled, and logged so by each participant (R337, R343). -/
def State.cancelRetry (s : State) (p : Nat) : State :=
  let v := (s.getPart p).vote
  let s1 := if v.aborted then (s.colLog p 4 0 (v.id.elim 0 (·.coord)) 0).updVote p fun v => { v with aborted := false, id := none } else s
  if v.cst = .backoff then s1.updVote p fun v => { v with cst := .idle, cid := none } else s1

/-- `ROTA_BOUNDARY` (R336, R337): the next row of partition `p` begins; where its gang is another than the one that runs, and this
package has the lowest pod id of those concerned, it calls a vote. -/
def execRotaBoundary (s : State) : Res :=
  let p := s.ev.p
  let q := s.getPart p
  if !q.columnOk ∨ s.pkg.time < q.nextAt ∨ q.applies s.pkg.time then .next s
  else
    let j := (q.rowNow + 1) % q.regs.rotalen
    let s1 := (s.cancelRetry p).updPart p fun q =>
      { q with rowNow := j, tail := none, nextAt := q.nextAt + q.quant j * 4096
               roundNow := if j = 0 then roundNo q.regs.rotaepoch q.roundLen q.nextAt else q.roundNow }
    let q1 := s1.getPart p
    let h := q1.rowGang j
    if q1.gang = h ∨ q1.vote.cst ≠ .idle then .next s1
    else
      let me := s1.myPod p q1.gang h
      let set := s1.participants p me
      if (set.headD (me, 0, 0)).1 = me then .next (s1.callVote p ⟨q1.roundNow, j, 1, me⟩ set) else .next s1

/-! ### The participant (R339, R340, R342) -/

/-- Whether a link that leads toward a package is down. -/
def State.linkDownTo (s : State) (pod : Nat) : Bool :=
  match s.routeOf s.pkg.regs.rgen pod with
  | some (l, _) => l < 8 && (s.getLink l).down
  | none => false

/-- Whether a gang has no save area or no kennel here. -/
def State.noSave (s : State) (p g : Nat) : Bool :=
  g ≠ 0 && match s.gangCtx p g with
    | some d => d.save = 0 || d.kennel = 0
    | none => true

/-- Whether a handler holds a gang's context (R89). -/
def State.gangHeld (s : State) (p g : Nat) : Bool :=
  match s.gangCtx p g with
  | some d => s.allCores.any fun c => c.runs p d.slot && c.th.csr.estat.getLsbD 1
  | none => false

/-- The lowest reason to refuse a vote (R340). -/
def State.refusal (s : State) (p me g h : Nat) (pods : List Nat) : Option Nat :=
  let q := s.getPart p
  if s.noSave p g || s.noSave p h then some 1
  else if q.shrink ≠ [] then some 2
  else if q.error || q.torn then some 3
  else if s.gangHeld p g then some 4
  else if pods.any fun x => x ≠ me && s.linkDownTo x then some 5
  else none

/-- The entries of a PREPARE: pod id, G, H. -/
def voteEntries (l : List Byte) : List (Nat × Nat × Nat) :=
  (List.range (l.length / 6)).map fun k =>
    let f := fun o => leNat ((l.drop (6 * k + o)).take 2)
    (f 0, f 2, f 4)

/-- `PREPARE` (R339, R340): the participant reads its contexts' descriptors (R335), and refuses or stops its gang. -/
def execPrepare (s : State) : Res :=
  match s.takeIn with
  | none => .next s
  | some (k, s1) =>
    let p := k.part
    let q := s1.getPart p
    let es := (if k.arg = 0 then [] else q.vote.gather) ++ voteEntries k.payload
    match es.find? (fun e => e.1 = k.drank) with
    | none => .next (s1.updVote p fun v => { v with gather := if k.arg = 0 ∨ k.arg.toNat ≤ es.length then [] else es })
    | some (me, g, h) =>
      if es.length < k.arg.toNat then .next (s1.updVote p fun v => { v with gather := es })
      else if q.vote.pst ≠ .run then .next s1
      else
        let s2 := (s1.sweep p).updVote p fun v =>
          { v with id := some (msgId k), g, h, me, kpkt := 0, captured := false, kfull := false, aborted := false, gather := [] }
        let same := q.columnOk && q.gang = g && q.cell = (k.row, h) && q.roundNow = k.round
        match if q.torn then some 3 else if same then s2.refusal p me g h (es.map (·.1)) else some 6 with
        | some r => .next (s2.answerVote p 3 fun k => { k with reason := r })
        | none =>
          let s3 := s2.updVote p fun v => { v with pst := .stopping }
          .next (match s3.gangCtx p g with | some d => s3.stopGang p d.slot | none => s3)

/-- The counts of the outgoing gang (R342), as READY and COUNTS carry them. -/
def State.voteCounts (s : State) (p : Nat) : List Byte :=
  match s.gangCtx p (s.getPart p).vote.g with
  | some d => leBytes (s.getCtx p d.slot).sent 8 ++ leBytes (s.getCtx p d.slot).recv 8
  | none => leBytes 0 16

/-- Whether a participant that stops its gang has done so. -/
def State.stopped (s : State) (p : Nat) : Bool :=
  let v := (s.getPart p).vote
  v.pst = .stopping && match s.gangCtx p v.g with
    | some d => s.gangStill p d.slot
    | none => true

/-- Whether a message belongs to the vote that a participant takes part in, or that a coordinator holds. -/
def Vote.joins (v : Vote) (k : Packet) : Bool := v.id = some (msgId k)
def Vote.leads (v : Vote) (k : Packet) : Bool := v.cid = some (msgId k)

/-- `SAMPLE` (R339): the participant answers with its counts as they are now. -/
def execSample (s : State) : Res :=
  match s.takeIn with
  | none => .next s
  | some (k, s1) =>
    let v := (s1.getPart k.part).vote
    if v.joins k ∧ (v.pst = .prepared ∨ v.pst = .captured) then
      .next (s1.answerVote k.part 5 fun r => { r with payload := s1.voteCounts k.part })
    else .next s1

/-- `CAPTURE` (R339, R344): the participant writes the gang's buffered packets to its kennel; an overflow is reported. -/
def execCapture (s : State) : Res :=
  match s.takeIn with
  | none => .next s
  | some (k, s1) =>
    let p := k.part
    let v := (s1.getPart p).vote
    if v.joins k ∧ v.pst = .prepared then
      let s2 := s1.updVote p fun v => { v with pst := .captured, captured := true }
      let s3 := match s2.gangCtx p v.g with | some d => s2.captureAll p d.slot | none => s2
      .next (if (s3.getPart p).vote.kfull then s3.answerVote p 10 id else s3)
    else .next s1

/-- `COMMIT` (R339, R346): the participant's gang goes out and the next comes in, where the column is valid still (R336). -/
def execCommit (s : State) : Res :=
  match s.takeIn with
  | none => .next s
  | some (k, s1) =>
    let p := k.part
    let v := (s1.getPart p).vote
    if v.joins k ∧ (v.pst = .prepared ∨ v.pst = .captured) then
      let s2 := s1.colLog p (if v.captured then 3 else 1) 0 k.coord (k.arg.toNat / 1024)
      let s3 := (s2.switchGang p (if (s2.getPart p).columnOk then v.h else 0)).answerVote p 9 id
      .next (s3.updVote p fun v => { v with pst := .run, id := none })
    else .next s1

/-- `ABORT` (R339): the gang goes on at its stop point, its kennel first; the vote is logged as skipped. A gang whose column has become
invalid stays stopped (R336). -/
def execAbort (s : State) : Res :=
  match s.takeIn with
  | none => .next s
  | some (k, s1) =>
    let p := k.part
    let v := (s1.getPart p).vote
    if v.joins k then
      let s2 := (s1.colLog p 2 k.reason (k.arg.toNat % 1024) (k.arg.toNat / 1024)).updVote p fun v => { v with pst := .run, aborted := true }
      if v.pst = .run then .next s2
      else
        let s3 := s2.updPart p fun q => { q with reinject := true }
        let runs := (s3.getPart p).columnOk && (s3.getPart p).gang = v.g
        .next (match s3.gangCtx p v.g with | some d => if runs then s3.resumeGang p d.slot else s3 | none => s3)
    else .next s1

/-! ### The coordinator (R341) -/

/-- ARG of a decision: WHO of the column log, and from bit 10 on the cycles since the first sample, 0 where there was none (log
entry 13). -/
def State.decision (s : State) (p who : Nat) : Word :=
  let v := (s.getPart p).vote
  w32 (who % 1024 + (if v.firstSample = 0 then 0 else s.pkg.time - v.firstSample) * 1024)

/-- The coordinator aborts the vote. -/
def State.abortVote (s : State) (p reason who : Nat) : State :=
  (s.toAll p 8 fun k => { k with reason, arg := s.decision p who }).updVote p fun v => { v with cst := .backoff, timer := s.pkg.time }

/-- A participant's counts as a message carries them. -/
def replyOf (k : Packet) : Nat × Nat × Nat := (k.srank, leNat (k.payload.take 8), leNat ((k.payload.drop 8).take 8))

/-- Takes a participant's counts; whether all have come. -/
def State.takeReply (s : State) (k : Packet) : Bool × State :=
  let s1 := s.updVote k.part fun v =>
    { v with replies := if v.replies.any fun e => e.1 = k.srank then v.replies else v.replies ++ [replyOf k] }
  let v := (s1.getPart k.part).vote
  (v.replies.length = v.set.length, s1)

/-- The sample that the replies make (R341): the sums of the packets sent and received. -/
def Vote.sums (v : Vote) : Nat × Nat := (v.replies.foldl (fun n e => n + e.2.1) 0, v.replies.foldl (fun n e => n + e.2.2) 0)

/-- `READY` (R341, R342): a participant's READY reaches the coordinator, the last one with the first sample. With `n` = 1 the
participant of partition `p`, whose gang has stopped, sends it. -/
def execReady (s : State) : Res :=
  if s.ev.n = 1 then
    if s.stopped s.ev.p then
      .next ((s.updVote s.ev.p fun v => { v with pst := .prepared }).answerVote s.ev.p 2 fun k =>
        { k with payload := s.voteCounts s.ev.p })
    else .next s
  else
    match s.takeIn with
    | none => .next s
    | some (k, s1) =>
      let v := (s1.getPart k.part).vote
      if v.leads k ∧ v.cst = .waitReady then
        let r := s1.takeReply k
        if r.1 then
          .next (r.2.updVote k.part fun v =>
            { v with cst := .drain, prev := some v.sums, timer := s.pkg.time, sampleAt := s.pkg.time + 1024, firstSample := s.pkg.time })
        else .next r.2
      else .next s1

/-- `REFUSE` (R341): the coordinator aborts the vote with the participant's reason. -/
def execRefuse (s : State) : Res :=
  match s.takeIn with
  | none => .next s
  | some (k, s1) =>
    let v := (s1.getPart k.part).vote
    if v.leads k ∧ (v.cst = .waitReady ∨ (k.reason = 3 ∧ (v.cst = .drain ∨ v.cst = .capt))) then
      .next (s1.abortVote k.part k.reason k.srank)
    else .next s1

/-- `COUNTS` (R341): with the last participant's counts the sample is complete; one that agrees with the sample before, with as
many packets received as sent, commits. -/
def execCounts (s : State) : Res :=
  match s.takeIn with
  | none => .next s
  | some (k, s1) =>
    let p := k.part
    let v := (s1.getPart p).vote
    if v.leads k ∧ (v.cst = .drain ∨ v.cst = .capt) then
      let r := s1.takeReply k
      if !r.1 then .next r.2
      else
        let x := (r.2.getPart p).vote.sums
        let s2 := r.2.updVote p fun v => { v with prev := some x }
        if v.prev = some x ∧ x.1 = x.2 then .next ((s2.toAll p 7 fun r => { r with arg := s2.decision p k.coord }).updVote p fun v => { v with cst := .committing })
        else .next s2
    else .next s1

/-- `KFULL` (R341): the coordinator aborts the vote. -/
def execKfull (s : State) : Res :=
  match s.takeIn with
  | none => .next s
  | some (k, s1) =>
    let v := (s1.getPart k.part).vote
    if v.leads k ∧ (v.cst = .drain ∨ v.cst = .capt) then .next (s1.abortVote k.part 9 k.srank) else .next s1

/-- `DONE` (R341): the last participant has performed the commit. -/
def execDone (s : State) : Res :=
  match s.takeIn with
  | none => .next s
  | some (k, s1) =>
    let v := (s1.getPart k.part).vote
    if v.leads k ∧ v.cst = .committing then
      let l := if v.doneFrom.contains k.srank then v.doneFrom else v.doneFrom ++ [k.srank]
      .next (s1.updVote k.part fun v => if l.length = v.set.length then { v with cst := .idle, cid := none, doneFrom := [] } else { v with doneFrom := l })
    else .next s1

/-- Whether the sample last asked for is complete. -/
def Vote.sampled (v : Vote) : Bool := v.replies.length = v.set.length

/-- `VOTE_REPLY_TIMEOUT` (R341): not every reply to PREPARE has come within DRAINMAX. -/
def execVoteReplyTimeout (s : State) : Res :=
  let q := s.getPart s.ev.p
  if q.vote.cst = .waitReady ∧ q.vote.timer + q.regs.drainmax ≤ s.pkg.time then
    .next (s.abortVote s.ev.p 7 (q.vote.cid.elim 0 (·.coord)))
  else .next s

/-- Whether the coordinator samples. -/
def Vote.sampling (v : Vote) : Bool := v.cst = .drain || v.cst = .capt

/-- `SAMPLE_TIMER` (R341): 1,024 cycles after the sample before, the coordinator asks for the next. -/
def execSampleTimer (s : State) : Res :=
  let v := (s.getPart s.ev.p).vote
  if v.sampling ∧ v.sampled ∧ v.sampleAt ≤ s.pkg.time then
    .next ((s.updVote s.ev.p fun v => { v with replies := [], sampleAt := v.sampleAt + 1024 }).toAll s.ev.p 4 id)
  else .next s

/-- Whether a timer of the coordinator that has reached its end acts (R341): at once, but that a sample asked for by then is compared
first, which may take until the next sample would be asked for (log entry 82). -/
def Vote.compared (v : Vote) (now : Nat) : Bool := if v.sampled then decide (now < v.sampleAt) else decide (v.sampleAt ≤ now)

/-- Whether the drain or the capture timer has run out (R341). -/
def Partition.drainOut (q : Partition) (now : Nat) : Bool :=
  q.vote.cst = .drain && q.vote.timer + q.regs.drainmax ≤ now && q.vote.compared now
def Partition.captOut (q : Partition) (now : Nat) : Bool :=
  q.vote.cst = .capt && q.vote.timer + q.regs.drainmax + 1024 ≤ now && q.vote.compared now

/-- `DRAIN_TIMEOUT` (R341): the drain timer reaches DRAINMAX: capture begins, and with it the capture timer. -/
def execDrainTimeout (s : State) : Res :=
  if (s.getPart s.ev.p).drainOut s.pkg.time then
    .next ((s.toAll s.ev.p 6 id).updVote s.ev.p fun v => { v with cst := .capt, timer := v.timer + (s.getPart s.ev.p).regs.drainmax })
  else .next s

/-- `CAPTURE_TIMEOUT` (R341): the capture timer reaches DRAINMAX + 1,024. -/
def execCaptureTimeout (s : State) : Res :=
  let q := s.getPart s.ev.p
  if q.captOut s.pkg.time then .next (s.abortVote s.ev.p 8 (q.vote.cid.elim 0 (·.coord))) else .next s

/-- `VOTE_RETRY` (R341): 65,536 cycles after the ABORT the coordinator calls the vote again with the next attempt number, where
that falls before the next boundary. -/
def execVoteRetry (s : State) : Res :=
  let q := s.getPart s.ev.p
  match q.vote.cid with
  | some i =>
    if q.vote.cst ≠ .backoff ∨ s.pkg.time < q.vote.timer + 65536 then .next s
    else if s.pkg.time < q.nextAt then .next (s.callVote s.ev.p { i with attempt := i.attempt + 1 } q.vote.set)
    else .next (s.cancelRetry s.ev.p)
  | none => .next s

/-! ### Links under a vote (R309, R341) -/

/-- A link goes down: a coordinator whose vote needs it aborts it. -/
def State.linkLost (s : State) (l : Nat) : State :=
  let s1 := (s.updLink l fun k => k.fall s.pkg.time).linkEvent l 3
  s1.pkg.parts.foldl (fun s q =>
    let v := q.2.vote
    if v.cst = .waitReady || v.sampling then
      match v.set.find? (fun e => some l = (s.routeOf s.pkg.regs.rgen e.1).map (·.1)) with
      | some e => s.abortVote q.1 5 e.1
      | none => s
    else s) s1

/-- `RETRAIN_DONE` (R309): the retrain of link `l` ends on the widest intact group; with none the link is down. -/
def execRetrainDone (s : State) : Res :=
  let k := s.getLink s.ev.l
  if !k.train ∨ s.pkg.time < k.retrainAt then .next s
  else
    match laneGroup k.lanes.toNat with
    | none => .next (s.linkLost s.ev.l)
    | some g =>
      .next ((s.updLink s.ev.l fun k => { k.raise g s.pkg.time with retr := Nat.min 15 (k.retr + 1) }).linkEvent s.ev.l 2)

/-- `TRAINING_RETRY` (R309): a link that is down tries again to train; it comes up where a group of its lanes, of those in `v`, has
come back. A lane that was excluded by a write stays out, and GOOD keeps the failures until a reset (R310). -/
def execTrainingRetry (s : State) : Res :=
  let k := s.getLink s.ev.l
  if !k.down ∨ k.retryAt = 0 ∨ s.pkg.time < k.retryAt then .next s
  else
    let back := BitVec.ofNat 16 s.ev.v &&& ~~~k.barred
    match laneGroup back.toNat with
    | none => .next (s.updLink s.ev.l fun k => k.fall s.pkg.time)
    | some g => .next ((s.updLink s.ev.l fun k => { k.raise g s.pkg.time with lanes := back }).linkEvent s.ev.l 4)

/-! ### What is due -/

/-- The steps of rotas and votes that are due. -/
def State.voteDue (s : State) : Option (Instr × Stim) :=
  s.pkg.parts.findSome? fun e =>
    let q := e.2
    let now := s.pkg.time
    let v := q.vote
    let x : Stim := { p := e.1 }
    if q.applies now then some ((.rotaColumnApply, x) : Instr × Stim)
    else if q.columnOk && q.nextAt ≤ now then some (.rotaBoundary, x)
    else if s.stopped e.1 then some (.ready, { x with n := 1 })
    else if v.cst = .waitReady && v.timer + q.regs.drainmax ≤ now then some (.voteReplyTimeout, x)
    else if v.sampling && v.sampled && v.sampleAt ≤ now then some (.sampleTimer, x)
    else if q.drainOut now then some (.drainTimeout, x)
    else if q.captOut now then some (.captureTimeout, x)
    else if v.cst = .backoff && v.cid.isSome && v.timer + 65536 ≤ now then some (.voteRetry, x)
    else none

end Sys2Proof.Machine
end

