-- ==== Sys2Proof/Machine/Resize.lean ====
section
/-! DEFINITION. A partition's cores given and taken (R349 to R351), and its teardown (R352). -/

namespace Sys2Proof.Machine

/-- REQ of the error log for a request of a host queue pair (R358). -/
def reqHost (qp : Nat) : Nat := 2 ^ 28 + qp % 2 ^ 28

/-! ### Growing (R349, R367) -/

/-- A core as it is given: in the zero state. What tasks that have left it still have registered at a home stays with it until they
run again (R140). -/
def Core.given (c : Core) : Core := { Core.fresh c.num with qacc := c.qacc, qack := c.qack }

/-- Whether a core belongs to a partition, or is about to. -/
def Partition.has (q : Partition) (c : Nat) : Bool := q.cores.contains c || q.grow.any fun e => e.1 = c

/-- `CORESET` (R349, R367): the cores `cs` are given to partition `p`, which they join in the next cycle; where one is not ready or
belongs to another partition the write is refused and logged. A partition torn down earlier begins anew (log entry 17). With `k` = 1
the cores whose cycle has come join, in the zero state. -/
def execCoreset (s : State) : Res :=
  let p := s.ev.p
  let q := s.getPart p
  if s.ev.k = 1 then
    let new := (q.grow.filter fun e => e.2 ≤ s.pkg.time).map (·.1)
    let s1 := new.foldl (fun s c => s.updCoreN c Core.given) s
    .next (s1.updPart p fun q => { q with cores := q.cores ++ new, grow := q.grow.filter fun e => s.pkg.time < e.2 })
  else
    let bad := fun c => !s.pkg.regs.funcready.contains c || s.pkg.parts.any fun e => e.1 ≠ p && e.2.has c
    if s.ev.cs.any bad then .next (s.logErr p (0x0400 + 128 * p) (reqHost s.ev.n) 9 0)
    else
      let new := (s.ev.cs.eraseDups).filter fun c => !q.has c
      .next (s.updPart p fun q =>
        { q with grow := q.grow ++ new.map fun c => (c, s.pkg.time + 1), error := q.error && !q.torn, torn := false })

/-- The cores that join a partition now. -/
def State.growDue (s : State) : Option (Instr × Stim) :=
  (s.pkg.parts.find? fun e => e.2.grow.any fun x => x.2 ≤ s.pkg.time).map fun e => (.coreset, { p := e.1, k := 1 })

/-! ### Shrinking (R350, R351) -/

/-- What a shrink does to the task of a removed core (R350 steps 2 to 5): a foldable one is discarded and made again; another
takes SHRINK where it has a handler, and ends where it has none, or where it has issued END and no handler can run (R222). -/
def State.shrinkCore (s : State) (core : Nat) : State :=
  s.onCore core fun s =>
    let t := s.core.th
    if s.core.phase ≠ .run ∧ s.core.phase ≠ .ending then s
    else if t.task.foldable then s.startFold true
    else if t.csr.trapvec.getLsbD 0 ∧ s.core.phase = .run then
      s.updTh fun t =>
        { t.addFault { sub := 0x57, cause := 0x0A, baddr := t.pc } with
          mq := (t.addFault { sub := 0x57, cause := 0x0A, baddr := t.pc }).mq.map fun (m : MOp) =>
            if isNest m.instr && m.started.isSome then { m with stop := true } else m }
    else s.endResized

/-- A shrink begins. -/
def State.beginShrink (s : State) (p : Nat) : State :=
  let s1 := s.updPart p fun q => { q with shrinkAt := s.pkg.time + 1 }
  (s1.getPart p).shrink.foldl State.shrinkCore s1

/-- `SHRINK` (R350): the cores `cs` are to leave partition `p`. A vote in progress finishes first; then, with `n` = 1, the shrink
begins. A write while a shrink is under way, and one that names no core of the partition, do nothing (DESIGN CHOICE, log entry 131). -/
def execShrink (s : State) : Res :=
  let p := s.ev.p
  let q := s.getPart p
  if s.ev.n = 1 then
    if q.shrink ≠ [] ∧ q.shrinkAt = 0 ∧ q.vote.pst = .run then .next (s.beginShrink p) else .next s
  else if q.shrink ≠ [] then .next s
  else
    let l := q.cores.filter s.ev.cs.contains
    if l = [] then .next s
    else
      let s1 := s.updPart p fun q => { q with shrink := l, shrinkAt := 0 }
      .next (if q.vote.pst = .run then s1.beginShrink p else s1)

/-- Whether a thread has left its core: parked, or saved with its context. -/
def State.away (s : State) (tid : Nat) : Bool :=
  s.pkg.parked.any (·.tid = tid) || s.pkg.parts.any fun q => q.2.ctxs.any fun x => x.2.saved.any (·.tid = tid)

/-- Whether every removed core has nothing left to do. What a task that has left it has registered behind a lock or wait moves with the
task's logical core (R140, R350 step 6). -/
def State.shrunk (s : State) (p : Nat) : Bool :=
  let q := s.getPart p
  q.shrink ≠ [] && q.shrinkAt ≠ 0 && q.shrink.all fun n =>
    let c := s.getCore n
    (c.phase = .idle || c.phase = .stopped 2) && c.qacc.all (fun q => s.away q.tid) && c.exch = [] && !s.pkg.cmds.any fun m => m.eng = some n || m.own = n

/-- Every region of a core goes to its owner's save area, and the core is as it was before it was given (R350 steps 6 and 7). A task
of a gang that an invalid column has stopped there is saved with its context. -/
def State.retireCore (s : State) (core : Nat) : State :=
  let s1 := match (s.getCore core).phase, s.taskCtx (s.getCore core).th.task with
    | .stopped 2, some d => s.saveCore d core
    | _, _ => s
  ((List.range 44).foldl (fun s r => s.spill core r) s1).updCoreN core Core.given

/-- `SHRINK_COMPLETE` (R350): the removed cores of partition `p` leave it; tasks parked there move with their logical cores. -/
def execShrinkComplete (s : State) : Res :=
  let p := s.ev.p
  if !s.shrunk p then .next s
  else
    let l := (s.getPart p).shrink
    let s1 := l.foldl State.retireCore s
    let move := fun (t : Thread) =>
      if t.task.part = p && l.contains t.core then
        match (s1.taskCtx t.task).bind fun d => s1.physCore d (s1.lcoreOf p t.task.slot t.core) with
        | some c => { t with core := c }
        | none => t
      else t
    let s2 := s1.updPkg fun k => { k with parked := k.parked.map move }
    let s3 := s2.pkg.parked.foldl (fun s t => if t.task.part = p && !l.contains t.core then s.moveQueue t.tid t.core else s) s2
    .next (s3.updPart p fun q => { q with cores := q.cores.filter fun c => !l.contains c, shrink := [], shrinkAt := 0 })

/-- The removed cores whose handlers have not returned in time. -/
def State.lateCores (s : State) (p : Nat) : List Nat :=
  let q := s.getPart p
  if q.shrinkAt ≠ 0 ∧ q.shrinkAt + 2 ^ 24 ≤ s.pkg.time + 1 then q.shrink.filter fun c => (s.getCore c).phase = .run else []

/-- `SHRINK_HANDLER_TIMEOUT` (R351): the tasks of partition `p` whose handlers have not returned within 2^24 cycles end. -/
def execShrinkHandlerTimeout (s : State) : Res :=
  .next ((s.lateCores s.ev.p).foldl (fun s c => s.onCore c State.endResized) s)

/-- The steps of shrinks that are due. -/
def State.shrinkDue (s : State) : Option (Instr × Stim) :=
  s.pkg.parts.findSome? fun e =>
    let q := e.2
    if q.shrink = [] then none
    else if q.shrinkAt = 0 then (if q.vote.pst = .run then some ((.shrink, { p := e.1, n := 1 }) : Instr × Stim) else none)
    else if s.shrunk e.1 then some (.shrinkComplete, { p := e.1 })
    else if s.lateCores e.1 ≠ [] then some (.shrinkHandlerTimeout, { p := e.1 })
    else none

/-! ### Teardown (R352) -/

/-- The memory of a partition, its save areas and its kennels are zeroed (R352 step 5). -/
def State.zeroMemory (s : State) (p : Nat) : State :=
  s.zeroRuns ((s.allCtxs p).flatMap fun d => d.memory s.pkg.hbm.mem)

/-- The packets in the kennels of a partition; their places in the switch were given back when they were captured (R344). -/
def State.kennelPkts (s : State) (p : Nat) : List TxPkt :=
  (s.allCtxs p).flatMap fun d =>
    if d.kennel = 0 then []
    else ((List.range (Nat.min (s.hbmLe d.kennel 4) (d.ksize * 4096 / 384))).drop (s.hbmLe (d.kennel + 4) 4)).filterMap fun n =>
      (s.recordPkt (d.kennel + 64 + 384 * n)).map fun t => { t with vcIn := 64 }

/-- Drops every packet of a partition in this package's buffers and kennels. -/
def State.dropAll (s : State) (p : Nat) : State :=
  let mine := fun (t : TxPkt) => t.pkt.part = p && t.pkt.kind ≠ 11
  let q := (s.pkg.links.flatMap fun e => e.2.sendq.filter mine) ++ (s.pkg.rslots.map (·.tx)).filter mine
  let held := s.pkg.swq.filter mine ++ s.pkg.inq.filter mine
  let s1 := s.updPkg fun k =>
    { k with links := k.links.map fun e => (e.1, { e.2 with sendq := e.2.sendq.filter fun t => !mine t })
             rslots := k.rslots.filter fun r => !mine r.tx
             swq := k.swq.filter fun t => !mine t
             hubq := k.hubq.filter fun e => e.1.part ≠ p || e.1.kind = 11
             inq := k.inq.filter fun t => !mine t
             mesh := k.mesh.filter (·.part ≠ p)
             adapter := k.adapter.filter (·.2.part ≠ p) }
  (q ++ held ++ s.kennelPkts p).foldl State.dropPkt s1

/-- The completion record and the signal of an aborted launch, each only where it goes to a host target (R352 step 4). -/
def State.abortLaunch (s : State) (p : Nat) (l : Launch) : State :=
  let l1 := l.raise 3
  if l.dhost ∧ l.shost then (s.putRecord p none l1 s.pkg.time 64 []).2
  else if l.dhost then
    let data := l1.recordBytes s.pkg.time
    if s.hostOk p l.done data.length then s.hostPut p l.done data else s
  else if l.shost then (if s.hostOk p l.sig 4 then s.hostPut p l.sig (leBytes (l.word 10) 4) else s)
  else s

/-- `TEARDOWN` (R352): partition `p` is torn down on this package. Its calendar slots go back at the next slot 0 (R298). A host write
that is under way in it is refused (log entry 87). -/
def execTeardown (s : State) : Res :=
  let p := s.ev.p
  let q := s.getPart p
  let v := q.vote
  let s1 := if v.cst = .waitReady || v.sampling then s.abortVote p 3 (v.cid.elim 0 (·.coord))
    else if v.pst ≠ .run then s.answerVote p 3 fun k => { k with reason := 3 }
    else s
  let s2 := (s1.updPart p fun q => { q with error := true, torn := true }).dropAll p
  let s3 := q.launches.foldl (fun s l => s.abortLaunch p l) s2
  let s4 := q.cores.foldl (fun s c => s.updCoreN c fun _ => Core.fresh c) (s3.zeroMemory p)
  let s5 := s4.updPkg fun k =>
    { k with cmds := k.cmds.filter (·.task.part ≠ p), waiters := k.waiters.filter (·.acc.task.part ≠ p)
             parked := k.parked.filter (·.task.part ≠ p), rem := k.rem.filter (·.part ≠ p)
             hostJobs := k.hostJobs.filter (·.rq.ep ≠ p)
             regs := { k.regs with calownW := some ((k.regs.calownW.getD k.regs.calown).filter (·.2 ≠ p)), calownAt := (k.time / 256 + 1) * 256
                                   rshare := sset 8 k.regs.rshare p 8 } }
  let jobs := s.pkg.hostJobs.filter (·.rq.ep = p)
  let s6 := jobs.foldl (fun s j => { s.emit (.hostNak j.rq.ep j.rq.qp 1) with agenda := s.agenda ++ j.later }) s5
  .next (s6.updPart p fun q =>
    let r := { q.regs with rota := [], rotalen := 1, rotaepoch := 0, rotaW := [], rotalenW := none, rotaepochW := none, armed := [] }
    { q with cores := [], launches := [], ready := [], ctxs := [], gang := 0, vote := {}, shrink := [], shrinkAt := 0, grow := [],
             reinject := false, rebasing := false, regs := r })

end Sys2Proof.Machine
end

