-- ==== Sys2Proof/Machine/Hub.lean ====
section
/-! DEFINITION. The hub window (R362, R363): reading its registers, the steps that writing them asks for, and the registers without
a behaviour of their own. -/

namespace Sys2Proof.Machine

/-! ### Reading -/

/-- A number made of the values of entries of `w` bits each, the first lowest. -/
def fieldsOf (w : Nat) (f : Nat → Nat) (k : Nat) : Nat → Nat
  | 0 => 0
  | n + 1 => f k % 2 ^ w + 2 ^ w * fieldsOf w f (k + 1) n

/-- The mask of 32 numbers from `32 × k` on. -/
def maskWord (l : List Nat) (k : Nat) : Nat := fieldsOf 1 (fun i => b2n (l.contains i)) (32 * k) 32

/-- Word `k` of a number. -/
def wordOf (v k : Nat) : Nat := v / 2 ^ (32 * k) % 2 ^ 32

/-- LSTAT (R310). -/
def Link.stat (k : Link) : Nat :=
  k.good.toNat + k.retr * 2 ^ 16 + k.first * 2 ^ 23 + widthCode k.width * 2 ^ 27 + b2n k.train * 2 ^ 30 + b2n k.up * 2 ^ 31

/-- Word `k` of an entry of the link event log (R310): 16 bytes. -/
def LinkEvt.word (e : LinkEvt) (k : Nat) : Nat :=
  wordOf (e.time + e.link * 2 ^ 64 + e.event * 2 ^ 72 + e.good * 2 ^ 80 + e.a * 2 ^ 96 + e.e * 2 ^ 112) k

/-- The ownership of calendar slots as written last. -/
def State.calAsWritten (s : State) (n : Nat) : Nat := sget (n % 8) (s.pkg.regs.calownW.getD s.pkg.regs.calown) n

/-- A word of the package page (R362). -/
def State.pkgWord (s : State) (o : Nat) : Nat :=
  let r := s.pkg.regs
  if o < 0x88 then maskWord r.funcready (o / 4)
  else if 0x100 ≤ o ∧ o < 0x200 then fieldsOf 8 s.calAsWritten (o - 0x100) 4
  else if 0x200 ≤ o ∧ o < 0x208 then fieldsOf 8 (fun k => sget 8 r.rshare k) (o - 0x200) 4
  else if 0x208 ≤ o ∧ o < 0x228 then sget 0 r.rallow ((o - 0x208) / 4)
  else if 0x400 ≤ o ∧ o < 0x800 then maskWord (s.getPart ((o - 0x400) / 128)).cores ((o - 0x400) % 128 / 4)
  else if 0x800 ≤ o ∧ o < 0x820 then (s.getLink ((o - 0x800) / 4)).stat
  else if 0x900 ≤ o ∧ o < 0x940 then sget 0 r.secnt ((o - 0x900) / 4)
  else if o = 0x980 then r.gencnt
  else if o = 0x984 then b2n r.rgen + 2 * b2n r.oldLeft
  else if 0xA00 ≤ o ∧ o < 0xA20 then (s.getLink ((o - 0xA00) / 4)).lthresh.toNat
  else if 0x1000 ≤ o ∧ o < 0x2000 then
    let i := (o - 0x1000) / 16
    match ((List.range r.linklog.length).reverse).find? (fun k => k % 256 = i) with
    | some k => (lget ⟨0, 0, 0, 0, 0, 0⟩ r.linklog k).word ((o - 0x1000) % 16 / 4)
    | none => 0
  else if 0x2000 ≤ o ∧ o < 0x3000 then leGet r.attest (o - 0x2000) 4
  else if 0x3000 ≤ o ∧ o < 0x3800 then fieldsOf 16 (fun k => sget 0x000F r.route0 k) ((o - 0x3000) / 2) 2
  else if 0x3800 ≤ o ∧ o < 0x4000 then fieldsOf 16 (fun k => sget 0x000F r.route1 k) ((o - 0x3800) / 2) 2
  else 0

/-- Words of the entries of the error log (R358) and the column log (R343). -/
def ErrEnt.word (e : ErrEnt) (k : Nat) : Nat := wordOf (e.time + e.addr * 2 ^ 64 + e.req * 2 ^ 128 + e.cause * 2 ^ 160 + e.arg * 2 ^ 176) k
def ColEnt.word (e : ColEnt) (k : Nat) : Nat :=
  wordOf (e.time + e.gout * 2 ^ 64 + e.gin * 2 ^ 80 + e.row * 2 ^ 96 + e.event * 2 ^ 104 + e.reason * 2 ^ 112 + e.who * 2 ^ 128
    + e.attempt * 2 ^ 144 + e.kpkt * 2 ^ 160 + e.drain * 2 ^ 192) k

/-- A row of the column as written last (R336). -/
def PartRegs.rowAsWritten (r : PartRegs) (j : Nat) : Nat := (sget 0 r.written.rota j).toNat

/-- A word of a partition's page (R363). -/
def State.partWord (s : State) (p o : Nat) : Nat :=
  let q := s.getPart p
  let r := q.regs
  if o < 0x400 ∨ (0x1000 ≤ o ∧ o < 0x5000) then leGet r.page o 4
  else if o = 0x408 then r.wdi
  else if o = 0x40C then r.drainmax
  else if o = 0x410 then r.written.rotalen
  else if o = 0x418 then wordOf r.written.rotaepoch 0
  else if o = 0x41C then wordOf r.written.rotaepoch 1
  else if o = 0x420 then b2n (q.shrink ≠ [])
  else if o = 0x430 then r.invAsid.toNat
  else if o = 0x434 then r.invVa.toNat
  else if o = 0x438 then r.invCnt.toNat
  else if o = 0x43C then b2n r.invDone
  else if o = 0x480 then r.elhead
  else if o = 0x484 then r.ellost
  else if 0x500 ≤ o ∧ o < 0x600 then r.rowAsWritten ((o - 0x500) / 4)
  else if 0x600 ≤ o ∧ o < 0x618 then
    wordOf (if o < 0x608 then r.chanbase else if o < 0x610 then r.ctxtab else r.imgtab) (o % 8 / 4)
  else if 0x5000 ≤ o ∧ o < 0x7000 then (sget ⟨0, 0, 0, 0, 0⟩ r.errlog ((o - 0x5000) / 32)).word (o % 32 / 4)
  else if 0x7000 ≤ o ∧ o < 0x9000 then (sget ⟨0, 0, 0, 0, 0, 0, 0, 0, 0, 0⟩ r.collog ((o - 0x7000) / 32)).word (o % 32 / 4)
  else 0

/-- A word of the hub window; reserved offsets read 0. -/
def State.hubWord (s : State) (o : Nat) : Nat :=
  if o < 0x10000 then s.pkgWord o
  else if 0x100000 ≤ o ∧ o < 0x180000 then s.partWord ((o - 0x100000) / 0x10000) (o % 0x10000)
  else 0

/-- Bytes of the hub window. -/
def State.hubBytes (s : State) (o n : Nat) : List Byte :=
  (List.range n).map fun k => BitVec.ofNat 8 (s.hubWord ((o + k) / 4 * 4) / 2 ^ (8 * ((o + k) % 4)))

/-- The entries of an error log that a read covers have been read (R358). -/
def State.logRead (s : State) (o n : Nat) : State :=
  if 0x100000 ≤ o ∧ o < 0x180000 then
    s.updPart ((o - 0x100000) / 0x10000) fun q =>
      let a := o % 0x10000
      { q with regs := { q.regs with elunread := q.regs.elunread.filter fun i => !(0x5000 + 32 * i < a + n && a ≤ 0x5000 + 32 * i) } }
  else s

/-! ### Writing -/

/-- A word written to a plain register of the package page. -/
def State.pkgPut (s : State) (o v : Nat) : State :=
  s.updPkg fun k =>
    let r := k.regs
    let bytes := fun (d : Nat → Nat) (m : Sparse Nat) (base : Nat) => (List.range 4).foldl (fun m i =>
      insertBy (fun a b => a.1 < b.1) (base + i, d i) (m.filter fun e => e.1 ≠ base + i)) m
    let b := fun i => v / 2 ^ (8 * i) % 256
    let r1 : PkgRegs :=
      if 0x100 ≤ o ∧ o < 0x200 then { r with calownW := some (bytes b (r.calownW.getD r.calown) (o - 0x100)), calownAt := (k.time / 256 + 1) * 256 }
      else if 0x200 ≤ o ∧ o < 0x208 then
        { r with rshare := (List.range 4).foldl (fun m i => sset 8 m (o - 0x200 + i) (b i)) r.rshare }
      else if 0x208 ≤ o ∧ o < 0x228 then { r with rallow := sset 0 r.rallow ((o - 0x208) / 4) v }
      else r
    let ls := if 0xA00 ≤ o ∧ o < 0xA20 then
        sset {} k.links ((o - 0xA00) / 4) { sget {} k.links ((o - 0xA00) / 4) with lthresh := w32 (v % 65536) }
      else k.links
    { k with regs := r1, links := ls }

/-- One of the two words of a 64-bit register, replaced. -/
def setHalf (v k w : Nat) : Nat := if k = 0 then v / 2 ^ 32 * 2 ^ 32 + w else v % 2 ^ 32 + w * 2 ^ 32

/-- A word written to a plain register of a partition's page. The column's registers wait for the end of the round, and the RSV bits
of a row ignore writes (R6, R336). -/
def State.partPut (s : State) (p o v : Nat) : State :=
  s.updPart p fun q =>
    let r := q.regs
    { q with regs :=
      if o < 0x400 ∨ (0x1000 ≤ o ∧ o < 0x5000) then { r with page := lePut r.page o v 4 }
      else if o = 0x408 then { r with wdi := v }
      else if o = 0x410 then { r with rotalenW := some v }
      else if o = 0x418 ∨ o = 0x41C then { r with rotaepochW := some (setHalf r.written.rotaepoch (o % 8 / 4) v) }
      else if o = 0x430 then { r with invAsid := w32 v }
      else if o = 0x434 then { r with invVa := w32 v }
      else if o = 0x438 then { r with invCnt := w32 v }
      else if 0x500 ≤ o ∧ o < 0x600 then { r with rotaW := r.rotaW ++ [((o - 0x500) / 4, w32 v &&& 0xFFFF03FF)] }
      else if 0x600 ≤ o ∧ o < 0x608 then { r with chanbase := setHalf r.chanbase (o % 8 / 4) v }
      else if 0x608 ≤ o ∧ o < 0x610 then { r with ctxtab := setHalf r.ctxtab (o % 8 / 4) v }
      else if 0x610 ≤ o ∧ o < 0x618 then { r with imgtab := setHalf r.imgtab (o % 8 / 4) v }
      else r }

/-- The bytes of a mask `m` of a word taken from `v`, the others from `old`. -/
def mergeBytes (old v m : Nat) : Nat := fieldsOf 8 (fun i => (if bit m i then v else old) / 2 ^ (8 * i)) 0 4

/-- `HUB_REGISTER_WRITE` (R362, R363): the bytes in the mask `w` of the word at hub offset `k` become those of `v`. -/
def execHubRegisterWrite (s : State) : Res :=
  let o := s.ev.k / 4 * 4
  let v := mergeBytes (s.hubWord o) s.ev.v s.ev.w
  if o < 0x10000 then .next (s.pkgPut o v)
  else if 0x100000 ≤ o ∧ o < 0x180000 then .next (s.partPut ((o - 0x100000) / 0x10000) (o % 0x10000) v)
  else .next s

/-- The numbers of the bits that are set in a number of `n` bits. -/
def setBits (v n : Nat) : List Nat := (List.range n).filter (bit v)

/-- What writing a word of the package page asks for (R362): bytes `m` of the word at `o` become those of `v`, for queue pair `qp`
of the management endpoint. -/
def pkgWrite (o v m qp : Nat) : List (Instr × Stim) :=
  let z := mergeBytes 0 v m
  if (0x100 ≤ o ∧ o < 0x228) ∨ (0xA00 ≤ o ∧ o < 0xA20) then [(.hubRegisterWrite, { k := o, v, w := m })]
  else if 0x400 ≤ o ∧ o < 0x800 then
    [(.coreset, { p := (o - 0x400) / 128, cs := (setBits z 32).map fun i => (o - 0x400) % 128 / 4 * 32 + i, n := qp })]
  else if 0x800 ≤ o ∧ o < 0x820 then [(.lstatGoodWrite, { l := (o - 0x800) / 4, v := z % 65536 })]
  else if 0x3000 ≤ o ∧ o < 0x4000 then
    ((List.range 2).filter fun h => bit m (2 * h)).map fun h =>
      (.routeTableWrite, { n := (o - 0x3000) / 0x800, k := (o - 0x3000) % 0x800 / 2 + h, v := z / 2 ^ (16 * h) % 65536 })
  else []

/-- What writing a word of a partition's page asks for (R363), through the partition's own endpoint (T) or the management
endpoint (M). -/
def partWrite (mgmt : Bool) (p o v m qp : Nat) : List (Instr × Stim) :=
  let z := mergeBytes 0 v m
  let plain : List (Instr × Stim) := [(.hubRegisterWrite, { k := 0x100000 + 0x10000 * p + o, v, w := m })]
  if mgmt then
    if o = 0x408 ∨ o = 0x410 ∨ o = 0x418 ∨ o = 0x41C ∨ (0x500 ≤ o ∧ o < 0x618) ∨ (0x1000 ≤ o ∧ o < 0x3000) then plain
    else if o = 0x40C then [(.drainmax, { p, v := z, n := qp })]
    else if o = 0x424 then (if z % 2 = 1 then [(.teardown, { p })] else [])
    else []
  else
    if o < 0x400 ∨ (0x430 ≤ o ∧ o < 0x43C) ∨ (0x3000 ≤ o ∧ o < 0x5000) then plain
    else if o = 0x400 then [(.arm, { p, v := z, n := qp })]
    else if o = 0x428 then (if z % 2 = 1 then [(.ovlflush, { p })] else [])
    else if o = 0x43C then (if z % 2 = 1 then [(.inval, { p, n := qp })] else [])
    else []

/-- A write that covers several words of one core set is one write of it (R349, R367). -/
def joinSets (l : List (Instr × Stim)) : List (Instr × Stim) :=
  l.foldr (fun e acc => match e, acc with
    | (.coreset, x), (.coreset, y) :: r => if x.p = y.p then (.coreset, { x with cs := x.cs ++ y.cs }) :: r else e :: acc
    | _, _ => e :: acc) []

/-- The steps that a write to the hub window asks for, in address order. A write that begins at SHRINK is a core mask (R350), one
that begins at ATTEST a nonce (R365). -/
def hubWrite (mgmt : Bool) (o : Nat) (data : List Byte) (qp : Nat) : List (Instr × Stim) :=
  if mgmt ∧ o = 0x2000 then [(.attest, { data })]
  else if mgmt ∧ 0x100000 ≤ o ∧ o < 0x180000 ∧ o % 0x10000 = 0x420 then
    [(.shrink, { p := (o - 0x100000) / 0x10000, cs := setBits (leNat data) (Nat.min 1024 (8 * data.length)) })]
  else
    joinSets <| (List.range ((o + data.length + 3) / 4 - o / 4)).flatMap fun k =>
      let a := 4 * (o / 4 + k)
      let inside := fun i => decide (o ≤ a + i ∧ a + i < o + data.length)
      let v := fieldsOf 8 (fun i => if inside i then (lget 0 data (a + i - o)).toNat else 0) 0 4
      let m := fieldsOf 1 (fun i => b2n (inside i)) 0 4
      if a < 0x10000 then (if mgmt then pkgWrite a v m qp else [])
      else if 0x100000 ≤ a ∧ a < 0x180000 then partWrite mgmt ((a - 0x100000) / 0x10000) (a % 0x10000) v m qp
      else []

/-! ### Registers with checks of their own -/

/-- `DRAINMAX` (R340): a multiple of 1,024 from 1,024 to 1,048,576; any other value is ignored and logged. -/
def execDrainmax (s : State) : Res :=
  let p := s.ev.p
  let v := s.ev.v
  if v % 1024 = 0 ∧ 1024 ≤ v ∧ v ≤ 1048576 then .next (s.updPart p fun q => { q with regs := { q.regs with drainmax := v } })
  else .next (s.logErr p (0x10040C + 0x10000 * p) (reqHost s.ev.n) 9 0)

/-- `INVAL` (R242, R364): an invalidation starts; one for an ASID of no context is refused and logged, one while another runs is
ignored. -/
def execInval (s : State) : Res :=
  let p := s.ev.p
  let r := (s.getPart p).regs
  if r.invBusy then .next s
  else if !(s.allCtxs p).any fun d => d.asid = r.invAsid.toNat then
    .next (s.logErr p (r.invVa.toNat * 65536) (reqHost s.ev.n) 8 (r.invAsid.toNat % 65536))
  else .next (s.updPart p fun q =>
    { q with regs := { q.regs with invBusy := true, invDone := false, runAsid := r.invAsid, runVa := r.invVa, runCnt := r.invCnt } })

/-- Whether a VA lies in the range of a partition's invalidation. -/
def PartRegs.inRange (r : PartRegs) (va : Nat) : Bool :=
  r.runVa.toNat * 65536 ≤ va && va < (r.runVa.toNat + r.runCnt.toNat) * 65536

/-- Whether a page meets that range. -/
def PartRegs.meets (r : PartRegs) (e : TlbEnt) : Bool :=
  e.asid = r.runAsid.toNat && r.runVa.toNat * 65536 < e.base + e.size && e.base < (r.runVa.toNat + r.runCnt.toNat) * 65536

/-- The translations that an invalidation removes, from the micro-TLBs and the dies' units. -/
def State.removed (s : State) (p : Nat) : List TlbEnt :=
  ((s.allCores.flatMap fun c => c.utlb) ++ s.pkg.dtlb.map (·.2)).filter (s.getPart p).regs.meets

/-- Whether a VA of the ASID lies in the range, in a page whose translation goes, or in a page of the tables that meets the range
(R242). -/
def State.invHits (s : State) (p slot va : Nat) : Bool :=
  let r := (s.getPart p).regs
  r.inRange va || (s.removed p).any (fun e => e.covers r.runAsid.toNat va)
    || match s.ctxDesc p slot with
      | some d => match s.walk d va with | .leaf e => r.meets e | _ => false
      | none => false

/-- Whether every queued access that translated through a removed entry has been performed (R242 condition 3). -/
def State.invClear (s : State) (p : Nat) : Bool :=
  let hits := fun (q : QAcc) => q.sends.isNone && q.task.part = p && match s.taskCtx q.task with
    | some d => d.asid = (s.getPart p).regs.runAsid.toNat && s.invHits p q.task.slot q.va
    | none => false
  !s.allCores.any (fun c => c.qacc.any hits) && !s.pkg.waiters.any fun w => hits w.acc

/-- `INVALIDATION_COMPLETE` (R242, R364): the translations in the range are gone, the L1 lines of its pages written back and
dropped. -/
def execInvalidationComplete (s : State) : Res :=
  let p := s.ev.p
  let r := (s.getPart p).regs
  if !r.invBusy ∨ !s.invClear p then .next s
  else
    let gone := fun (e : TlbEnt) => r.meets e
    let slots := (List.range 64).filter fun k => match s.ctxDesc p k with | some d => d.asid = r.runAsid.toNat | none => false
    let hit := fun (l : L1Line) => l.asid = r.runAsid.toNat && (r.inRange l.va || slots.any fun k => s.invHits p k l.va)
    let one := fun (s : State) (n : Nat) =>
      (s.flushL1 n hit).updCoreN n fun c => { c with utlb := c.utlb.filter fun e => !gone e }
    let s1 := (s.getPart p).cores.foldl one s
    let s2 := s1.updPkg fun k => { k with dtlb := k.dtlb.filter fun e => !gone e.2 }
    .next (s2.updPart p fun q => { q with regs := { q.regs with invBusy := false, invDone := true } })

/-- The invalidations that may complete. -/
def State.invSteps (s : State) : List (Instr × Stim) :=
  s.pkg.parts.filterMap fun e =>
    if e.2.regs.invBusy && s.invClear e.1 then some ((.invalidationComplete, { p := e.1 }) : Instr × Stim) else none

end Sys2Proof.Machine
end

