-- ==== Sys2Proof/Machine/Host.lean ====
section
/-! DEFINITION. Host requests (R353 to R357), images (R366), soft errors (R360, R361), reset, self-tests and the thermal trip
(R365, R367). -/

namespace Sys2Proof.Machine

/-! ### Refusals of host requests (R358, R359)

Each NAK names its kind: 1 remote access error, 2 invalid request, 3 remote operational error. -/

/-- A host request is refused: a NAK, and an entry of its partition's error log. The management endpoint has no partition. -/
def State.refuseHost (s : State) (why cause addr arg : Nat) : State :=
  let q := s.ev.rq
  let s1 := s.emit (.hostNak q.ep q.qp why)
  if q.ep < 8 then s1.logErr q.ep addr (reqHost q.qp) cause arg else s1

/-- An entry of a partition's device-window table (R354). -/
structure Window where
  slot : Nat
  r : Bool
  w : Bool
  a : Bool
  base : Nat
  len : Nat
  deriving DecidableEq, Repr

/-- The window that an R-key names, where it is valid. -/
def State.window (s : State) (p k : Nat) : Option Window :=
  let e := 0x1000 + 32 * k
  let w0 := s.pageLe p e 8
  if k = 0 ∨ 256 ≤ k ∨ !bit w0 63 then none
  else some { slot := w0 % 65536, r := bit w0 16, w := bit w0 17, a := bit w0 18, base := s.pageLe p (e + 8) 8, len := s.pageLe p (e + 16) 8 }

/-- What a host access reaches: its context and its pieces with their places, a refusal, or past the end of memory. -/
inductive HostReach where
  | ok (d : CtxDesc) (l : List (Place × Nat × Nat)) (s : State)
  | no (s : State)
  | hole (pa : Nat)

/-- Whether a place may be written by the host (R354). -/
def Place.hostRo (p : Place) : Bool :=
  match p with
  | .spad .. => false
  | .mem _ a => attrRo a || attrClass a = 1

/-- The pieces of a run of a context's memory, each in one word, with their places. -/
def hostPieces (s : State) (p : Nat) (d : CtxDesc) (va : Nat) (write : Bool) (acc : List (Place × Nat × Nat)) : List (Nat × Nat) → HostReach
  | [] => .ok d acc s
  | (o, n) :: l =>
    let r := if va + o < spadEnd ∨ 2 ^ 48 ≤ va + o then (Reached.bad 1, s) else s.reach 0 p d none (va + o)
    match r.1 with
    | .hole pa => .hole pa
    | .bad _ => .no r.2
    | .found pl => if write && pl.hostRo then .no r.2 else hostPieces r.2 p d va write (acc ++ [(pl, o, n)]) l

/-- Resolves a host request of `n` bytes against its window, with the right it needs (R354). -/
def State.hostReach (s : State) (right : Window → Bool) (write : Bool) (n : Nat) : HostReach :=
  let q := s.ev.rq
  match s.window q.ep q.rkey with
  | none => .no s
  | some w =>
    if !right w ∨ q.va < w.base ∨ w.base + w.len < q.va + n then .no s
    else match s.ctxDesc q.ep w.slot with
      | none => .no s
      | some d => hostPieces s q.ep d q.va write [] (pieces q.va n)

/-- Who performs a host access at a place. -/
def hostWho (p : Nat) : Place → Who
  | .spad c _ => .fabric p (c / 256)
  | .mem pa _ => fabricWho p pa

/-- Writes one piece of a host write (R357): full/empty bits and descriptors stay; a block of which the last piece is written, and that
is written whole, loses its poison (R361). -/
def State.hostStore (s : State) (p slot va : Nat) (data : List Byte) (e : Place × Nat × Nat) : State :=
  let pl := e.1
  let o := e.2.1
  let n := e.2.2
  let s1 := (s.claim p slot pl).writeBytes (hostWho p pl) 0 0 0 pl.home (leNat ((data.drop o).take n)) n
  if (va + o + n) % 64 = 0 ∧ 64 ≤ o + n then s1.cleanBlock pl.home else s1

/-- Writes the pieces of a host access in one step. -/
def State.hostStores (s : State) (p slot va : Nat) (data : List Byte) (l : List (Place × Nat × Nat)) : State :=
  l.foldl (fun s e => s.hostStore p slot va data e) s

/-! ### The turn of a request (R353, R357, R367) -/

/-- Whether a request names an endpoint and a queue pair that exist (R353). -/
def hostKnown (q : HostReq) : Bool := q.ep ≤ 8 && q.qp < 256

/-- A request of `n` bytes: taken only by a queue pair that exists, once the Ethernet port is ready (R367); after the host write of its
queue pair that is under way (R357); and refused above 2^31 bytes, as a request that is not supported (R353, log entry 135). -/
def State.hostTurn (s : State) (i : Instr) (n opc : Nat) (r : Res) : Res :=
  let q := s.ev.rq
  if !hostKnown q ∨ !s.pkg.regs.funcready.contains (32 * 32 + 20) then .next s
  else match s.pkg.hostJobs.findIdx? (fun (j : HostJob) => j.rq.ep = q.ep && j.rq.qp = q.qp) with
    | some k =>
      .next (s.updPkg fun g => { g with hostJobs := mapNth (fun _ => true) (fun (j : HostJob) => { j with later := j.later ++ [(i, s.ev)] }) g.hostJobs k })
    | none => if 2 ^ 31 < n then .next (s.refuseHost 2 3 0 opc) else r

/-- The next word of host write `k` is written; after the last one it is acknowledged, and the requests that waited for it take their
turn. -/
def State.hostWord (s : State) (k : Nat) : State :=
  match s.pkg.hostJobs[k]? with
  | none => s
  | some j =>
    let s1 := match j.left with
      | e :: _ => s.hostStore j.rq.ep j.slot j.rq.va j.data e
      | [] => s
    if 1 < j.left.length then s1.updPkg fun g => { g with hostJobs := lset g.hostJobs k { j with left := j.left.drop 1 } }
    else ({ s1 with agenda := j.later ++ s1.agenda }.updPkg fun g => { g with hostJobs := ldel g.hostJobs k }).emit (.hostAck j.rq.ep j.rq.qp)

/-- The host writes that may go on. -/
def State.hostSteps (s : State) : List (Instr × Stim) :=
  (List.range s.pkg.hostJobs.length).filterMap fun k =>
    match s.pkg.hostJobs[k]? with
    | some j => if (s.getPart j.rq.ep).rebasing then none else some (.rdmaWrite, { n := 1, k })
    | none => none

/-- A request to the hub window while the package is held in reset: the management endpoint releases it after a thermal trip (R367, log
entry 136); where the firmware was refused only ATTEST acts (R365). -/
def State.heldWrite (s : State) : State :=
  let q := s.ev.rq
  if q.ep ≠ 8 ∨ q.rkey ≠ 0 ∨ !hostKnown q then s
  else if s.pkg.tripped then
    (s.updPkg fun k => { k with tripped := false, held := !Config.firmwareValid }).emit (.hostAck q.ep q.qp)
  else if q.va = 0x2000 then { s with agenda := (.attest, { data := s.ev.data }) :: s.agenda }.emit (.hostAck q.ep q.qp)
  else s

/-- What an `RDMA_WRITE` does on its turn: the hub window, where each register acts on its own, or a device window, whose words are
written one by one. -/
def State.hostWrites (s : State) : Res :=
  let q := s.ev.rq
  if 8 ≤ q.ep then
    if q.rkey = 0 then .next ({ s with agenda := hubWrite true q.va s.ev.data q.qp ++ s.agenda }.emit (.hostAck q.ep q.qp))
    else .next (s.refuseHost 1 2 q.va q.rkey)
  else if q.rkey = 0 then
    if q.va + s.ev.data.length ≤ 0x10000 then
      .next ({ s with agenda := hubWrite false (0x100000 + 0x10000 * q.ep + q.va) s.ev.data q.qp ++ s.agenda }.emit (.hostAck q.ep q.qp))
    else .next (s.refuseHost 1 2 q.va 0)
  else
    match s.hostReach (·.w) true s.ev.data.length with
    | .hole pa => .fault (.noSuchPhysicalAddress pa)
    | .no s1 => .next (s1.refuseHost 1 2 q.va q.rkey)
    | .ok d l s1 => .next (s1.updPkg fun g => { g with hostJobs := g.hostJobs ++ [{ rq := q, slot := d.slot, data := s.ev.data, left := l, later := [] }] })

/-- `RDMA_WRITE` (R354, R357, R362): the bytes `data` at the address of the request; with `n` = 1 the next word of host write `k`. -/
def execRdmaWrite (s : State) : Res :=
  if s.pkg.held then .next s.heldWrite
  else if s.ev.n = 1 then .next (s.hostWord s.ev.k)
  else s.hostTurn .rdmaWrite s.ev.data.length 0x0A s.hostWrites

/-- Reads the pieces of a host read. -/
def State.hostLoads (s : State) (p slot : Nat) : List (Place × Nat × Nat) → List Byte × State
  | [] => ([], s)
  | (pl, _, n) :: l =>
    let a := pl.addr % 4
    let base : Place := match pl with | .spad c o => .spad c (o - a) | .mem pa t => .mem (pa - a) t
    let r := (s.claim p slot pl).rmwWord (hostWho p pl) 0 0 0 base.home fun _ => none
    let t := r.2.hostLoads p slot l
    (((leBytes r.1.toNat 4).drop a).take n ++ t.1, t.2)

/-- What an `RDMA_READ` does on its turn. -/
def State.hostReads (s : State) : Res :=
  let q := s.ev.rq
  let hub := fun (o : Nat) => .next ((s.logRead o s.ev.n).emit (.hostRead q.ep q.qp (s.hubBytes o s.ev.n)))
  if 8 ≤ q.ep then (if q.rkey = 0 then hub q.va else .next (s.refuseHost 1 2 q.va q.rkey))
  else if q.rkey = 0 then
    (if q.va + s.ev.n ≤ 0x10000 then hub (0x100000 + 0x10000 * q.ep + q.va) else .next (s.refuseHost 1 2 q.va 0))
  else
    match s.hostReach (·.r) false s.ev.n with
    | .hole pa => .fault (.noSuchPhysicalAddress pa)
    | .no s1 => .next (s1.refuseHost 1 2 q.va q.rkey)
    | .ok d l s1 =>
      if l.any fun e => s1.placeBad e.1 then .next (s1.refuseHost 3 7 q.va q.rkey)
      else let r := s1.hostLoads q.ep d.slot l; .next (r.2.emit (.hostRead q.ep q.qp r.1))

/-- `RDMA_READ` (R354, R361): `n` bytes at the address of the request. -/
def execRdmaRead (s : State) : Res := s.hostTurn .rdmaRead s.ev.n 0x0C s.hostReads

/-- A host atomic (R355): one indivisible step on the 64 bits at its address; `opc` is its RoCE opcode. -/
def State.hostAtomic (s : State) (opc : Nat) (f : Nat → Nat) : Res :=
  let q := s.ev.rq
  if q.va % 8 ≠ 0 then .next (s.refuseHost 2 3 q.va opc)
  else if 8 ≤ q.ep ∨ q.rkey = 0 then .next (s.refuseHost 1 2 q.va q.rkey)
  else
    match s.hostReach (·.a) true 8 with
    | .hole pa => .fault (.noSuchPhysicalAddress pa)
    | .no s1 => .next (s1.refuseHost 1 2 q.va q.rkey)
    | .ok d l s1 =>
      match l with
      | (.mem pa attr, _, _) :: _ =>
        if !attrSysa attr then .next (s1.refuseHost 1 1 q.va q.rkey)
        else if s1.placeBad (.mem pa attr) then .next (s1.refuseHost 3 7 q.va q.rkey)
        else
          let a := s1.hostLoads q.ep d.slot l
          let old := leNat a.1
          let new := f old % 2 ^ 64
          let s2 := if new = old then a.2 else a.2.hostStores q.ep d.slot q.va (leBytes new 8) l
          .next (s2.emit (.hostOld q.ep q.qp old))
      | _ => .next (s1.refuseHost 1 1 q.va q.rkey)

/-- `ATOMIC_CMP_SWAP` (R355): where the 64 bits equal `v` they become `w`. -/
def execAtomicCmpSwap (s : State) : Res :=
  s.hostTurn .atomicCmpSwap 8 0x13 (s.hostAtomic 0x13 fun old => if old = s.ev.v then s.ev.w else old)

/-- `ATOMIC_FETCH_ADD` (R355): `v` is added to the 64 bits. -/
def execAtomicFetchAdd (s : State) : Res := s.hostTurn .atomicFetchAdd 8 0x14 (s.hostAtomic 0x14 fun old => old + s.ev.v)

/-- `UNSUPPORTED_REQUEST` (R353): a request of an unsupported kind, with RoCE opcode `v`. -/
def execUnsupportedRequest (s : State) : Res := s.hostTurn .unsupportedRequest 0 s.ev.v (.next (s.refuseHost 2 3 0 s.ev.v))

/-- `HOST_SIGNAL_POST` (R357): the host has acknowledged the record of posted signal `k`, which goes out. -/
def execHostSignalPost (s : State) : Res :=
  match s.pkg.hostPost[s.ev.k]? with
  | some (p, t, w) => .next ((s.updPkg fun g => { g with hostPost := ldel g.hostPost s.ev.k }).hostPut p t (leBytes w.toNat 4))
  | none => .next s

/-! ### Images and attestation (R365, R366) -/

/-- `IMAGE_REGISTRATION` (R366, R38, R58): image `img` gets its entry in the table of partition `p`; where its signature holds (`n` = 1) it is
valid, and its data section `blocks` is written, each block with its descriptor, in every context that its mask names. -/
def execImageRegistration (s : State) : Res :=
  match s.ev.img with
  | none => .next s
  | some i =>
    let p := s.ev.p
    let ok := s.ev.n = 1
    let i1 : Image := { i with valid := ok }
    let s1 := (s.updPart p fun q => { q with images := i1 :: q.images.filter fun x => x.id ≠ i.id }).putEntry p i1
    let bs := s.ev.blocks.zip (List.range s.ev.blocks.length)
    let put := fun (d : CtxDesc) (s : State) (e : DataBlock × Nat) =>
      match (s.reach 0 p d none (i.dataVa + 64 * e.2)).1 with
      | .found pl =>
        let s2 := s.claim p d.slot pl
        s2.setHome pl ((s2.homeStore pl).putBlock pl.addr e.1.data (some e.1.desc))
      | _ => s
    if ok then
      .next (((List.range 64).filter fun k => i.slots.getLsbD k).foldl (fun s k =>
        match s.ctxDesc p k with
        | some d => bs.foldl (put d) s
        | none => s) s1)
    else .next s1

/-- The bytes of a partition's image table: the entries of its images; of its context table; and of its window table (R366, R335, R354). -/
def State.imageTable (s : State) (p : Nat) : List Byte :=
  ((sortBy (fun a b => a < b) ((s.getPart p).images.map (·.id))).flatMap fun k => bytesGet s.pkg.hbm.mem (s.imageEntry p k) 128)
def State.ctxTable (s : State) (p : Nat) : List Byte := bytesGet s.pkg.hbm.mem (s.getPart p).regs.ctxtab 4096
def State.winTable (s : State) (p : Nat) : List Byte := bytesGet (s.getPart p).regs.page 0x1000 0x2000

/-- `ATTEST` (R365): the management controller signs a report for the nonce `data`: the serial number, whether the firmware was accepted
and its digest, and for each partition its core set and its digests. -/
def execAttest (s : State) : Res :=
  let nonce := s.ev.data.take 32
  let one := fun (p : Nat) => (s.getPart p).cores ++ [Config.digest (s.imageTable p), Config.digest (s.ctxTable p), Config.digest (s.winTable p)]
  let body := [Config.serial, b2n Config.firmwareValid, Config.firmwareDigest] ++ (List.range 8).flatMap one
  .next ((s.updPkg fun k => { k with regs := { k.regs with attest := bytesPut k.regs.attest 0 nonce } }).emit
    (.report nonce (body ++ [Config.signature nonce body])))

/-! ### Soft errors (R360, R361) -/

/-- `SINGLE_BIT_ERROR` (R360): an error of structure `k` is corrected and counted. -/
def execSingleBitError (s : State) : Res :=
  if 16 ≤ s.ev.k then .next s
  else .next (s.updPkg fun g =>
    { g with regs := { g.regs with secnt := sset 0 g.regs.secnt s.ev.k (Nat.min (sget 0 g.regs.secnt s.ev.k + 1) 0xFFFFFFFF) } })

/-- Poisons a register of the task on a core. -/
def State.poisonReg (s : State) (core : Nat) (r : Nat × Nat) : State :=
  s.updCoreN core fun c => { c with th := { c.th with rpoison := if c.th.rpoison.contains r then c.th.rpoison else c.th.rpoison ++ [r] } }

/-- Poisons a block of memory, wherever on its way a copy of it was struck (log entry 98). -/
def State.poisonMem (s : State) (pa : Nat) : State :=
  s.updPkg fun k => { k with hbm := { k.hbm with poison := sset false k.hbm.poison (pa / 64) true } }

/-- The partition that a block of HBM belongs to: one whose contexts' tables map it, or whose save areas or kennels hold it. -/
def State.partOfPa (s : State) (pa : Nat) : Option Nat :=
  let m := s.pkg.hbm.mem
  let within := fun (r : Nat × Nat) => decide (r.1 ≤ pa ∧ pa < r.1 + r.2)
  (List.range 8).find? fun p => (s.allCtxs p).any fun d =>
    (d.save ≠ 0 && within (d.save, 0x10000 + d.ncore * 0x400000)) || (d.kennel ≠ 0 && within (d.kennel, d.ksize * 4096))
      || (leavesOf m d.root 0 4).any within

/-- A packet that an error has struck in a switch buffer is refused with POISON: a request at its source, an answer at the one that
waits for it (log entry 98). -/
def poisonNak (k : Packet) : Packet :=
  if vcClass k.kind = 1 ∨ k.kind = 10 then { nakOf k 0x0A with drank := k.drank, srank := k.srank } else nakOf k 0x0A

/-- The captured results of a thread: those in flight, or in its snapshot. -/
def Thread.results (t : Thread) : List Landing := match t.snap with | some n => n.land | none => t.inflight

/-- An uncorrectable error strikes captured result `n` of a thread (R361). -/
def Thread.strikeResult (t : Thread) (n : Nat) : Thread :=
  let f := mapNth (fun _ => true) (fun (l : Landing) => { l with bad := true })
  match t.snap with
  | some x => { t with snap := some { x with land := f x.land n } }
  | none => { t with inflight := f t.inflight n }

/-- `UNCORRECTABLE_ERROR` (R361): the block that `err` names is poisoned, and logged once, with its PA where it has one (R359); what
belongs to no partition is logged by partition 0 (log entry 89). A die store and an L1 are struck only in a
line that they hold: a die store holds the lines of COH pages whose home it is (R235). -/
def execUncorrectableError (s : State) : Res :=
  let log := fun (p : Option Nat) (pa code : Nat) (s : State) => s.logErr (p.getD 0) pa (6 * 2 ^ 28) 6 code
  match s.ev.err with
  | .mem pa =>
    if hbmEnd ≤ pa then .next s
    else .next (log (s.partOfPa pa) pa 0 (s.poisonMem pa))
  | .dieStore pa =>
    let l := sget 0 s.pkg.lineOf (pa / 64)
    if hbmEnd ≤ pa ∨ l = 0 ∨ !(sget [] s.pkg.dstore (lineDie (pa / 64))).contains (pa / 64) then .next s else .next (log (some (l - 1)) pa 1 (s.poisonMem pa))
  | .l1 c pa =>
    if hbmEnd ≤ pa ∨ !(s.getCore c).l1.any (fun l => l.pa = pa / 64 * 64) then .next s
    else .next (log (s.partOf c) pa 2 (s.poisonMem pa))
  | .spad c o =>
    .next (log (s.partOf c) 0 3 (s.updCoreN c fun k => { k with spad := { k.spad with poison := sset false k.spad.poison (o % spadEnd / 64) true } }))
  | .tile c n => .next (log (s.partOf c) 0 4 (s.updCoreN c fun k => { k with tpoison := sset false k.tpoison (n % 96) true }))
  | .slab c n => .next (log (s.partOf c) 0 5 (s.updCoreN c fun k => { k with wpoison := sset false k.wpoison (n % 64) true }))
  | .scalar c n => .next (log (s.partOf c) 0 6 (s.poisonReg c (0, n % 64)))
  | .pred c n => .next (log (s.partOf c) 0 6 (s.poisonReg c (2, n % 128)))
  | .vector c n => .next (log (s.partOf c) 0 6 (s.poisonReg c (1, n % 64)))
  | .result c n =>
    if n < (s.getCore c).th.results.length then .next (log (s.partOf c) 0 6 (s.updCoreN c fun k => { k with th := k.th.strikeResult n }))
    else .next s
  | .switchBuf l k =>
    match (s.getLink l).sendq[k]? with
    | none => .next s
    | some t =>
      if t.pkt.kind = 7 ∨ t.pkt.kind = 11 then .next s
      else
        let n := poisonNak t.pkt
        let s1 := (s.freed t).updLink l fun x => { x with sendq := ldel x.sendq k }
        .next (log (some t.pkt.part) 0 7 (s1.forward { vc := vcOf n 0, gen := s.pkg.regs.rgen, pkt := n, vcIn := vcOf n 0 } 2))

/-! ### Reset and power (R365, R367) -/

/-- `PACKAGE_RESET` (R365, R367): the package begins again; with firmware that the boot ROM does not accept it stays in reset. -/
def execPackageReset (s : State) : Res :=
  .next { State.reset with agenda := s.agenda, choice := s.choice, pkg := { out := s.pkg.out, held := !Config.firmwareValid } }

/-- `SELF_TEST_PASS` (R367): function `n` passes its self-test: its FUNCREADY bit is set. A link trains, on the lanes in `v`. -/
def execSelfTestPass (s : State) : Res :=
  let n := s.ev.n
  if s.pkg.held ∨ 32 * 32 + 22 ≤ n then .next s
  else if 32 * 32 + 12 ≤ n ∧ n < 32 * 32 + 20 then
    let l := n - (32 * 32 + 12)
    let m := BitVec.ofNat 16 s.ev.v &&& ~~~(s.getLink l).barred
    match laneGroup m.toNat with
    | none => .next s
    | some g =>
      if s.pkg.regs.funcready.contains n then .next s
      else .next (((s.updLink l fun k => { k.raise g s.pkg.time with good := m, lanes := m }).linkEvent l 4).funcReady n)
  else .next (s.funcReady n)

/-- `THERMAL_TRIP` (R367): every live launch ends with ABORTED, and the package is held in reset. -/
def execThermalTrip (s : State) : Res :=
  let all := s.pkg.parts.flatMap fun e => e.2.launches.map fun l => (e.1, l.slot)
  let one := fun (s : State) (e : Nat × Nat) => ((s.abandonAll e.1 e.2).updLaunch e.1 e.2 fun l => l.raise 3).completeLaunch e.1 e.2 []
  let s1 := all.foldl one s
  .next { State.reset with agenda := s.agenda, choice := s.choice, pkg := { hbm := s1.pkg.hbm, out := s1.pkg.out, held := true, tripped := true } }

end Sys2Proof.Machine
end

