-- ==== Sys2Proof/Machine/Slots.lean ====
section
/-! DEFINITION. The meanings of the slot operations, by operation: what serving a slip entry runs (R208). The steps of the
device stand in no slot and change nothing here. -/

namespace Sys2Proof.Machine

/-- Runs the meaning of a slot operation. -/
def runSlot (i : Instr) (s : State) : Res :=
  match i with
  | .endB vj => Sys2Proof.Machine.execEndB vj s
  | .add g d a b => Sys2Proof.Machine.execAdd g d a b s
  | .sub g d a b => Sys2Proof.Machine.execSub g d a b s
  | .and g d a b => Sys2Proof.Machine.execAnd g d a b s
  | .or g d a b => Sys2Proof.Machine.execOr g d a b s
  | .xor g d a b => Sys2Proof.Machine.execXor g d a b s
  | .andn g d a b => Sys2Proof.Machine.execAndn g d a b s
  | .shl g d a b => Sys2Proof.Machine.execShl g d a b s
  | .shr g d a b => Sys2Proof.Machine.execShr g d a b s
  | .sar g d a b => Sys2Proof.Machine.execSar g d a b s
  | .rotr g d a b => Sys2Proof.Machine.execRotr g d a b s
  | .slt g d a b => Sys2Proof.Machine.execSlt g d a b s
  | .sltu g d a b => Sys2Proof.Machine.execSltu g d a b s
  | .seq g d a b => Sys2Proof.Machine.execSeq g d a b s
  | .sne g d a b => Sys2Proof.Machine.execSne g d a b s
  | .min g d a b => Sys2Proof.Machine.execMin g d a b s
  | .max g d a b => Sys2Proof.Machine.execMax g d a b s
  | .minu g d a b => Sys2Proof.Machine.execMinu g d a b s
  | .maxu g d a b => Sys2Proof.Machine.execMaxu g d a b s
  | .mul g d a b => Sys2Proof.Machine.execMul g d a b s
  | .mulh g d a b => Sys2Proof.Machine.execMulh g d a b s
  | .mulhu g d a b => Sys2Proof.Machine.execMulhu g d a b s
  | .div g d a b => Sys2Proof.Machine.execDiv g d a b s
  | .divu g d a b => Sys2Proof.Machine.execDivu g d a b s
  | .rem g d a b => Sys2Proof.Machine.execRem g d a b s
  | .remu g d a b => Sys2Proof.Machine.execRemu g d a b s
  | .clz g d a => Sys2Proof.Machine.execClz g d a s
  | .ctz g d a => Sys2Proof.Machine.execCtz g d a s
  | .popc g d a => Sys2Proof.Machine.execPopc g d a s
  | .sel g d a b => Sys2Proof.Machine.execSel g d a b s
  | .bfx g d a b => Sys2Proof.Machine.execBfx g d a b s
  | .bfi g d a b => Sys2Proof.Machine.execBfi g d a b s
  | .addi g d a k => Sys2Proof.Machine.execAddi g d a k s
  | .andi g d a k => Sys2Proof.Machine.execAndi g d a k s
  | .ori g d a k => Sys2Proof.Machine.execOri g d a k s
  | .xori g d a k => Sys2Proof.Machine.execXori g d a k s
  | .shli g d a k => Sys2Proof.Machine.execShli g d a k s
  | .shri g d a k => Sys2Proof.Machine.execShri g d a k s
  | .sari g d a k => Sys2Proof.Machine.execSari g d a k s
  | .slti g d a k => Sys2Proof.Machine.execSlti g d a k s
  | .sltui g d a k => Sys2Proof.Machine.execSltui g d a k s
  | .seqi g d a k => Sys2Proof.Machine.execSeqi g d a k s
  | .mini g d a k => Sys2Proof.Machine.execMini g d a k s
  | .maxi g d a k => Sys2Proof.Machine.execMaxi g d a k s
  | .muli g d a k => Sys2Proof.Machine.execMuli g d a k s
  | .li g d k => Sys2Proof.Machine.execLi g d k s
  | .lhi g d imm => Sys2Proof.Machine.execLhi g d imm s
  | .lpc g d k => Sys2Proof.Machine.execLpc g d k s
  | .br g a o => Sys2Proof.Machine.execBr g a o s
  | .brn g a o => Sys2Proof.Machine.execBrn g a o s
  | .bz g a o => Sys2Proof.Machine.execBz g a o s
  | .bnz g a o => Sys2Proof.Machine.execBnz g a o s
  | .jmp g o => Sys2Proof.Machine.execJmp g o s
  | .call g o => Sys2Proof.Machine.execCall g o s
  | .jr g a o => Sys2Proof.Machine.execJr g a o s
  | .calr g a o => Sys2Proof.Machine.execCalr g a o s
  | .brlc g o => Sys2Proof.Machine.execBrlc g o s
  | .loops g a e => Sys2Proof.Machine.execLoops g a e s
  | .ldW g d a k => Sys2Proof.Machine.execLdW g d a k s
  | .ldH g d a k => Sys2Proof.Machine.execLdH g d a k s
  | .ldHu g d a k => Sys2Proof.Machine.execLdHu g d a k s
  | .ldB g d a k => Sys2Proof.Machine.execLdB g d a k s
  | .ldBu g d a k => Sys2Proof.Machine.execLdBu g d a k s
  | .stW g d a k => Sys2Proof.Machine.execStW g d a k s
  | .stH g d a k => Sys2Proof.Machine.execStH g d a k s
  | .stB g d a k => Sys2Proof.Machine.execStB g d a k s
  | .ldf g d a k => Sys2Proof.Machine.execLdf g d a k s
  | .ldfe g d a k => Sys2Proof.Machine.execLdfe g d a k s
  | .stef g d a k => Sys2Proof.Machine.execStef g d a k s
  | .stf g d a k => Sys2Proof.Machine.execStf g d a k s
  | .clrf g a k => Sys2Proof.Machine.execClrf g a k s
  | .csrr g d c => Sys2Proof.Machine.execCsrr g d c s
  | .csrw g d c => Sys2Proof.Machine.execCsrw g d c s
  | .csrs g d c => Sys2Proof.Machine.execCsrs g d c s
  | .csrc g d c => Sys2Proof.Machine.execCsrc g d c s
  | .trap g d k => Sys2Proof.Machine.execTrap g d k s
  | .eret g => Sys2Proof.Machine.execEret g s
  | .wait g ql qs cp tl => Sys2Proof.Machine.execWait g ql qs cp tl s
  | .twait g m => Sys2Proof.Machine.execTwait g m s
  | .gjoin g n => Sys2Proof.Machine.execGjoin g n s
  | .gleave g n => Sys2Proof.Machine.execGleave g n s
  | .gsync g n => Sys2Proof.Machine.execGsync g n s
  | .fold g => Sys2Proof.Machine.execFold g s
  | .tdom g d sel => Sys2Proof.Machine.execTdom g d sel s
  | .tbud g d sel => Sys2Proof.Machine.execTbud g d sel s
  | .snapr g d a b => Sys2Proof.Machine.execSnapr g d a b s
  | .snapw g d a b => Sys2Proof.Machine.execSnapw g d a b s
  | .tlook g d a b => Sys2Proof.Machine.execTlook g d a b s
  | .tins g d a b => Sys2Proof.Machine.execTins g d a b s
  | .tinvVa g a b => Sys2Proof.Machine.execTinvVa g a b s
  | .tinvEntry g d => Sys2Proof.Machine.execTinvEntry g d s
  | .pand g d a b => Sys2Proof.Machine.execPand g d a b s
  | .por g d a b => Sys2Proof.Machine.execPor g d a b s
  | .pxor g d a b => Sys2Proof.Machine.execPxor g d a b s
  | .pandn g d a b => Sys2Proof.Machine.execPandn g d a b s
  | .pnez g d a => Sys2Proof.Machine.execPnez g d a s
  | .pget g d a h => Sys2Proof.Machine.execPget g d a h s
  | .pput g d a h => Sys2Proof.Machine.execPput g d a h s
  | .pcnt g d a => Sys2Proof.Machine.execPcnt g d a s
  | .pfirst g d a => Sys2Proof.Machine.execPfirst g d a s
  | .rtime g d sel => Sys2Proof.Machine.execRtime g d sel s
  | .vaddF g d a b => Sys2Proof.Machine.execVaddF g d a b s
  | .vsubF g d a b => Sys2Proof.Machine.execVsubF g d a b s
  | .vmulF g d a b => Sys2Proof.Machine.execVmulF g d a b s
  | .vfmaF g d a b => Sys2Proof.Machine.execVfmaF g d a b s
  | .vfmsF g d a b => Sys2Proof.Machine.execVfmsF g d a b s
  | .vfnmaF g d a b => Sys2Proof.Machine.execVfnmaF g d a b s
  | .vminF g d a b => Sys2Proof.Machine.execVminF g d a b s
  | .vmaxF g d a b => Sys2Proof.Machine.execVmaxF g d a b s
  | .vabsF g d a => Sys2Proof.Machine.execVabsF g d a s
  | .vnegF g d a => Sys2Proof.Machine.execVnegF g d a s
  | .vdivF g d a b => Sys2Proof.Machine.execVdivF g d a b s
  | .vsqrtF g d a => Sys2Proof.Machine.execVsqrtF g d a s
  | .vrsqrtF g d a => Sys2Proof.Machine.execVrsqrtF g d a s
  | .vrcpF g d a => Sys2Proof.Machine.execVrcpF g d a s
  | .vexp2F g d a => Sys2Proof.Machine.execVexp2F g d a s
  | .vlog2F g d a => Sys2Proof.Machine.execVlog2F g d a s
  | .vfeq g d a b => Sys2Proof.Machine.execVfeq g d a b s
  | .vfne g d a b => Sys2Proof.Machine.execVfne g d a b s
  | .vflt g d a b => Sys2Proof.Machine.execVflt g d a b s
  | .vfle g d a b => Sys2Proof.Machine.execVfle g d a b s
  | .vfun g d a b => Sys2Proof.Machine.execVfun g d a b s
  | .vsel g d a b => Sys2Proof.Machine.execVsel g d a b s
  | .vsumF g d a => Sys2Proof.Machine.execVsumF g d a s
  | .vmaxrF g d a => Sys2Proof.Machine.execVmaxrF g d a s
  | .vminrF g d a => Sys2Proof.Machine.execVminrF g d a s
  | .vroundF g d a => Sys2Proof.Machine.execVroundF g d a s
  | .vtruncF g d a => Sys2Proof.Machine.execVtruncF g d a s
  | .vaddI g d a b => Sys2Proof.Machine.execVaddI g d a b s
  | .vsubI g d a b => Sys2Proof.Machine.execVsubI g d a b s
  | .vmulI g d a b => Sys2Proof.Machine.execVmulI g d a b s
  | .vmulhI g d a b => Sys2Proof.Machine.execVmulhI g d a b s
  | .vand g d a b => Sys2Proof.Machine.execVand g d a b s
  | .vor g d a b => Sys2Proof.Machine.execVor g d a b s
  | .vxor g d a b => Sys2Proof.Machine.execVxor g d a b s
  | .vshl g d a b => Sys2Proof.Machine.execVshl g d a b s
  | .vshr g d a b => Sys2Proof.Machine.execVshr g d a b s
  | .vsar g d a b => Sys2Proof.Machine.execVsar g d a b s
  | .vminI g d a b => Sys2Proof.Machine.execVminI g d a b s
  | .vmaxI g d a b => Sys2Proof.Machine.execVmaxI g d a b s
  | .vminuI g d a b => Sys2Proof.Machine.execVminuI g d a b s
  | .vmaxuI g d a b => Sys2Proof.Machine.execVmaxuI g d a b s
  | .vieq g d a b => Sys2Proof.Machine.execVieq g d a b s
  | .vilt g d a b => Sys2Proof.Machine.execVilt g d a b s
  | .viltu g d a b => Sys2Proof.Machine.execViltu g d a b s
  | .vsumI g d a => Sys2Proof.Machine.execVsumI g d a s
  | .vbcast g d a => Sys2Proof.Machine.execVbcast g d a s
  | .vgetl g d a b => Sys2Proof.Machine.execVgetl g d a b s
  | .vsetl g d a b => Sys2Proof.Machine.execVsetl g d a b s
  | .vperm g d a b => Sys2Proof.Machine.execVperm g d a b s
  | .vrot g d a b => Sys2Proof.Machine.execVrot g d a b s
  | .vid g d => Sys2Proof.Machine.execVid g d s
  | .vcvtFi g d a => Sys2Proof.Machine.execVcvtFi g d a s
  | .vcvtIf g d a => Sys2Proof.Machine.execVcvtIf g d a s
  | .vtruncI g d a => Sys2Proof.Machine.execVtruncI g d a s
  | .vpackBf g d a part k => Sys2Proof.Machine.execVpackBf g d a part k s
  | .vpackH g d a part k => Sys2Proof.Machine.execVpackH g d a part k s
  | .vpackD8 g d a part k => Sys2Proof.Machine.execVpackD8 g d a part k s
  | .vpackI8 g d a part k => Sys2Proof.Machine.execVpackI8 g d a part k s
  | .vunpkBf g d a part => Sys2Proof.Machine.execVunpkBf g d a part s
  | .vunpkH g d a part => Sys2Proof.Machine.execVunpkH g d a part s
  | .vunpkD8 g d a part => Sys2Proof.Machine.execVunpkD8 g d a part s
  | .vunpkI8 g d a part => Sys2Proof.Machine.execVunpkI8 g d a part s
  | .vld g v a k => Sys2Proof.Machine.execVld g v a k s
  | .vst g v a k => Sys2Proof.Machine.execVst g v a k s
  | .vlds g v a b => Sys2Proof.Machine.execVlds g v a b s
  | .vsts g v a b => Sys2Proof.Machine.execVsts g v a b s
  | .vldx g v a b => Sys2Proof.Machine.execVldx g v a b s
  | .vstx g v a b => Sys2Proof.Machine.execVstx g v a b s
  | .vldf g v a k => Sys2Proof.Machine.execVldf g v a k s
  | .vstf g v a k => Sys2Proof.Machine.execVstf g v a k s
  | .vqld g a k => Sys2Proof.Machine.execVqld g a k s
  | .vqst g v a k => Sys2Proof.Machine.execVqst g v a k s
  | .vldd g v a k => Sys2Proof.Machine.execVldd g v a k s
  | .vstd g v a b => Sys2Proof.Machine.execVstd g v a b s
  | .vprn24 g v a b => Sys2Proof.Machine.execVprn24 g v a b s
  | .vprn48 g v a b => Sys2Proof.Machine.execVprn48 g v a b s
  | .vsdot g v a b => Sys2Proof.Machine.execVsdot g v a b s
  | .vexpd g v a => Sys2Proof.Machine.execVexpd g v a s
  | .vdot4I8 g v a b => Sys2Proof.Machine.execVdot4I8 g v a b s
  | .vdot2Bf g v a b => Sys2Proof.Machine.execVdot2Bf g v a b s
  | .nset g sel a => Sys2Proof.Machine.execNset g sel a s
  | .nseti g sel k => Sys2Proof.Machine.execNseti g sel k s
  | .ngo g => Sys2Proof.Machine.execNgo g s
  | .nstop g l => Sys2Proof.Machine.execNstop g l s
  | .cseq g a => Sys2Proof.Machine.execCseq g a s
  | .mscl g a => Sys2Proof.Machine.execMscl g a s
  | .tzero g t n m => Sys2Proof.Machine.execTzero g t n m s
  | .tout g t a b => Sys2Proof.Machine.execTout g t a b s
  | .tin g t a b => Sys2Proof.Machine.execTin g t a b s
  | .tacc g t a b => Sys2Proof.Machine.execTacc g t a b s
  | .tmov g t sel => Sys2Proof.Machine.execTmov g t sel s
  | .wbld g b a u => Sys2Proof.Machine.execWbld g b a u s
  | .wprn24 g b sel => Sys2Proof.Machine.execWprn24 g b sel s
  | .wprn48 g b sel => Sys2Proof.Machine.execWprn48 g b sel s
  | .tmma g t sel a => Sys2Proof.Machine.execTmma g t sel a s
  | .ccp g t fl a b => Sys2Proof.Machine.execCcp g t fl a b s
  | .cnd g t fl a b => Sys2Proof.Machine.execCnd g t fl a b s
  | .cgat g t fl a b => Sys2Proof.Machine.execCgat g t fl a b s
  | .csct g t fl a b => Sys2Proof.Machine.execCsct g t fl a b s
  | .cwb g t fl a b => Sys2Proof.Machine.execCwb g t fl a b s
  | .cfill g t fl a b => Sys2Proof.Machine.execCfill g t fl a b s
  | .cred g t fl a b => Sys2Proof.Machine.execCred g t fl a b s
  | .csig g t fl a b => Sys2Proof.Machine.execCsig g t fl a b s
  | .chbind g d c => Sys2Proof.Machine.execChbind g d c s
  | .chbindUnbind g d => Sys2Proof.Machine.execChbindUnbind g d s
  | .csnd g c a => Sys2Proof.Machine.execCsnd g c a s
  | .crcv g d c => Sys2Proof.Machine.execCrcv g d c s
  | .crad g d c => Sys2Proof.Machine.execCrad g d c s
  | .fld g a => Sys2Proof.Machine.execFld g a s
  | .fst g a b => Sys2Proof.Machine.execFst g a b s
  | .famoAdd g a b => Sys2Proof.Machine.execFamoAdd g a b s
  | .famoMax g a b => Sys2Proof.Machine.execFamoMax g a b s
  | .famoOr g a b => Sys2Proof.Machine.execFamoOr g a b s
  | .famoSwap g a b => Sys2Proof.Machine.execFamoSwap g a b s
  | .xar g t fl a b => Sys2Proof.Machine.execXar g t fl a b s
  | .xrs g t fl a b => Sys2Proof.Machine.execXrs g t fl a b s
  | .xag g t fl a b => Sys2Proof.Machine.execXag g t fl a b s
  | .xbc g t fl a b => Sys2Proof.Machine.execXbc g t fl a b s
  | .xmrg g t fl a b => Sys2Proof.Machine.execXmrg g t fl a b s
  | .xred g t fl a b => Sys2Proof.Machine.execXred g t fl a b s
  | .xbar g t fl a b => Sys2Proof.Machine.execXbar g t fl a b s
  | .qldW g a b => Sys2Proof.Machine.execQldW g a b s
  | .qldH g a b => Sys2Proof.Machine.execQldH g a b s
  | .qldB g a b => Sys2Proof.Machine.execQldB g a b s
  | .qstW g d a b => Sys2Proof.Machine.execQstW g d a b s
  | .qstH g d a b => Sys2Proof.Machine.execQstH g d a b s
  | .qstB g d a b => Sys2Proof.Machine.execQstB g d a b s
  | .amoAdd g a b => Sys2Proof.Machine.execAmoAdd g a b s
  | .amoAnd g a b => Sys2Proof.Machine.execAmoAnd g a b s
  | .amoOr g a b => Sys2Proof.Machine.execAmoOr g a b s
  | .amoXor g a b => Sys2Proof.Machine.execAmoXor g a b s
  | .amoMin g a b => Sys2Proof.Machine.execAmoMin g a b s
  | .amoMax g a b => Sys2Proof.Machine.execAmoMax g a b s
  | .amoMinu g a b => Sys2Proof.Machine.execAmoMinu g a b s
  | .amoMaxu g a b => Sys2Proof.Machine.execAmoMaxu g a b s
  | .amoSwap g a b => Sys2Proof.Machine.execAmoSwap g a b s
  | .amoCas g d a b => Sys2Proof.Machine.execAmoCas g d a b s
  | .rwlRd g a => Sys2Proof.Machine.execRwlRd g a s
  | .rwlWr g a => Sys2Proof.Machine.execRwlWr g a s
  | .rwlRu g a => Sys2Proof.Machine.execRwlRu g a s
  | .rwlWu g a => Sys2Proof.Machine.execRwlWu g a s
  | .waita g a b => Sys2Proof.Machine.execWaita g a b s
  | .waitc g a b => Sys2Proof.Machine.execWaitc g a b s
  | .nop => Sys2Proof.Machine.execNop s
  | .vjoin => Sys2Proof.Machine.execVjoin s
  | _ => .next s

end Sys2Proof.Machine
end

