-- ==== Sys2Proof/Machine/Pipeline.lean ====
section
/-! DEFINITION. The steps of a core around its bundles: results landing (R204), slips served (R208), asynchronous faults
delivered (R215), ESTAT.HOLD and the cycle allowance running out (R89, R275), `gsync` episodes (R95). -/

namespace Sys2Proof.Machine

/-! ### Landing -/

/-- A cycle passes for the results in flight, the banks and the hold counter of a core. -/
def Core.tick (c : Core) : Core :=
  { c with
    banks := bankTick c.banks
    th := { c.th with inflight := c.th.inflight.map fun l => { l with remain := l.remain - 1 }
                      holdCnt := c.th.holdCnt - 1 } }

/-- Whether a slip entry would read a poisoned register among those that it waited for (R361). -/
def State.slipPoison (s : State) : Option Slip :=
  let t := s.core.th
  t.slips.find? fun e => (srcRegs e.rrb e.instr).any fun r => e.pend.contains r.1 && !t.pending e.seq r.2 && t.rpoison.contains r.2

/-- Lands what is due and hands it to the slip entries that wait for it. One that reads a poisoned register ends the task (R361). -/
def State.land (s : State) : State :=
  let s1 := s.landDue
  match s1.slipPoison with
  | some e => s1.endFaulted 0x0A0A e.baddr.toNat 0
  | none => s1.captureLanded

/-- `RESULT_LANDING` (R204): the results of a core that are due land. -/
def execResultLanding (s : State) : Res := .next (s.onCore s.ev.c State.land)

/-! ### Slips -/

/-- Why an entry cannot be served now, as a code of R205; none where only its own condition is left (R206, R208, R210). -/
def State.slipHeld (s : State) (e : Slip) : Option Nat :=
  let t := s.core.th
  if e.pend ≠ [] then some 2
  else if t.slips.any fun o => o.slot = e.slot && o.seq < e.seq then some e.why
  else if (destRegs e.rrb e.instr).any (t.pending e.seq) then some 3
  else if (match counterOf e.instr with
      | none => false
      | some k => t.slips.any fun o => o.seq < e.seq && counterOf o.instr = some k) then some 7
  else if !t.holdersFree e.instr then some 4
  else none

/-- Drops an entry, with the hold entry that it reserved and did not use, and leaves the environment of its service but for its
sequence number. -/
def State.slipDone (s : State) (seq : Nat) : State :=
  (s.updCore fun c =>
    { c with env := { seq }, xreq := none, xans := [], th := { c.th with slips := c.th.slips.filter (·.seq ≠ seq) } }).unreserve seq

/-- Sets the code of an entry. -/
def State.slipWhy (s : State) (seq k : Nat) : State := s.updSlip seq fun e => { e with why := k }

/-- Runs the operation of an entry with its captured sources. -/
def State.slipRun (s : State) (e : Slip) : Res :=
  match runSlot e.instr (s.updCore fun c => { c with env := e.env }) with
  | .next s1 =>
    match s1.core.issue with
    | .slipped k => .next ((if k = 0 then s1 else s1.slipWhy e.seq k).updCore fun c => { c with env := {} })
    | .stalled => .next (s.updCore fun c => { c with xreq := s1.core.xreq, exch := s1.core.exch })
    | _ => .next (s1.slipDone e.seq)
  | r => r

/-- Serves an entry, or notes why it still waits (R208). The queued accesses issued before a direct access is served are
performed before it (R247). -/
def State.slipServe (s : State) (e : Slip) : Res :=
  match s.slipHeld e with
  | some k => .next (s.slipWhy e.seq k)
  | none =>
    let d := if isDirect e.instr then s.drainQ s.core.num s.core.th.tid s.core.drainFuel else (true, s)
    if !d.1 then .next d.2
    else if e.why = 0 ∧ e.lanes ≠ [] ∧ (progressive e.instr ∨ e.lanes.any (·.2 ≠ 0)) then .next (d.2.bankStep e.seq 0)
    else d.2.slipRun e

/-- Serves the entries of the core in program order. A service that ends the task, or that finds a fault, ends the round. -/
def State.slipRound (s : State) : List Nat → Res
  | [] => .next s
  | q :: l =>
    match s.core.th.slips.find? (·.seq = q) with
    | none => s.slipRound l
    | some e =>
      match s.slipServe e with
      | .next s1 => if s1.core.phase = s.core.phase ∧ s1.core.th.pendF.length = s.core.th.pendF.length then (s1.wakeAll s1.wakeFuel).slipRound l
        else .next s1
      | r => r

/-- Serves every entry of the running core that can be served; after a resumption only from the cycle in which the first
bundle issues (R213). -/
def State.slips (s : State) : Res :=
  if s.core.th.frozen ≠ 0 then .next (s.updTh fun t => { t with frozen := t.frozen - 1 })
  else s.slipRound (sortBy (· < ·) (s.core.th.slips.map (·.seq)))

/-- `SLIP_SERVICE` (R208, R368): entry `k` of a core's slip entries. -/
def execSlipService (s : State) : Res :=
  s.onCoreR s.ev.c fun s1 =>
    match s1.core.th.slips[s.ev.k]? with
    | some e => s1.slipServe e
    | none => .next s1

/-! ### Faults and limits -/

/-- Whether an asynchronous fault is to be delivered before the next bundle (R215). -/
def Core.faultDue (c : Core) : Bool :=
  c.phase = .run && c.th.mode = .task && c.th.pendF ≠ [] && c.th.bubble = 0

/-- Delivers the first pending fault (R215). -/
def State.deliver (s : State) : State :=
  match s.core.th.pendF with
  | [] => s
  | f :: l => (s.updTh fun t => { t with pendF := l }).takeTrap (mkTrap f.cause f.sub f.val) true s.core.th.pc 0

/-- `ASYNC_FAULT_DELIVERY` (R215). -/
def execAsyncFaultDelivery (s : State) : Res :=
  .next (s.onCore s.ev.c fun s => if s.core.faultDue then s.deliver else s)

/-- Whether ESTAT.HOLD has run its 65,536 cycles (R89). -/
def Core.holdDue (c : Core) : Bool := c.th.csr.estat.getLsbD 1 && c.th.holdCnt = 0

/-- `HOLD_EXPIRY` (R89). -/
def execHoldExpiry (s : State) : Res :=
  .next (s.onCore s.ev.c fun s =>
    if s.core.holdDue then s.updTh fun t => { t with csr := { t.csr with estat := t.csr.estat &&& 1 } } else s)

/-- Whether the cycle allowance is spent and its event still to come (R275). -/
def Core.spentDue (c : Core) : Bool :=
  c.phase = .run && c.th.limited && !c.th.spent && c.th.begun && c.th.left = 0

/-- BUDGET CYCLES (R275): the allowance stops counting. -/
def State.spend (s : State) : State :=
  (s.updTh fun t => { t with spent := true }).takeTrap (mkTrap 0x0E 3 0) false s.core.th.pc 0

/-- `CYCLE_ALLOWANCE_EXPIRY` (R275). -/
def execCycleAllowanceExpiry (s : State) : Res :=
  .next (s.onCore s.ev.c fun s => if s.core.spentDue then s.spend else s)

/-- A cycle counts against the allowance from the task's first bundle on (R275). -/
def Core.spendCycle (c : Core) : Core :=
  if c.phase = .run && c.th.begun && c.th.limited && !c.th.spent then { c with th := { c.th with left := c.th.left - 1 } } else c

/-! ### `gsync` episodes (R95) -/

/-- The lines in use: those of a die, or of the package. -/
def State.linesUsed (s : State) (die : Option Nat) : List Nat :=
  s.pkg.parts.flatMap fun p => p.2.ctxs.flatMap fun c =>
    c.2.episodes.filterMap fun e => if e.die = die then e.line else none

/-- The least free number below `n`. -/
def leastFree (used : List Nat) (k : Nat) : Nat → Option Nat
  | 0 => none
  | n + 1 => if used.contains k then leastFree used (k + 1) n else some k

/-- A free line for an episode: 16 on a die, 8 on the package. -/
def State.freeLine (s : State) (die : Option Nat) : Option Nat :=
  leastFree (s.linesUsed die) 0 (match die with | some _ => 16 | none => 8)

/-- `GSYNC_LINE_GRANT` (R95): the episode of group `n` of context (`p`, `s`), which is not switched out (R284), takes a free line. -/
def execGsyncLineGrant (s : State) : Res :=
  let take := fun (e : Episode) => if e.grp = s.ev.n ∧ e.line.isNone then { e with line := s.freeLine e.die } else e
  if s.holdsRota s.ev.p s.ev.s then .next (s.updCtx s.ev.p s.ev.s fun x => { x with episodes := x.episodes.map take }) else .next s

/-- Whether an episode is complete: it holds a line and every task that is now a member has arrived. -/
def State.episodeFull (s : State) (p slot : Nat) (e : Episode) : Bool :=
  e.line.isSome && (s.groupMembers p slot e.grp).all fun t => e.arrived.contains t.tid

/-- Restarts a member: its next bundle issues at the restart cycle, after everything the others had performed (R254). -/
def Thread.restart (t : Thread) (g at_ pts : Nat) : Thread :=
  if t.waitG = some g ∧ t.arrived then
    { t with waitG := none, arrived := false, restartAt := at_, csr := { t.csr with pts := Nat.max t.csr.pts pts } }
  else t

/-- `GSYNC_EPISODE_COMPLETE` (R95): every member restarts 8 cycles later on a die line, 40 on a package line, and the
line is released. -/
def execGsyncEpisodeComplete (s : State) : Res :=
  match ((s.getCtx s.ev.p s.ev.s).episodes.find? (·.grp = s.ev.n)) with
  | none => .next s
  | some e =>
    if s.episodeFull s.ev.p s.ev.s e then
      let at_ := s.pkg.time + (match e.die with | some _ => 8 | none => 40)
      let s1 := e.arrived.foldl (fun s tid => s.updThread tid fun t => t.restart e.grp at_ e.pts) s
      .next (s1.updCtx s.ev.p s.ev.s fun x => { x with episodes := x.episodes.filter (·.grp ≠ e.grp) })
    else .next s

/-- Every open episode by partition and context, in the order in which they opened. -/
def State.episodesOpen (s : State) : List (Nat × Nat × Episode) :=
  sortBy (fun a b => a.2.2.opened < b.2.2.opened)
    (s.pkg.parts.flatMap fun p => p.2.ctxs.flatMap fun c => c.2.episodes.map fun e => (p.1, c.1, e))

/-- The `gsync` step that is due: an episode that is full, or one that can take a line. -/
def State.syncDue (s : State) : Option (Instr × Stim) :=
  match s.episodesOpen.find? (fun e => s.episodeFull e.1 e.2.1 e.2.2) with
  | some e => some (.gsyncEpisodeComplete, { p := e.1, s := e.2.1, n := e.2.2.grp })
  | none =>
    match s.episodesOpen.find? (fun e => e.2.2.line.isNone && (s.freeLine e.2.2.die).isSome && s.holdsRota e.1 e.2.1) with
    | some e => some (.gsyncLineGrant, { p := e.1, s := e.2.1, n := e.2.2.grp })
    | none => none

end Sys2Proof.Machine
end

