-- ==== Sys2Proof/Machine/Upkeep.lean ====
section
/-! DEFINITION. Timestamps rebased (R250), and instruction overlays filled and flushed (R292). -/

namespace Sys2Proof.Machine

/-! ### Rebase (R250) -/

/-- Lowers a timestamp by 2^30, to 0 at least. -/
def lower (n : Nat) : Nat := n - 2 ^ 30

/-- Lowers the timestamps of the lines that satisfy a test. -/
def Store.lower (t : Store) (which : Nat → Bool) : Store :=
  let f := fun (m : Sparse Nat) => m.filterMap fun e =>
    if which e.1 then (if e.2 ≤ 2 ^ 30 then none else some (e.1, e.2 - 2 ^ 30)) else some e
  { t with wts := f t.wts, rts := f t.rts }

def Thread.lower (t : Thread) : Thread :=
  { t with csr := { t.csr with pts := Machine.lower t.csr.pts }
           cbuf := t.cbuf.map fun (m : Cmd) => { m with pts := Machine.lower m.pts, fork := Machine.lower m.fork }
           mq := t.mq.map fun (m : MOp) => { m with pts := Machine.lower m.pts, fork := Machine.lower m.fork } }

/-- Lowers the timestamps in the image of a scratchpad region at `base` (R250, R347). -/
def lowerImage (m : Memory) (base : Nat) : Memory :=
  (unpackNums m (base + 0x11000) (base + 0x13000) 4 4).foldl (fun m e => lePut m (base + 0x11000 + 4 * e.1) (lower e.2) 4) m

/-- Where the images of scratchpad regions of a partition's contexts stand. -/
def State.imagesOf (s : State) (p : Nat) : List Nat :=
  (List.range 64).flatMap fun slot =>
    match s.ctxDesc p slot with
    | none => []
    | some d => (List.range d.ncore).flatMap fun l =>
      ((List.range 16).filter fun r => s.hasImage p slot l r).map fun r => saveAddr d l r

/-- Lowers what the save areas of a partition hold: images of its contexts, and of its parked tasks. -/
def State.lowerSaved (s : State) (p : Nat) : State :=
  let mine := fun (e : Nat × Nat) => e.2 < 16 && match s.findThread e.1 with | some t => t.task.part = p | none => false
  s.updPkg fun k =>
    { k with hbm := { k.hbm with mem := (s.imagesOf p).foldl lowerImage k.hbm.mem }
             taskSave := { k.taskSave with mem := ((k.taskImgs.filter mine).map fun e => taskAddr e.1 e.2).foldl lowerImage k.taskSave.mem } }

/-- Lowers the timestamp that a packet brings. -/
def Packet.lowerFor (p : Nat) (k : Packet) : Packet := if k.part = p then { k with ts := lower k.ts } else k

/-- Whether a timestamp of a partition has passed 2^31. -/
def State.rebaseDue (s : State) (p : Nat) : Bool :=
  let q := s.getPart p
  !q.rebasing && (q.fts.any (fun e => 2 ^ 31 < e.2)
    || s.allCores.any (fun c => q.cores.contains c.num && 2 ^ 31 < c.th.csr.pts)
    || s.pkg.cmds.any (fun m => m.task.part = p && 2 ^ 31 < m.pts)
    || s.pkg.parked.any (fun t => t.task.part = p && 2 ^ 31 < t.csr.pts))

/-- `REBASE` (R250): partition `p` pauses. -/
def execRebase (s : State) : Res :=
  if s.rebaseDue s.ev.p then .next (s.updPart s.ev.p fun q => { q with rebasing := true }) else .next s

/-- The effect of a rebase on a core of the partition. -/
def Core.lower (c : Core) : Core :=
  { c with th := c.th.lower, spad := c.spad.lower fun _ => true, l1 := c.l1.filter fun l => l.cls ≠ 2 }

/-- `REBASE_DONE` (R250): every timestamp of the partition is lowered, its copies of COH lines go, and work resumes. -/
def execRebaseDone (s : State) : Res :=
  let p := s.ev.p
  if (s.getPart p).rebasing then
    let s1 := (s.getPart p).cores.foldl (fun s n => s.updCoreN n Core.lower) (s.lowerSaved p)
    let s2 := s1.updPkg fun k =>
      { k with hbm := k.hbm.lower (fun l => sget 0 k.lineOf l = p + 1)
               cmds := lmapIf (fun m => m.task.part = p) (fun (m : Cmd) => { m with pts := Machine.lower m.pts, fork := Machine.lower m.fork }) k.cmds
               waiters := lmapIf (fun w => w.acc.task.part = p) (fun (w : Waiter) => { w with seen := (w.seen.1, Machine.lower w.seen.2) }) k.waiters
               mesh := k.mesh.map fun (f : MeshFlit) => { f with pkt := f.pkt.map (Packet.lowerFor p) }
               adapter := k.adapter.map fun e => (e.1, { e.2 with pkt := e.2.pkt.map (Packet.lowerFor p) })
               inq := k.inq.map fun (t : TxPkt) => { t with pkt := Packet.lowerFor p t.pkt }
               parked := lmapIf (fun t => t.task.part = p) Thread.lower k.parked }
    .next (s2.updPart p fun q =>
      { q with rebasing := false, fts := q.fts.filterMap (fun e => if e.2 ≤ 2 ^ 30 then none else some (e.1, e.2 - 2 ^ 30))
               ctxs := q.ctxs.map fun e => (e.1, { e.2 with saved := e.2.saved.map Thread.lower, msgs := e.2.msgs.map (fun (m : ChanMsg) => { m with ts := Machine.lower m.ts }), episodes := e.2.episodes.map fun (x : Episode) =>
          { x with pts := Machine.lower x.pts } }) })
  else .next s

/-- The rebase that is due. -/
def State.rebaseStep (s : State) : Option (Instr × Stim) :=
  match s.pkg.parts.find? (fun e => s.rebaseDue e.1) with
  | some e => some (.rebase, { p := e.1 })
  | none => none

/-! ### Overlays (R292) -/

/-- The page of text that a running core's fetch waits for. -/
def State.overlayWanted (s : State) (c : Core) : Option Nat :=
  let pc := c.th.pc.toNat
  if c.phase = .run && c.fillBad.isNone && !c.overlays.any (fun o => o.image = c.th.task.image && o.page = pc / 16384)
      && (s.images c.th.task.part).any (fun i => i.id = c.th.task.image && pc < i.textLen) then some (pc / 16384)
  else none

/-- What reading the text of an overlay gives: its words, or a translation fault with the VA. -/
inductive Text where
  | words (m : Sparse Word)
  | bad (sub va : Nat)
  | hole (pa : Nat)
  deriving DecidableEq, Repr

/-- Reads text from a VA on, one 64-byte block after the other; `k` is the byte offset in the overlay. -/
def readText (s : State) (d : CtxDesc) (va k : Nat) (m : Sparse Word) : Nat → Text
  | 0 => .words m
  | n + 1 =>
    match (s.unitXlate (s.core.num / 256) d (va + k)).1 with
    | .hole pa => .hole pa
    | .fault sub => .bad sub (va + k)
    | .leaf e =>
      if attrNx e.attr then .bad 7 (va + k)
      else
        let pa := e.pa + (va + k - e.base)
        readText s d va (k + 4) (sset 0 m (k / 4) (s.pkg.hbm.word pa)) n

/-- `OVERLAY_FILL` (R292, R239): the overlay that a core's fetch waits for is filled, in place of the one used longest
ago; a page whose NX is set ends the task, and any other translation fault raises XLATE at the bundle when it is next presented. -/
def execOverlayFill (s : State) : Res :=
  s.onCoreR s.ev.c fun s =>
    match s.overlayWanted s.core, s.taskCtx s.core.th.task with
    | some page, some d =>
      match (s.images s.core.th.task.part).find? (·.id = s.core.th.task.image) with
      | none => .next s
      | some i =>
        match readText s d (i.textVa + page * 16384) 0 [] (Nat.min 4096 ((i.textLen - page * 16384) / 4)) with
        | .hole pa => .fault (.noSuchPhysicalAddress pa)
        | .bad 7 va => .next (s.endFaulted (7 * 256 + 8) s.core.th.pc.toNat va)
        | .bad k va => .next (s.updCore fun c => { c with fillBad := some (i.id, page, k, va) })
        | .words m =>
          .next (s.updCore fun c =>
            { c with overlays := { image := i.id, page, words := m } :: c.overlays.take 7 })
    | _, _ => .next s

/-- `OVLFLUSH` (R292, R363): every overlay of partition `p` is untagged. -/
def execOvlflush (s : State) : Res :=
  .next ((s.getPart s.ev.p).cores.foldl (fun s n => s.updCoreN n fun c => { c with overlays := [] }) s)

/-- The steps of this file that may happen now. -/
def State.upkeepSteps (s : State) : List (Instr × Stim) :=
  (s.allCores.filterMap fun c =>
    if (s.overlayWanted c).isSome && !s.paused c.num then some ((.overlayFill, { c := c.num }) : Instr × Stim) else none)
  ++ s.pkg.parts.filterMap fun e => if e.2.rebasing then some (.rebaseDone, { p := e.1 }) else none

end Sys2Proof.Machine
end

