-- ==== Sys2Proof/Machine/Schedule.lean ====
section
/-! DEFINITION. Which step of the device comes next on its own: those that are due at this point, in a fixed order, and
those whose time the spec leaves open, of which one is picked freely (log entry 3). -/

namespace Sys2Proof.Machine

/-- The step that is due now and comes before anything else; none while the package is held in reset. -/
def State.dueStep (s : State) : Option (Instr × Stim) :=
  if s.pkg.held then none
  else
    s.syncDue <|> s.wakeDue <|> s.rebaseStep <|> s.matrixDue <|> s.kennelDue <|> s.calDue <|> s.meshDue <|> s.oldDue <|> s.linkDue <|> s.voteDue
      <|> s.growDue <|> s.shrinkDue <|> s.slotDue <|> s.ageDue <|> s.sampleDue <|> s.hangDue

/-- The steps that may happen now. -/
def State.freeSteps (s : State) : List (Instr × Stim) :=
  if s.pkg.held then []
  else
    s.queueSteps ++ s.upkeepSteps ++ s.commandSteps ++ s.creditSteps ++ s.packetSteps ++ s.resultSteps ++ s.taskSteps ++ s.netSteps
      ++ s.exchSteps ++ s.invSteps ++ s.hostSteps

end Sys2Proof.Machine
end

