-- ==== Sys2Proof/Machine/Cycle.lean ====
section
/-! DEFINITION. One cycle of a core: fetch (R9, R292), decode and mode checks (R19), the bundle and its stalls (R203), and
what comes before it in the cycle; the turn of the cores; and one step of the package. -/

namespace Sys2Proof.Machine

/-! ### Fetch -/

/-- The resident overlay that holds an address of an image's text (R292). -/
def Core.overlay (c : Core) (image pc : Nat) : Option Overlay :=
  c.overlays.find? fun o => o.image = image && o.page = pc / 16384

/-- The words of the bundle at the pc; none while its overlay is not resident; XLATE past the text, or where the overlay cannot be
read (R9, R292). -/
def State.fetch (s : State) : Except Trap (Option (List Word)) :=
  let pc := s.core.th.pc.toNat
  if s.textLen ≤ pc then .error (mkTrap 8 1 s.core.th.pc)
  else
    match s.core.overlay s.core.th.task.image pc with
    | none =>
      match s.core.fillBad with
      | some f => if f.1 = s.core.th.task.image ∧ f.2.1 = pc / 16384 then .error (vaTrap 8 f.2.2.1 f.2.2.2) else .ok none
      | none => .ok none
    | some o =>
      let k := pc % 16384 / 4
      .ok (some [sget 0 o.words k, sget 0 o.words (k + 1), sget 0 o.words (k + 2), sget 0 o.words (k + 3)])

/-- The overlay just fetched from becomes the one most recently used (R292). -/
def State.usedOverlay (s : State) : State :=
  match s.core.overlay s.core.th.task.image s.core.th.pc.toNat with
  | some o => s.updCore fun c => { c with overlays := o :: c.overlays.erase o }
  | none => s

/-! ### The bundle -/

/-- The state that the slots of a bundle start from: the scratchpad and the thread before the bundle are kept. -/
def State.enter (s : State) : State :=
  s.updCore fun c => { c with env := { before := some c.spad, th0 := some c.th } }

/-- The slot being presented. -/
def State.atSlot (s : State) (o : SlotOp) : State :=
  s.updCore fun c =>
    { c with issue := .issued
             env := { c.env with slot := o.slot, ext := o.ext, sword := w32 o.word, seq := c.th.bseq * 4 + o.slot,
                                 pc := c.th.pc, rrb := c.th.csr.rrb, after := false } }

/-- Whether an operation acts as far as its guard tells (R14): while that is pending, it is taken to. -/
def State.acts (s : State) (o : SlotOp) : Bool :=
  let t := s.atSlot o
  (t.pendSrcs o.op).contains .g || !suppressedBy o.op (t.opnds o.op).g

/-- What a held bundle keeps of having been presented: the translation and the exchanges it asked for. -/
def State.keepRequests (s t : State) : State :=
  s.updCore fun c => { c with xreq := (if t.core.xreq.isSome then t.core.xreq else c.xreq), exch := t.core.exch }

/-- Whether a slot held the bundle, and the trap it raised. -/
def Res.stalled : Res → Option State
  | .next t => if t.core.issue = .stalled then some t else none
  | _ => none
def Res.trapped : Res → Option State
  | .next t => match t.core.issue with | .aborted .. => some t | _ => none
  | _ => none
def Res.stopped : Res → Bool
  | .next _ => false
  | _ => true

/-- The slot being presented, once the queued accesses of lower slots have been performed where it is a direct access that acts (R247):
one that must wait is marked to come after them. -/
def State.atSlotAfter (s : State) (o : SlotOp) : State :=
  if isDirect o.op && s.acts o then
    let d := s.drainQ s.core.num s.core.th.tid s.core.drainFuel
    (d.2.atSlot o).updCore fun c => { c with env := { c.env with after := !d.1 } }
  else s.atSlot o

/-- Presents the slots one after the other. What waits at its home is evaluated after the stores of a slot, before those of the next
(R137, R139). -/
def State.chain (s : State) : List SlotOp → Res
  | [] => .next s
  | o :: l =>
    match exec o.op (s.atSlotAfter o) with
    | .next t =>
      match t.core.issue, l with
      | .stalled, _ | .aborted .., _ | _, [] => .next t
      | _, _ => (t.wakeAll t.wakeFuel).chain l
    | r => r

/-- A control transfer acts after the other slots of its bundle. -/
def ctlLast (l : List SlotOp) : List SlotOp :=
  (l.filter fun o => !(shape o.op).ctl) ++ l.filter fun o => (shape o.op).ctl

/-- Leaves the bundle: the pc moves on unless it was set; the task is counted with its first bundle (R281). -/
def State.leave (s t : State) : State :=
  let t1 := t.updCore fun c => { c with env := {}, xreq := none, xans := [] }
  if t.core.th.tid = s.core.th.tid then
    let t2 := t1.updTh fun h =>
      { h with pc := if t.core.issue = .jumped then h.pc else h.pc + 16, bseq := h.bseq + 1, begun := true, scaleV := s.core.th.scale }
    if s.core.th.begun then t2
    else t2.updLaunch s.core.th.task.part s.core.th.task.slot fun l => { l with tasks := l.tasks + 1 }
  else t1

/-- Whether an operation that acts reads a captured result that an error has struck (R361). -/
def State.readsBadResult (s : State) (o : SlotOp) : Bool :=
  let t := s.atSlot o
  match o.op with
  | .snapr _ _ _ b =>
    let p := t.opnds o.op
    match t.snapOf b p.xb with
    | .ok h => t.pendSrcs o.op = [] && h.badWord p.xa.toNat
    | .error _ => false
  | _ => false

/-- Whether a bundle reads a poisoned register or captured result (R361). A suppressed operation reads its guard only (R14). -/
def State.readsPoison (s : State) (ops : List SlotOp) : Bool :=
  ops.any fun o =>
    (srcRegs s.core.th.csr.rrb o.op).any (fun r => s.core.th.rpoison.contains r.2 && (r.1 = .g || s.acts o))
      || s.acts o && s.readsBadResult o

/-- Presents a decoded bundle (R19 step 5, R203). Each slot is presented on its own first: a slot that must wait holds
the bundle, which then has read nothing; otherwise a read of a poisoned register ends the task (R361), or the
lowest slot that traps decides, and the bundle has no effect.
Then the slots act in order, the control transfer last. -/
def State.runBundle (s : State) (ops : List SlotOp) : Res :=
  let alone := ops.map fun o => exec o.op (s.enter.atSlot o)
  match alone.find? Res.stopped with
  | some r => r
  | none =>
    match alone.filterMap Res.stalled with
    | t :: l => .next ((t :: l).foldl State.keepRequests s)
    | [] =>
      if s.readsPoison ops then .next ((s.endFaulted 0x0A0A s.core.th.pc.toNat 0).updCore fun c => { c with env := {} }) else
      match alone.filterMap Res.trapped with
      | t :: _ => .next (t.updCore fun c => { c with env := {} })
      | [] =>
        match s.enter.chain (ctlLast ops) with
        | .next t =>
          match t.core.issue with
          | .stalled => .next (s.keepRequests t)
          | .aborted c b v f => .next (s.trapNow { cause := c, sub := b, val := v, fva := f })
          | _ => .next (s.leave t)
        | r => r

/-- The PRIV trap of a bundle (R19 step 4): END first, then the lowest slot. -/
def State.modeTrap (s : State) (b : Bundle) : Option Trap :=
  match b.ops.find? (fun o => forbiddenIn s.core.th.mode o.op) with
  | some o => some (match o.op with
    | .endB _ => mkTrap 4 0xFF 0
    | _ => mkTrap 4 o.slot (w32 o.word))
  | none => none

/-- Presents the bundle at the pc. A bundle of NOPs presents one of them. A direct access comes after the queued accesses
issued before it (R247), and a bundle whose task may not move while its partition rebases waits (R250). -/
def State.presentBundle (s : State) : Res :=
  match s.fetch with
  | .error t => .next (s.trapNow t)
  | .ok none => .next s
  | .ok (some ws) =>
    match decodeBundle (lget 0 ws 0).toNat (lget 0 ws 1).toNat (lget 0 ws 2).toNat (lget 0 ws 3).toNat with
    | .error d => .next (s.trapNow (mkTrap d.cause d.sub (w32 d.val)))
    | .ok b =>
      match s.modeTrap b with
      | some t => .next (s.trapNow t)
      | none =>
        let d := if b.ops.any fun o => isDirect o.op && s.enter.acts o then s.usedOverlay.drainQ s.core.num s.core.th.tid s.core.drainFuel
          else (true, s.usedOverlay)
        if !d.1 then .next d.2
        else d.2.runBundle (if b.ops = [] then [{ slot := 0, ext := 0, word := 0, op := .nop }] else b.ops)

/-! ### The cycle -/

/-- What the core does in its cycle once its results have landed and its slips have been served (R203): a branch bubble or a
restart passes, an arrival is made again, or the bundle is presented. An arrival that a handler has asked for by GW of the snapshot is
made whether or not the task is a member of the group (DESIGN CHOICE, log entry 124). -/
def State.issueCycle (s : State) : Res :=
  let t := s.core.th
  if 0 < t.bubble then .next (s.updTh fun t => { t with bubble := t.bubble - 1 })
  else if s.pkg.time < t.restartAt then .next s
  else
    match t.waitG with
    | none => s.presentBundle
    | some g =>
      if t.arrived then .next s
      else
        let s1 := s.arrive g
        if s1.core.th.waitG.isNone then s1.presentBundle else .next s1

/-- ESTAT.HOLD runs out (R89). -/
def State.holdOut (s : State) : State :=
  if s.core.holdDue then s.updTh fun t => { t with csr := { t.csr with estat := t.csr.estat &&& 1 } } else s

/-- A fault that a slip entry found in its service is delivered at this cycle (R215, R368): the stop lies before the cycle, so
that of all its services only the end of that entry, the last one served in `s2`, stands. -/
def State.slipFault (s s2 : State) : State :=
  s.updTh fun t =>
    { t with slips := t.slips.filter (·.seq ≠ s2.core.env.seq), recs := s2.core.th.recs, pendF := s2.core.th.pendF, lost := s2.core.th.lost }

/-- The cycle of a core that runs a task (R203, R213). A stop at this cycle, by a pending fault, by the end of the allowance
or by a trap of the bundle, lies before it: what would land in it has not landed, and no slip has been served. -/
def State.runCycle (s : State) : Res :=
  if s.core.faultDue then .next s.deliver
  else if s.core.spentDue then .next s.spend
  else
    match s.land.slips with
    | .next s2 =>
      if s2.core.phase ≠ .run then .next s2
      else if s2.core.faultDue then .next (s.slipFault s2).deliver
      else
        match (s2.mark .issued).issueCycle with
        | .next s3 =>
          match s3.core.issue with
          | .aborted c b v f => .next (s.trapNow { cause := c, sub := b, val := v, fva := f })
          | _ => .next s3
        | r => r
    | r => r

/-- One cycle of the core whose turn it is. A cycle in which its partition pauses counts against the allowance of a task that holds it
(R250, R275). -/
def State.coreCycle (s : State) : Res :=
  if s.paused s.core.num || s.pkg.held then .next (s.updCore Core.spendCycle) else
  let s1 := (s.updCore Core.tick).holdOut
  match s.core.phase with
  | .run =>
    match s1.runCycle with
    | .next s2 => .next (s2.updCore Core.spendCycle)
    | r => r
  | .ending => s1.land.slips
  | _ => .next s

/-! ### The package -/

/-- A cycle of the chip counter (R102), of which at most one in 4,096 is omitted or repeated to follow the pod's time (R313); the watchdog of a context counts while its launch holds the rota (R290). -/
def Package.tick (k : Package) : Package :=
  let wd := fun (q : Partition) =>
    if q.rebasing then q
    else
      { q with ctxs := q.launches.foldl (fun m l =>
        if q.gang = l.word 2 / 65536 then sset {} m l.slot { sget {} m l.slot with wdog := (sget {} m l.slot).wdog + 1 } else m) q.ctxs }
  let fix := k.corr ≠ 0 ∧ k.corrAt + 4096 ≤ k.time
  let step : Int := if fix then (if 0 < k.corr then 1 else -1) else 0
  { k with time := (k.time + 1 + step).toNat, corr := k.corr - step, corrAt := if fix then k.time else k.corrAt
           parts := k.parts.map fun e => (e.1, wd e.2) }

/-- The turn passes to the next core; after the last one a new cycle begins. -/
def State.advance (s : State) : State :=
  match s.todo with
  | c :: l => { s with core := c, todo := l, done := s.done ++ [s.core], turned := false }
  | [] =>
    match s.done with
    | [] => { s with pkg := s.pkg.tick, turned := false }
    | c :: l => { s with core := c, todo := l ++ [s.core], done := [], pkg := s.pkg.tick, turned := false }

/-- The cycle of the core whose turn it is, or the passing of the turn. -/
def State.turn (s : State) : Res :=
  if s.turned then .next s.advance
  else
    match s.coreCycle with
    | .next t => .next { t with turned := true }
    | r => r

/-- The steps that act on a package held in reset: a reset, and what reaches the management endpoint (R365, R367). -/
def inReset : Instr → Bool
  | .packageReset | .attest | .rdmaWrite => true
  | _ => false

/-- One step of the package: a step asked for from outside, a step that is due, a free step where one is picked, or the
turn of the cores. -/
def State.oneStep (s : State) : Res :=
  match s.agenda with
  | (i, e) :: l => if s.pkg.held && !inReset i then .next { s with agenda := l } else exec i { s with agenda := l, ev := e }
  | [] =>
    match s.dueStep with
    | some (i, e) => exec i { s with ev := e }
    | none =>
      match s.freeSteps with
      | [] => s.turn
      | l =>
        let s1 := { s with choice := s.choice + 1 }
        match l[Config.pick s.choice (l.length + 1) % (l.length + 1)]? with
        | some (i, e) => exec i { s1 with ev := e }
        | none => s1.turn

/-! ### Placing an instruction -/

/-- The task that stands for a loaded program: every region granted, the image numbered 0. -/
def placedTask : Task := { spad := 16, accr := 24, hold := 64, serial := 0 }

/-- The image that stands for a loaded program: 16 KiB of text. -/
def placedImage : Image :=
  { id := 0, valid := true, slots := 1, textVa := 0, textLen := 16384, dataVa := 0, dataLen := 0, textHash := 0,
    dataHash := 0, calendar := [], channels := [], scales := [] }

/-- A task on the core whose turn it is: its own where it runs one, otherwise the placed one in its start state (R274). -/
def State.withTask (s : State) : State :=
  if s.core.phase = .run then s
  else
    ((s.updCore fun c => { c with phase := .run, th := { tid := 1, core := c.num, task := placedTask } }).updPart 0 fun q =>
      { q with images := placedImage :: q.images }).putEntry 0 placedImage

/-- The overlay that holds the pc, with a bundle put at it: the given word in slot 0, NOPs in the others. -/
def Core.putBundle (c : Core) (w : Word) : Core :=
  let pc := c.th.pc.toNat
  let k := pc % 16384 / 4
  let o := (c.overlay c.th.task.image pc).getD { image := c.th.task.image, page := pc / 16384, words := [] }
  let ws := sset 0 (sset 0 (sset 0 (sset 0 o.words k w) (k + 1) 0) (k + 2) 0) (k + 3) 0
  { c with overlays := { o with words := ws } :: c.overlays.filter fun x => !(x.image = o.image && x.page = o.page) }

/-- Nothing stands before the bundle at the pc: no reset, no step asked for, no bubble, no wait, no pending fault. -/
def State.ready (s : State) : State :=
  { ((s.updTh fun t => { t with bubble := 0, restartAt := 0, waitG := none, pendF := [], frozen := 0, slips := [] }).updPkg fun k =>
      { k with held := false }) with
    agenda := [], turned := false }

end Sys2Proof.Machine
end

