-- ==== Sys2Proof/Machine/Step.lean ====
section
/-! DEFINITION. The step of the machine, and a state whose next step runs a given instruction. -/

namespace Sys2Proof.Machine

/-- One step of the package (R203, and the steps of the device). -/
def step (s : State) : Host.Outcome State Fault Refusal := s.oneStep

/-- The state with an instruction where the core whose turn it is fetches its next bundle (log entry 10): slot 0 of the
bundle holds it, the other slots hold NOPs. -/
def State.withFetchWord (s : State) (nbits w : Nat) : State :=
  s.withTask.ready.updCore fun c => c.putBundle (w32 (w % 2 ^ nbits))

end Sys2Proof.Machine
end

