-- ==== Sys2Proof/Safety.lean ====
section
/-! DEFINITION. What counts as a safe run, and the conditions on a slot that statements use: that nothing keeps its
operation from acting, and what it then acts on. -/

namespace Sys2Proof

/-- A step that goes on: it ends in no fault and in no refusal. -/
def goesOn (s : Machine.State) : Prop := ∃ t, Machine.step s = .next t

namespace Machine

/-- Nothing keeps an operation presented at issue from acting: the mode allows it (R217), its guard does not suppress it
(R14), its link ports are bound, in their role, and neither empty nor full (R25, R190, R203, R286), a held message finds its entry (R192), no register it
names is pending (R206), no earlier operation of its class waits (R208), its result holders are free (R210), and no queued access of its own bundle
comes before a direct one (R247). -/
def clearToAct (i : Instr) (s : State) : Bool :=
  s.core.env.served.isNone && !forbiddenIn s.core.th.mode i && !suppressedBy i (s.opnds i).g && (s.portTrap i).isNone
    && !s.portStall i && (s.pendSrcs i).isEmpty && (s.pushHold i (s.opnds i)).isNone && !s.pendDest i && !s.olderHeld i
    && s.core.th.holdersFree i && !s.core.env.after

/-- The operation acts with operands `o`, and its effect starts from `t`: at issue with its sources as read and its ports
popped (R25, R204), or at the service of its slip entry with the sources captured and, for a push of a foldable task, a hold entry (R192, R207, R208).
It touches no scratchpad bank. -/
def Acts (i : Instr) (s : State) (o : Opnds) (t : State) : Prop :=
  (clearToAct i s = true ∧ o = s.opnds i ∧ t = (s.pop i).mark .issued)
    ∨ (s.core.env.served = some o ∧ suppressedBy i o.g = false ∧ s.pushHold i o = none ∧ t = s.mark .issued)

/-- The words of a direct access are served in this cycle (R126), and the state in which their banks have served them. -/
def banksServe (s : State) (ws : List (Nat × Nat)) : Prop := planEnd (bankPlan s.core.banks ws).1 = 0
def State.claimBanks (s : State) (ws : List (Nat × Nat)) : State :=
  s.updCore fun c => { c with banks := (bankPlan s.core.banks ws).2 }

/-- As `Acts`, for an operation that touches the scratchpad words `ws`, by lane and address, all of which its banks serve in
this cycle (R126), or whose bank service is over. -/
def ActsOn (i : Instr) (s : State) (ws : List (Nat × Nat)) (o : Opnds) (t : State) : Prop :=
  (clearToAct i s = true ∧ o = s.opnds i ∧ banksServe s ws ∧ t = ((s.claimBanks ws).pop i).mark .issued)
    ∨ (s.core.env.served = some o ∧ suppressedBy i o.g = false ∧ s.pushHold i o = none ∧
        ((s.core.env.banked = true ∧ t = s.mark .issued)
          ∨ (s.core.env.banked = false ∧ banksServe s ws ∧ t = (s.claimBanks ws).mark .issued)))

/-- Wherever the operation acts, `exec` answers the state that `f` gives for its operands and the state its effect starts from. -/
def Gives (i : Instr) (f : Opnds → State → State) : Prop := ∀ s o t, Acts i s o t → exec i s = .next (f o t)

/-- As `Gives`, where a condition on the operands and the state before the operation holds. -/
def GivesIf (i : Instr) (c : Opnds → State → Prop) (f : Opnds → State → State) : Prop :=
  ∀ s o t, Acts i s o t → c o s → exec i s = .next (f o t)

/-- Wherever the operation acts, its one effect is a scalar result of latency 2 for `d` with the word that it samples: `w` of the state
at its issue, and for an operation served from its slip entry the word it took then (R87, R98, R102, R207). -/
def GivesSample (i : Instr) (d : Nat) (w : State → Word) : Prop :=
  ∀ s o t, Acts i s o t → exec i s = .next (t.putX 2 d (if s.core.env.served.isSome then s.core.env.early.val else w t))

/-- The operation's effect is a vector result of latency `lat` for `d` under the guard, with the lanes `f` and the flags of its
active lanes (R45, R106). -/
def GivesLanes (i : Instr) (lat d : Nat) (f : Opnds → State → Nat → Word × Flags) : Prop :=
  ∀ s o t, Acts i s o t → ∃ v, (∀ k, k < 64 → lane v k = (f o t k).1)
    ∧ exec i s = .next (t.putV lat d v (laneMask o.g) (laneFlags o.g ((List.range 64).map (f o t))))

/-- The operation's effect is a predicate result of latency 2 for `d`, merged under the guard, with the bits `f` and the flags of
its active lanes (R106). -/
def GivesBits (i : Instr) (d : Nat) (f : Opnds → Nat → Bool × Flags) : Prop :=
  ∀ s o t, Acts i s o t → ∃ p : PReg, (∀ k, k < 64 → p.getLsbD k = (f o k).1)
    ∧ exec i s = .next (t.putP 2 d p o.g (laneFlags o.g ((List.range 64).map fun k => (0, (f o k).2))))

/-- The order of exact values: less than, with the two zeros equal and a NaN in no relation (R112). -/
def numLt : Num → Num → Bool
  | .inf s, .inf t => s && !t
  | .inf s, .fin .. => s
  | .fin .., .inf t => !t
  | .fin s p q, .fin t u v => sInt s (p * v) < sInt t (u * q)
  | _, _ => false

/-- The canonical NaN where `x` is a NaN, with NV where it is signalling, and otherwise a word without a flag (R40). -/
def nanOr (x : Num) (w : Word) : Word × Flags := if x.isNan then (0x7FC00000, flagIf x.isSig fNV) else (w, 0)

/-- A target of a control transfer that does not trap: aligned, and inside the text of the task's image (R9, R82). -/
def inText (s : State) (x : Word) : Prop := x.toNat % 16 = 0 ∧ x.toNat < s.textLen

/-- A direct access of `n` bytes at `x` passes its checks: aligned, in the scratchpad, in the grant (R125, R275), in a region that its
task may touch at once (R348). -/
def reaches (s : State) (x : Word) (n : Nat) : Prop :=
  x.toNat % n = 0 ∧ x.toNat < 0x100000 ∧ x.toNat + n ≤ s.core.th.task.spad * 65536
    ∧ s.owns s.core (x.toNat / 65536) s.core.th.task.part s.core.th.task.slot s.core.th.tid = true

/-- No write in the swizzled view of the word at `a` is still to be ordered before the core's linear accesses (R257). -/
def joined (s : State) (a : Nat) : Prop := unseen (sget [] s.core.swzOld (a / 4)) s.core.num = []

/-- The state after a load of the word at `a` by the running task: its region tagged (R348), its timestamps taken (R248). -/
def State.readAt (s : State) (a : Nat) : State := (s.touched (a / 65536)).dirLoadStamp a

/-- The state after `n` accesses of the running task performed at their home: the watchdog of its context has restarted (R290). -/
def State.sunk (t : State) : Nat → State
  | 0 => t
  | n + 1 => (t.sunk n).sink t.core.th.task.part t.core.th.task.slot

/-- `u` is `t` but for the scratchpad bytes in `w`, the timestamps, region tags, what the linear view notes, and the watchdog of the
running context (R248, R257, R290, R348). -/
def StoresOnly (t u : State) (w : Nat → Prop) : Prop :=
  (∀ b, ¬ w b → sget 0 u.core.spad.mem b = sget 0 t.core.spad.mem b)
    ∧ ∃ n, u = { t.sunk n with core := { t.core with
        owner := u.core.owner, linOld := u.core.linOld
        th := { t.core.th with csr := { t.core.th.csr with pts := u.core.th.csr.pts } }
        spad := { t.core.spad with mem := u.core.spad.mem, rts := u.core.spad.rts, wts := u.core.spad.wts } } }

/-- `u` is `t` with the full bits `f` of the words of some addresses. -/
def State.withFull (t : State) (f : Sparse Bool) : State :=
  t.updCore fun c => { c with spad := { c.spad with fe := f } }

/-- The place of a queued operation's access: that of the translation made at its issue, where its checks have been made, or else as
its VA translates now (R132, R368). -/
def placeIs (s : State) (va : Nat) (p : Place) : Prop :=
  (s.core.env.checked = true ∧ s.keptPlace = some p) ∨ (s.keptPlace = none ∧ s.locate va = .found p)

/-- lq and its counter have room, counting the places that the pops of this bundle free from the next cycle on (R134, R211). -/
def lqRoom (s : State) : Prop := s.thBefore.lq.length + s.core.th.lqPend.length < 32 ∧ s.core.th.ql < 32

/-- The access that a queued operation puts on its way (R134). -/
def State.qacc (t : State) (i : Instr) (va : Nat) (p : Place) (o : Opnds) (b : Word) (bs : List Nat) : QAcc :=
  { tid := t.core.th.tid, task := t.core.th.task, id := t.core.th.qid, instr := i, va, place := p, b, c := o.xd, g := o.g, v := o.vd
    blocks := bs, slot := t.core.env.slot, sword := t.core.env.sword, baddr := t.core.env.pc, xa := o.xa, xb := o.xb
    hdl := decide (t.core.th.mode = .handler) }

/-- A queued operation on its way: its access joins the queue of the core, the task's count of queued operations rises, and it
reserves the entries `l` of lq and `v` of vq (R133, R134). -/
def State.queued (t : State) (q : QAcc) (l : List QRes) (v : List VRes) : State :=
  t.updCore fun c =>
    { c with qacc := c.qacc ++ [q]
             th := { c.th with qid := c.th.qid + 1, lqPend := c.th.lqPend ++ l, vqPend := c.th.vqPend ++ v } }

/-- The VA that a queued operation names: the pair X(A), X(A+1) with its offset, modulo 2^48 (R131). -/
def queuedVa (o : Opnds) (off : Int) : Nat := ((((o.xa.toNat + o.xa1.toNat % 65536 * 2 ^ 32 : Nat) : Int) + off) % (2 ^ 48 : Int)).toNat

/-- No result and no slip entry of an earlier bundle of the handler is left (R219). -/
def handlerDone (s : State) : Prop :=
  (∀ l ∈ s.core.th.inflight, s.core.env.seq / 4 ≤ l.seq / 4) ∧ ∀ e ∈ s.core.th.slips, s.core.env.seq / 4 ≤ e.seq / 4

/-- A slot presented in a bundle neither held it nor aborted it. -/
def Issue.goesOn : Issue → Bool
  | .stalled | .aborted .. => false
  | _ => true

/-- The slots a bundle presents: a bundle of NOPs presents one of them. -/
def slotsOf (b : Bundle) : List SlotOp := if b.ops = [] then [{ slot := 0, ext := 0, word := 0, op := .nop }] else b.ops

/-- The next step of `s` is the cycle of the core whose turn it is, which runs a task and presents its next bundle, in `u`:
no step is asked for, due or free, nothing is delivered or spent, and once the results due have landed and the slips have been
served the task runs on, past every bubble and wait (R203). -/
def PresentsIn (s u : State) : Prop :=
  s.agenda = [] ∧ s.dueStep = none ∧ s.freeSteps = [] ∧ s.turned = false ∧ s.paused s.core.num = false ∧ s.pkg.held = false
    ∧ s.core.phase = .run ∧ ((s.updCore Core.tick).holdOut).core.faultDue = false
    ∧ ((s.updCore Core.tick).holdOut).core.spentDue = false
    ∧ ∃ t, ((s.updCore Core.tick).holdOut).land.slips = .next t ∧ t.core.phase = .run ∧ t.core.faultDue = false
      ∧ u = t.mark .issued ∧ u.core.th.bubble = 0 ∧ u.core.th.restartAt ≤ u.pkg.time ∧ u.core.th.waitG = none

/-- The machine with the core that a step is for as the core whose turn it is, and `r` with the turn given back. -/
def State.at_ (s : State) : State := s.swapCore s.ev.c
def State.giveBack (s r : State) : State := if s.core.num = s.ev.c then r else r.swapCore s.core.num

/-- The operations whose one effect is to put results in flight. -/
def registerOp : Instr → Bool
  | .add .. | .sub .. | .and .. | .or .. | .xor .. | .andn .. | .shl .. | .shr .. | .sar .. | .rotr .. | .slt .. | .sltu .. | .seq ..
  | .sne .. | .min .. | .max .. | .minu .. | .maxu .. | .mul .. | .mulh .. | .mulhu .. | .div .. | .divu .. | .rem .. | .remu ..
  | .clz .. | .ctz .. | .popc .. | .sel .. | .bfx .. | .bfi .. | .addi .. | .andi .. | .ori .. | .xori .. | .shli .. | .shri ..
  | .sari .. | .slti .. | .sltui .. | .seqi .. | .mini .. | .maxi .. | .muli .. | .li .. | .lhi .. | .lpc .. | .loops ..
  | .csrr .. | .csrw .. | .csrs .. | .csrc .. | .tdom .. | .tbud .. | .tlook .. | .pand .. | .por .. | .pxor .. | .pandn ..
  | .pnez .. | .pget .. | .pput .. | .pcnt .. | .pfirst .. | .vaddF .. | .vsubF .. | .vmulF .. | .vfmaF .. | .vfmsF .. | .vfnmaF ..
  | .vminF .. | .vmaxF .. | .vabsF .. | .vnegF .. | .vdivF .. | .vsqrtF .. | .vrsqrtF .. | .vrcpF .. | .vexp2F .. | .vlog2F ..
  | .vfeq .. | .vfne .. | .vflt .. | .vfle .. | .vfun .. | .vsel .. | .vsumF .. | .vmaxrF .. | .vminrF .. | .vroundF .. | .vtruncF ..
  | .vaddI .. | .vsubI .. | .vmulI .. | .vmulhI .. | .vand .. | .vor .. | .vxor .. | .vshl .. | .vshr .. | .vsar .. | .vminI ..
  | .vmaxI .. | .vminuI .. | .vmaxuI .. | .vieq .. | .vilt .. | .viltu .. | .vsumI .. | .vbcast .. | .vgetl .. | .vsetl .. | .vperm ..
  | .vrot .. | .vid .. | .vcvtFi .. | .vcvtIf .. | .vtruncI .. | .vpackBf .. | .vpackH .. | .vpackD8 .. | .vpackI8 .. | .vunpkBf ..
  | .vunpkH .. | .vunpkD8 .. | .vunpkI8 .. | .vprn24 .. | .vprn48 .. | .vsdot .. | .vexpd .. | .vdot4I8 .. | .vdot2Bf .. => true
  | _ => false

/-! ### The canonical form -/

/-- Every map of a store is in its canonical form. -/
def Store.canonical (t : Store) : Prop :=
  t.mem.wf = true ∧ swf false t.fe = true ∧ swf 0 t.desc = true ∧ swf 0 t.wts = true ∧ swf 0 t.rts = true ∧ swf false t.poison = true

/-- Every register file of a thread is in its canonical form. -/
def Thread.canonical (t : Thread) : Prop := swf 0 t.x = true ∧ swf 0 t.p = true ∧ swf 0 t.v = true

/-- The scratchpad, the register files, the accumulator tiles, the slabs, the owner tags and the marks of the two views of a core are in
their canonical form. -/
def Core.canonical (c : Core) : Prop :=
  c.spad.canonical ∧ c.th.canonical ∧ swf 0 c.acc = true ∧ swf zeroBlock c.wb = true ∧ swf Owner.none c.owner = true
    ∧ swf [] c.linOld = true ∧ swf [] c.swzOld = true

/-- Every memory and map that statements read through is in its canonical form: HBM and the task save areas, the partitions with
the timestamps of their fabric, the parked tasks, and every listed core. -/
def State.canonical (s : State) : Prop :=
  s.pkg.hbm.canonical ∧ s.pkg.taskSave.mem.wf = true
    ∧ swf {} s.pkg.parts = true ∧ (∀ e ∈ s.pkg.parts, swf 0 e.2.fts = true)
    ∧ (∀ t ∈ s.pkg.parked, t.canonical) ∧ ∀ c ∈ s.allCores, c.canonical

end Machine

end Sys2Proof
end

