-- ==== Sys2Proof/Certificates/Slice0/Obligations.lean ====
section
/-! DEFINITION. The statements about the machine, for the provers. -/

open Sys2Proof Sys2Proof.Machine

/-- Each XA operation of R75's table but the divisions and the field operations: wherever it acts, exec answers the state with
its result for X(D), with the value and the latency of the table, in flight; its scalar sources are the operands of the fields
A and B. -/
def Obligations.ScalarArithmeticResults : Prop := ∀ g d a b : Nat,
  Gives (.add g d a b) (fun o t => t.putX 1 d (o.xa + o.xb))
  ∧ Gives (.sub g d a b) (fun o t => t.putX 1 d (o.xa - o.xb))
  ∧ Gives (.and g d a b) (fun o t => t.putX 1 d (o.xa &&& o.xb))
  ∧ Gives (.or g d a b) (fun o t => t.putX 1 d (o.xa ||| o.xb))
  ∧ Gives (.xor g d a b) (fun o t => t.putX 1 d (o.xa ^^^ o.xb))
  ∧ Gives (.andn g d a b) (fun o t => t.putX 1 d (o.xa &&& ~~~o.xb))
  ∧ Gives (.shl g d a b) (fun o t => t.putX 1 d (o.xa <<< (o.xb.toNat % 32)))
  ∧ Gives (.shr g d a b) (fun o t => t.putX 1 d (o.xa >>> (o.xb.toNat % 32)))
  ∧ Gives (.sar g d a b) (fun o t => t.putX 1 d (o.xa.sshiftRight (o.xb.toNat % 32)))
  ∧ Gives (.rotr g d a b) (fun o t => t.putX 1 d (o.xa.rotateRight (o.xb.toNat % 32)))
  ∧ Gives (.slt g d a b) (fun o t => t.putX 1 d (if o.xa.toInt < o.xb.toInt then 1 else 0))
  ∧ Gives (.sltu g d a b) (fun o t => t.putX 1 d (if o.xa.toNat < o.xb.toNat then 1 else 0))
  ∧ Gives (.seq g d a b) (fun o t => t.putX 1 d (if o.xa = o.xb then 1 else 0))
  ∧ Gives (.sne g d a b) (fun o t => t.putX 1 d (if o.xa = o.xb then 0 else 1))
  ∧ Gives (.min g d a b) (fun o t => t.putX 1 d (if o.xb.toInt < o.xa.toInt then o.xb else o.xa))
  ∧ Gives (.max g d a b) (fun o t => t.putX 1 d (if o.xa.toInt < o.xb.toInt then o.xb else o.xa))
  ∧ Gives (.minu g d a b) (fun o t => t.putX 1 d (if o.xb.toNat < o.xa.toNat then o.xb else o.xa))
  ∧ Gives (.maxu g d a b) (fun o t => t.putX 1 d (if o.xa.toNat < o.xb.toNat then o.xb else o.xa))
  ∧ Gives (.mul g d a b) (fun o t => t.putX 3 d (o.xa * o.xb))
  ∧ Gives (.mulh g d a b) (fun o t => t.putX 3 d (((o.xa.signExtend 64 * o.xb.signExtend 64) >>> 32).truncate 32))
  ∧ Gives (.mulhu g d a b) (fun o t => t.putX 3 d (((o.xa.zeroExtend 64 * o.xb.zeroExtend 64) >>> 32).truncate 32))
  ∧ Gives (.clz g d a) (fun o t => t.putX 1 d (BitVec.ofNat 32 (((List.range 32).find? o.xa.getMsbD).getD 32)))
  ∧ Gives (.ctz g d a) (fun o t => t.putX 1 d (BitVec.ofNat 32 (((List.range 32).find? o.xa.getLsbD).getD 32)))
  ∧ Gives (.popc g d a) (fun o t => t.putX 1 d (BitVec.ofNat 32 ((List.range 32).countP o.xa.getLsbD)))
  ∧ Gives (.sel g d a b) (fun o t => t.putX 1 d (if o.g.getLsbD 0 then o.xa else o.xb))

/-- The divisions of R76, on all operands: by zero the quotient is all ones and the remainder the dividend; the one signed
overflow gives 0x80000000 and 0; elsewhere the quotient is truncated toward zero and the remainder is the dividend less
quotient times divisor. Each result lands twelve cycles after the issue, and no division traps. -/
def Obligations.DivisionResults : Prop := ∀ g d a b : Nat,
  Gives (.div g d a b) (fun o t => t.putX 12 d
    (if o.xb = 0 then 0xFFFFFFFF else if o.xa = 0x80000000 ∧ o.xb = 0xFFFFFFFF then 0x80000000
     else BitVec.ofInt 32 (o.xa.toInt.tdiv o.xb.toInt)))
  ∧ Gives (.divu g d a b) (fun o t => t.putX 12 d
    (if o.xb = 0 then 0xFFFFFFFF else BitVec.ofNat 32 (o.xa.toNat / o.xb.toNat)))
  ∧ Gives (.rem g d a b) (fun o t => t.putX 12 d
    (if o.xb = 0 then o.xa else if o.xa = 0x80000000 ∧ o.xb = 0xFFFFFFFF then 0
     else BitVec.ofInt 32 (o.xa.toInt - o.xa.toInt.tdiv o.xb.toInt * o.xb.toInt)))
  ∧ Gives (.remu g d a b) (fun o t => t.putX 12 d
    (if o.xb = 0 then o.xa else BitVec.ofNat 32 (o.xa.toNat - o.xa.toNat / o.xb.toNat * o.xb.toNat)))

/-- bfx and bfi bit by bit (R77): with pos = X(B)[4:0] and eff = min(X(B)[13:8], 32 − pos), bit i of the result of bfx is bit
pos + i of X(A) below eff and 0 above; bfi replaces bits pos to pos + eff − 1 of the old X(D) by the low bits of X(A) and
keeps the others. The immediate forms (R78) act as their register forms with the sign-extended immediate, the shifts for 0 to
31; li, lhi and lpc give their constants (R79). -/
def Obligations.FieldAndImmediateResults : Prop := ∀ (g d a b i : Nat) (k : Int),
  (∀ s o t, Acts (.bfx g d a b) s o t → ∃ v : Word, exec (.bfx g d a b) s = .next (t.putX 1 d v)
    ∧ ∀ j, j < 32 → v.getLsbD j =
      (decide (j < Nat.min (bits o.xb.toNat 13 8) (32 - bits o.xb.toNat 4 0)) && o.xa.getLsbD (bits o.xb.toNat 4 0 + j)))
  ∧ (∀ s o t, Acts (.bfi g d a b) s o t → ∃ v : Word, exec (.bfi g d a b) s = .next (t.putX 1 d v)
    ∧ ∀ j, j < 32 → v.getLsbD j =
      if bits o.xb.toNat 4 0 ≤ j ∧ j < bits o.xb.toNat 4 0 + Nat.min (bits o.xb.toNat 13 8) (32 - bits o.xb.toNat 4 0)
      then o.xa.getLsbD (j - bits o.xb.toNat 4 0) else o.xd.getLsbD j)
  ∧ Gives (.addi g d a k) (fun o t => t.putX 1 d (o.xa + BitVec.ofInt 32 k))
  ∧ Gives (.andi g d a k) (fun o t => t.putX 1 d (o.xa &&& BitVec.ofInt 32 k))
  ∧ Gives (.ori g d a k) (fun o t => t.putX 1 d (o.xa ||| BitVec.ofInt 32 k))
  ∧ Gives (.xori g d a k) (fun o t => t.putX 1 d (o.xa ^^^ BitVec.ofInt 32 k))
  ∧ (i < 32 → Gives (.shli g d a i) (fun o t => t.putX 1 d (o.xa <<< i))
    ∧ Gives (.shri g d a i) (fun o t => t.putX 1 d (o.xa >>> i))
    ∧ Gives (.sari g d a i) (fun o t => t.putX 1 d (o.xa.sshiftRight i)))
  ∧ Gives (.slti g d a k) (fun o t => t.putX 1 d (if o.xa.toInt < k then 1 else 0))
  ∧ Gives (.sltui g d a k) (fun o t => t.putX 1 d (if o.xa.toNat < (BitVec.ofInt 32 k).toNat then 1 else 0))
  ∧ Gives (.seqi g d a k) (fun o t => t.putX 1 d (if o.xa = BitVec.ofInt 32 k then 1 else 0))
  ∧ Gives (.mini g d a k) (fun o t => t.putX 1 d (if (BitVec.ofInt 32 k).toInt < o.xa.toInt then BitVec.ofInt 32 k else o.xa))
  ∧ Gives (.maxi g d a k) (fun o t => t.putX 1 d (if o.xa.toInt < (BitVec.ofInt 32 k).toInt then BitVec.ofInt 32 k else o.xa))
  ∧ Gives (.muli g d a k) (fun o t => t.putX 3 d (o.xa * BitVec.ofInt 32 k))
  ∧ Gives (.li g d k) (fun _ t => t.putX 1 d (BitVec.ofInt 32 k))
  ∧ (i < 65536 → Gives (.lhi g d i) (fun o t => t.putX 1 d (BitVec.ofNat 32 (i * 65536 + o.xd.toNat % 65536))))
  ∧ Gives (.lpc g d k) (fun _ t => t.putX 1 d (t.core.env.pc + BitVec.ofInt 32 (k * 16)))

/-- The predicate operations of R101: the logical ones write all 64 bits; pnez gives all ones or all zeros by its scalar; pput
replaces one half and keeps the other; pget reads one half, pcnt counts the set bits and pfirst gives the lowest set bit or
64. A predicate lands one cycle and a scalar two cycles after the issue. -/
def Obligations.PredicateResults : Prop := ∀ g d a b h : Nat,
  Gives (.pand g d a b) (fun o t => t.putP 1 d (o.pa &&& o.pb) (-1) 0)
  ∧ Gives (.por g d a b) (fun o t => t.putP 1 d (o.pa ||| o.pb) (-1) 0)
  ∧ Gives (.pxor g d a b) (fun o t => t.putP 1 d (o.pa ^^^ o.pb) (-1) 0)
  ∧ Gives (.pandn g d a b) (fun o t => t.putP 1 d (o.pa &&& ~~~o.pb) (-1) 0)
  ∧ Gives (.pnez g d a) (fun o t => t.putP 1 d (if o.xa = 0 then 0 else -1) (-1) 0)
  ∧ (∀ s o t, Acts (.pput g d a h) s o t → ∃ v : PReg, exec (.pput g d a h) s = .next (t.putP 1 d v (-1) 0)
    ∧ ∀ j, j < 64 → v.getLsbD j = if j / 32 = min h 1 then o.xa.getLsbD (j % 32) else o.pd.getLsbD j)
  ∧ (∀ s o t, Acts (.pget g d a h) s o t → ∃ v : Word, exec (.pget g d a h) s = .next (t.putX 2 d v)
    ∧ ∀ j, j < 32 → v.getLsbD j = o.pa.getLsbD (32 * min h 1 + j))
  ∧ Gives (.pcnt g d a) (fun o t => t.putX 2 d (BitVec.ofNat 32 ((List.range 64).countP o.pa.getLsbD)))
  ∧ Gives (.pfirst g d a) (fun o t => t.putX 2 d (BitVec.ofNat 32 (((List.range 64).find? o.pa.getLsbD).getD 64)))

/-- Branches and jumps (R17, R80, R83): br is taken on a predicate of all ones and brn on all zeros, bz and bnz by their
scalar, jmp, call, jr and calr always. A taken transfer to an aligned target inside the text sets the pc to PC + OFF × 16, or
X(A) + OFF × 16, and lets two cycles pass without a bundle; call and calr put PC + 16 in flight for x1. One that is not taken
leaves the state to fall through. -/
def Obligations.BranchesTransferWhenTaken : Prop := ∀ (g a : Nat) (o : Int),
  GivesIf (.br g a o) (fun p s => p.pa = -1 ∧ inText s (s.core.th.pc + BitVec.ofInt 32 (o * 16)))
    (fun _ t => t.jump (t.core.th.pc + BitVec.ofInt 32 (o * 16)) 2)
  ∧ GivesIf (.br g a o) (fun p _ => p.pa = 0) (fun _ t => t)
  ∧ GivesIf (.brn g a o) (fun p s => p.pa = 0 ∧ inText s (s.core.th.pc + BitVec.ofInt 32 (o * 16)))
    (fun _ t => t.jump (t.core.th.pc + BitVec.ofInt 32 (o * 16)) 2)
  ∧ GivesIf (.brn g a o) (fun p _ => p.pa = -1) (fun _ t => t)
  ∧ GivesIf (.bz g a o) (fun p s => p.xa = 0 ∧ inText s (s.core.th.pc + BitVec.ofInt 32 (o * 16)))
    (fun _ t => t.jump (t.core.th.pc + BitVec.ofInt 32 (o * 16)) 2)
  ∧ GivesIf (.bz g a o) (fun p _ => p.xa ≠ 0) (fun _ t => t)
  ∧ GivesIf (.bnz g a o) (fun p s => p.xa ≠ 0 ∧ inText s (s.core.th.pc + BitVec.ofInt 32 (o * 16)))
    (fun _ t => t.jump (t.core.th.pc + BitVec.ofInt 32 (o * 16)) 2)
  ∧ GivesIf (.bnz g a o) (fun p _ => p.xa = 0) (fun _ t => t)
  ∧ GivesIf (.jmp g o) (fun _ s => inText s (s.core.th.pc + BitVec.ofInt 32 (o * 16)))
    (fun _ t => t.jump (t.core.th.pc + BitVec.ofInt 32 (o * 16)) 2)
  ∧ GivesIf (.call g o) (fun _ s => inText s (s.core.th.pc + BitVec.ofInt 32 (o * 16)))
    (fun _ t => (t.putX 1 1 (t.core.th.pc + 16)).jump (t.core.th.pc + BitVec.ofInt 32 (o * 16)) 2)
  ∧ GivesIf (.jr g a o) (fun p s => inText s (p.xa + BitVec.ofInt 32 (o * 16)))
    (fun p t => t.jump (p.xa + BitVec.ofInt 32 (o * 16)) 2)
  ∧ GivesIf (.calr g a o) (fun p s => inText s (p.xa + BitVec.ofInt 32 (o * 16)))
    (fun p t => (t.putX 1 1 (t.core.th.pc + 16)).jump (p.xa + BitVec.ofInt 32 (o * 16)) 2)
  ∧ ∀ (t : State) (x : Word) (n : Nat),
    t.jump x n = { t with core := { t.core with th := { t.core.th with pc := x, bubble := n }, issue := .jumped } }

/-- Where a branch is presented at issue with nothing else in its way (R81, R82): br and brn of a predicate that is neither
all ones nor all zeros trap NONUNIFORM with the predicate number and P(A)[31:0]; a taken jr or calr to a target whose bits 3
to 0 are not zero traps ALIGN, and one at or beyond the end of the text traps XLATE with subcause 1, each with the target in
EVAL; so does a taken br, brn, bz, bnz, jmp, call or brlc whose target is beyond the text. -/
def Obligations.TransfersTrapOnBadTargets : Prop := ∀ (g a : Nat) (o : Int) (s : State),
  (clearToAct (.br g a o) s = true → (s.opnds (.br g a o)).pa ≠ 0 → (s.opnds (.br g a o)).pa ≠ -1 →
    exec (.br g a o) s = .next (s.trapNow (mkTrap 5 a ((s.opnds (.br g a o)).pa.truncate 32))))
  ∧ (clearToAct (.brn g a o) s = true → (s.opnds (.brn g a o)).pa ≠ 0 → (s.opnds (.brn g a o)).pa ≠ -1 →
    exec (.brn g a o) s = .next (s.trapNow (mkTrap 5 a ((s.opnds (.brn g a o)).pa.truncate 32))))
  ∧ (clearToAct (.jr g a o) s = true → ∀ x, x = (s.opnds (.jr g a o)).xa + BitVec.ofInt 32 (o * 16) →
    (x.toNat % 16 ≠ 0 → exec (.jr g a o) s = .next (s.trapNow (mkTrap 7 0 x)))
    ∧ (x.toNat % 16 = 0 → s.textLen ≤ x.toNat → exec (.jr g a o) s = .next (s.trapNow (mkTrap 8 1 x))))
  ∧ (clearToAct (.calr g a o) s = true → ∀ x, x = (s.opnds (.calr g a o)).xa + BitVec.ofInt 32 (o * 16) →
    (x.toNat % 16 ≠ 0 → exec (.calr g a o) s = .next (s.trapNow (mkTrap 7 0 x)))
    ∧ (x.toNat % 16 = 0 → s.textLen ≤ x.toNat → exec (.calr g a o) s = .next (s.trapNow (mkTrap 8 1 x))))
  ∧ (∀ x, x = s.core.th.pc + BitVec.ofInt 32 (o * 16) → x.toNat % 16 = 0 → s.textLen ≤ x.toNat →
    (clearToAct (.jmp g o) s = true → exec (.jmp g o) s = .next (s.trapNow (mkTrap 8 1 x)))
    ∧ (clearToAct (.call g o) s = true → exec (.call g o) s = .next (s.trapNow (mkTrap 8 1 x)))
    ∧ (clearToAct (.br g a o) s = true → (s.opnds (.br g a o)).pa = -1 → exec (.br g a o) s = .next (s.trapNow (mkTrap 8 1 x)))
    ∧ (clearToAct (.brn g a o) s = true → (s.opnds (.brn g a o)).pa = 0 → exec (.brn g a o) s = .next (s.trapNow (mkTrap 8 1 x)))
    ∧ (clearToAct (.bz g a o) s = true → (s.opnds (.bz g a o)).xa = 0 → exec (.bz g a o) s = .next (s.trapNow (mkTrap 8 1 x)))
    ∧ (clearToAct (.bnz g a o) s = true → (s.opnds (.bnz g a o)).xa ≠ 0 → exec (.bnz g a o) s = .next (s.trapNow (mkTrap 8 1 x)))
    ∧ (clearToAct (.brlc g o) s = true → s.core.th.csr.lc ≠ 0 ∨ 1 < s.core.th.csr.ec.toNat →
        exec (.brlc g o) s = .next (s.trapNow (mkTrap 8 1 x))))

/-- loops puts X(A) for LC and its count for EC in flight, to land in one cycle (R84). brlc (R85): with LC above 0 it lowers
LC by one, rotates, writes all ones to the register that p64 names after the rotation, and transfers; else with EC above 1 it
lowers EC, rotates, writes all zeros there, and transfers; else it writes 0 to EC, rotates, and falls through. A target 0 to
63 bundles back costs no bubble, another two cycles (R83). Rotating lowers each base by one, modulo 24, 30 and 64. -/
def Obligations.LoopBranchCountsAndRotates : Prop := ∀ (g a e : Nat) (o : Int),
  Gives (.loops g a e) (fun p t => (t.result 1 0 (.csr 0x009 .write p.xa)).result 1 0 (.csr 0x00A .write (BitVec.ofNat 32 e)))
  ∧ GivesIf (.brlc g o)
    (fun _ s => s.core.th.csr.lc ≠ 0 ∧ inText s (s.core.th.pc + BitVec.ofInt 32 (o * 16)))
    (fun _ t => ((((t.result 1 0 (.csr 0x00B .write (rotRrb t.core.th.csr.rrb))).result 1 0
      (.csr 0x009 .write (t.core.th.csr.lc - 1))).result 1 0 (.p (physP (rotRrb t.core.th.csr.rrb) 64) (-1) (-1))).jump
        (t.core.th.pc + BitVec.ofInt 32 (o * 16)) (if -63 ≤ o ∧ o ≤ 0 then 0 else 2)))
  ∧ GivesIf (.brlc g o)
    (fun _ s => s.core.th.csr.lc = 0 ∧ 1 < s.core.th.csr.ec.toNat ∧ inText s (s.core.th.pc + BitVec.ofInt 32 (o * 16)))
    (fun _ t => ((((t.result 1 0 (.csr 0x00B .write (rotRrb t.core.th.csr.rrb))).result 1 0
      (.csr 0x00A .write (t.core.th.csr.ec - 1))).result 1 0 (.p (physP (rotRrb t.core.th.csr.rrb) 64) 0 (-1))).jump
        (t.core.th.pc + BitVec.ofInt 32 (o * 16)) (if -63 ≤ o ∧ o ≤ 0 then 0 else 2)))
  ∧ GivesIf (.brlc g o) (fun _ s => s.core.th.csr.lc = 0 ∧ s.core.th.csr.ec.toNat ≤ 1)
    (fun _ t => (t.result 1 0 (.csr 0x00B .write (rotRrb t.core.th.csr.rrb))).result 1 0 (.csr 0x00A .write 0))
  ∧ ∀ (x v p : Nat), x < 24 → v < 30 → p < 64 →
    rotRrb (BitVec.ofNat 32 (p * 65536 + v * 256 + x))
      = BitVec.ofNat 32 ((p + 63) % 64 * 65536 + (v + 29) % 30 * 256 + (x + 23) % 24)

/-- csrr reads the CSR as it was before the bundle, sampled at its issue also where it slips, with a latency of 2; csrw, csrs
and csrc put a write, a setting and a clearing of X(D) in flight, to land in 1 (R87). When it lands untouched by an error, the
register takes the source, its union with the old value, or the old value less the source, field by field (R88, R89): LC,
EVAL, EPC and ESCR whole, EC its six bits, LEASE its 16 bits with 1 for 0, TRAPVEC without its reserved bits, ECAUSE likewise,
ESTAT its two bits, RRB each base modulo its file, VFLAGS its six bits. A number that is read-only, COREID, PARTID, RANK,
GANGSZ, TASKID, TIMELO, TIMEHI, PTS, GMASK0, GMASK1, SNAPVER or SNAPLEN, changes nothing. -/
def Obligations.SpecialRegisterAccess : Prop :=
  (∀ g d c : Nat, GivesSample (.csrr g d c) d (fun t => t.csrVal c)
    ∧ Gives (.csrw g d c) (fun p t => t.result 1 0 (.csr c .write p.xd))
    ∧ Gives (.csrs g d c) (fun p t => t.result 1 0 (.csr c .set p.xd))
    ∧ Gives (.csrc g d c) (fun p t => t.result 1 0 (.csr c .clear p.xd)))
  ∧ (∀ old v : Word, csrMerge .write old v = v ∧ csrMerge .set old v = old ||| v ∧ csrMerge .clear old v = old &&& ~~~v)
  ∧ (∀ (s : State) (l : Landing) (n : Nat) (op : CsrOp) (v : Word), l.dest = .csr n op v → l.bad = false →
    s.landOne l = s.updTh fun t =>
      let u := { t with csr := { t.csr with vflags := t.csr.vflags ||| l.flg } }
      u.setCsr n (csrMerge op (u.getCsr n) v))
  ∧ (∀ (t : Thread) (w : Word),
    (t.setCsr 0x008 w).csr = { t.csr with vflags := w.truncate 6 }
    ∧ (t.setCsr 0x009 w).csr = { t.csr with lc := w }
    ∧ (t.setCsr 0x00A w).csr = { t.csr with ec := w &&& 0x3F }
    ∧ (t.setCsr 0x00B w).csr = { t.csr with rrb := BitVec.ofNat 32 (bits w.toNat 21 16 * 65536 + bits w.toNat 12 8 % 30 * 256 + bits w.toNat 4 0 % 24) }
    ∧ (t.setCsr 0x013 w).csr = { t.csr with lease := if w.toNat % 65536 = 0 then 1 else w.toNat % 65536 }
    ∧ (t.setCsr 0x020 w).csr = { t.csr with trapvec := w &&& 0xFFFFFFF1 }
    ∧ (t.setCsr 0x021 w).csr = { t.csr with epc := w }
    ∧ (t.setCsr 0x022 w).csr = { t.csr with ecause := w &&& 0x8000FFFF }
    ∧ (t.setCsr 0x023 w).csr = { t.csr with evalw := w }
    ∧ (t.setCsr 0x024 w).csr = { t.csr with estat := w &&& 3 }
    ∧ (t.setCsr 0x025 w).csr = { t.csr with escr := w })
  ∧ ∀ n ∈ [0x000, 0x001, 0x002, 0x003, 0x004, 0x010, 0x011, 0x012, 0x018, 0x019, 0x028, 0x029],
    ∀ (t : Thread) (w : Word), t.setCsr n w = t

/-- The value a CSR number reads (R88), of the thread as it was before the bundle: COREID the physical and the logical core,
PARTID the partition, TASKID the node and the serial number, TIMELO and TIMEHI the halves of the chip cycle counter, GMASK0
and GMASK1 the halves of the membership, SNAPVER 1, SNAPLEN 6144, and VFLAGS, LC, EC, RRB, PTS, LEASE, TRAPVEC, EPC, ECAUSE,
EVAL, ESTAT and ESCR their register. -/
def Obligations.SpecialRegisterValues : Prop := ∀ s : State,
  s.csrVal 0x000 = BitVec.ofNat 32 (s.core.num % 1024 * 65536 + s.myLog % 1024)
  ∧ s.csrVal 0x001 = BitVec.ofNat 32 (s.thBefore.task.part % 8)
  ∧ s.csrVal 0x004 = BitVec.ofNat 32 (s.thBefore.task.node % 4096 * 2 ^ 20 + s.thBefore.task.serial % 2 ^ 20)
  ∧ s.csrVal 0x008 = s.thBefore.csr.vflags.zeroExtend 32
  ∧ s.csrVal 0x009 = s.thBefore.csr.lc ∧ s.csrVal 0x00A = s.thBefore.csr.ec ∧ s.csrVal 0x00B = s.thBefore.csr.rrb
  ∧ s.csrVal 0x010 = BitVec.ofNat 32 s.pkg.time ∧ s.csrVal 0x011 = BitVec.ofNat 32 (s.pkg.time / 2 ^ 32)
  ∧ s.csrVal 0x012 = BitVec.ofNat 32 s.thBefore.csr.pts ∧ s.csrVal 0x013 = BitVec.ofNat 32 s.thBefore.csr.lease
  ∧ s.csrVal 0x018 = s.thBefore.csr.gmask.truncate 32 ∧ s.csrVal 0x019 = (s.thBefore.csr.gmask >>> 32).truncate 32
  ∧ s.csrVal 0x020 = s.thBefore.csr.trapvec ∧ s.csrVal 0x021 = s.thBefore.csr.epc
  ∧ s.csrVal 0x022 = s.thBefore.csr.ecause ∧ s.csrVal 0x023 = s.thBefore.csr.evalw
  ∧ s.csrVal 0x024 = s.thBefore.csr.estat ∧ s.csrVal 0x025 = s.thBefore.csr.escr
  ∧ s.csrVal 0x028 = 1 ∧ s.csrVal 0x029 = 6144
  ∧ (∀ d, s.taskCtx s.thBefore.task = some d →
      s.csrVal 0x002 = BitVec.ofNat 32 d.rank ∧ s.csrVal 0x003 = BitVec.ofNat 32 d.gangsz)

/-- trap takes the exception TRAPI with its code as subcause and X(D) in EVAL, EPC one bundle on (R90). eret with ESTAT[0] =
1, with no result or slip entry of an earlier handler bundle left, and a return address aligned in the text resumes the task
at EPC three cycles on, in task mode, with the reported record freed and ESTAT cleared; an EPC whose bits 3 to 0 are not zero
traps ALIGN and one beyond the text XLATE with subcause 1, with EPC in EVAL (R82); with ESTAT[0] = 0 the task ends as faulted
with the cause in ECAUSE (R91, R219), on a core that no shrink removes. fold in a foldable task folds it, with no effect of
its bundle; in another it traps BUDGET with subcause FOLD (R96). -/
def Obligations.TrapInstructionEntersAndReturns : Prop := ∀ g d k : Nat,
  Gives (.trap g d k) (fun p t =>
    (t.takeTrap (mkTrap 0x0C k p.xd) false (t.core.th.pc + 16) 1).mark .jumped)
  ∧ GivesIf (.eret g)
    (fun _ s => s.core.th.csr.estat.getLsbD 0 = true ∧ inText s s.core.th.csr.epc ∧ handlerDone s
      ∧ (s.getPart s.core.th.task.part).shrink.contains s.core.num = false)
    (fun _ t => ((t.updTh fun h =>
      { h with recs := (match h.reported with | some r => sset {} h.recs r {} | none => h.recs)
               reported := none, holdCnt := 0, csr := { h.csr with estat := 0 } }).resume t.core.th.csr.epc 3 .task).mark .jumped)
  ∧ (∀ s o t, Acts (.eret g) s o t → s.core.th.csr.estat.getLsbD 0 = false → handlerDone s →
    (s.getPart s.core.th.task.part).shrink.contains s.core.num = false →
    ∃ fpc fva, exec (.eret g) s = .next (((t.updTh fun h =>
      { h with recs := (match h.reported with | some r => sset {} h.recs r {} | none => h.recs)
               reported := none, holdCnt := 0, mode := .task, csr := { h.csr with estat := 0 } }).endFaulted
        (t.core.th.csr.ecause.toNat % 65536) fpc fva).mark .jumped))
  ∧ (∀ s, clearToAct (.eret g) s = true → handlerDone s → s.core.th.csr.estat.getLsbD 0 = true →
    (s.core.th.csr.epc.toNat % 16 ≠ 0 → exec (.eret g) s = .next (s.trapNow (mkTrap 7 0 s.core.th.csr.epc)))
    ∧ (s.core.th.csr.epc.toNat % 16 = 0 → s.textLen ≤ s.core.th.csr.epc.toNat →
      exec (.eret g) s = .next (s.trapNow (mkTrap 8 1 s.core.th.csr.epc))))
  ∧ ∀ s, clearToAct (.fold g) s = true →
    (s.core.th.task.foldable = true → exec (.fold g) s = .next ((s.startFold false).mark (.aborted 0x0E 5 0 0)))
    ∧ (s.core.th.task.foldable = false → exec (.fold g) s = .next (s.trapNow (mkTrap 0x0E 5 0)))

/-- wait acts, and changes nothing, once every class counter, with the operations of earlier bundles that have slipped, is at
or below its threshold, where a field of all ones waits for none (R92); twait once no command, in a slip entry or issued,
names a selected token (R93); until then they stall their bundle. gjoin puts the membership in flight, unless an open episode
of a group the task is not in stalls it; gleave puts the leaving in flight, after the timestamps of a member's arrival have
been joined; gsync of a member makes the arrival and of another does nothing (R94, R95). That a wait counts the operations of
earlier bundles in slip entries, but for those behind a full queue (log entry 115), that a gjoin of a member does not stall
(log entry 24), and what timestamp a leaver brings (log entry 21) are the model's choices. -/
def Obligations.WaitsIssueWhenSatisfied : Prop := ∀ g ql qs cp tl m n : Nat,
  let below := fun (s : State) => (ql = 31 ∨ s.core.th.ql + s.heldOf 1 ≤ ql) ∧ (qs = 31 ∨ s.qs + s.heldOf 2 ≤ qs)
    ∧ (cp = 63 ∨ s.cp + s.heldOf 3 ≤ cp) ∧ (tl = 3 ∨ s.core.th.tl + s.heldOf 4 ≤ tl)
  GivesIf (.wait g ql qs cp tl) (fun _ s => below s) (fun _ t => t)
  ∧ (∀ s, clearToAct (.wait g ql qs cp tl) s = true → ¬ below s →
      exec (.wait g ql qs cp tl) s = .next (s.mark .stalled))
  ∧ GivesIf (.twait g m) (fun _ s => ∀ i, i < 8 → bit m i = true → s.tok i = 0 ∧ s.heldTok i = 0) (fun _ t => t)
  ∧ (∀ s i, clearToAct (.twait g m) s = true → i < 8 → bit m i = true → s.tok i + s.heldTok i ≠ 0 →
      exec (.twait g m) s = .next (s.mark .stalled))
  ∧ GivesIf (.gjoin g n) (fun _ s => s.core.th.csr.gmask.getLsbD n = true
      ∨ (s.getCtx s.core.th.task.part s.core.th.task.slot).open n = none) (fun _ t => t.result 1 0 (.member n true))
  ∧ (∀ s, clearToAct (.gjoin g n) s = true → s.core.th.csr.gmask.getLsbD n = false →
      (s.getCtx s.core.th.task.part s.core.th.task.slot).open n ≠ none → exec (.gjoin g n) s = .next (s.mark .stalled))
  ∧ Gives (.gleave g n) (fun _ t => (t.arrivePts t.core.th.task.part t.core.th.task.slot t.core.th.csr.pts
      fun k => k = n && t.core.th.csr.gmask.getLsbD n).result 1 0 (.member n false))
  ∧ GivesIf (.gsync g n) (fun _ s => s.core.th.csr.gmask.getLsbD n = true) (fun _ t => t.arrive n)
  ∧ GivesIf (.gsync g n) (fun _ s => s.core.th.csr.gmask.getLsbD n = false) (fun _ t => t)

/-- tdom and tbud give the task's domain and budgets by selector (R98), rtime the halves of the counter and the latched low
word (R102), each as sampled at its issue also where it slips. tlook finds the entry that holds the tag, in the table as it
was before its bundle, and gives its slot address with the low 12 bits, or all ones; tins puts a tag into the entry X(D) and
removes it elsewhere; tinv removes a tag or clears an entry (R100); an entry number above 255 traps SPRANGE with subcause
0x10. snapr reads a word of a snapshot, the own one, named by x0 or by its core's number, at latency 2 or, served from its
slip entry, that of another stopped core, and snapw puts a write in flight that lands in the snapshot 2 cycles on; outside a
handler with a snapshot, x0 for B traps PERM with subcause 2 (R99). That tbud with selector 3 counts the hold entries of lower
slots of its bundle is the model's choice (log entry 125). -/
def Obligations.TaskQueriesAndTagTable : Prop := ∀ g d a b k : Nat,
  (k < 3 → GivesSample (.tdom g d k) d (fun t => BitVec.ofNat 32 (t.core.th.task.dim k).1)
    ∧ GivesSample (.tdom g d (k + 4)) d (fun t => BitVec.ofNat 32 (t.core.th.task.dim k).2.1)
    ∧ GivesSample (.tdom g d (k + 8)) d (fun t => BitVec.ofNat 32 (t.core.th.task.dim k).2.2))
  ∧ GivesSample (.tdom g d 12) d (fun t => BitVec.ofNat 32 t.core.th.task.ndim)
  ∧ GivesSample (.tdom g d 13) d (fun t => BitVec.ofNat 32 t.core.th.task.depth)
  ∧ GivesSample (.tbud g d 0) d (fun t => BitVec.ofNat 32 t.core.th.task.spad)
  ∧ GivesSample (.tbud g d 1) d (fun t => BitVec.ofNat 32 t.core.th.task.accr)
  ∧ GivesSample (.tbud g d 2) d (fun t =>
      if t.core.th.limited && !t.core.th.spent then BitVec.ofNat 32 t.core.th.left else 0xFFFFFFFF)
  ∧ GivesSample (.tbud g d 3) d (fun t => BitVec.ofNat 32 (t.core.th.task.hold - t.core.th.holdq.length))
  ∧ GivesSample (.tbud g d 4) d (fun t => BitVec.ofNat 32 t.core.th.task.hold)
  ∧ GivesSample (.rtime g d 0) d (fun t => BitVec.ofNat 32 t.pkg.time)
  ∧ (∀ s o t, Acts (.rtime g d 1) s o t → let e := t.early (.rtime g d 1)
      (s.core.env.served = none → e.time = t.pkg.time ∧ e.val = BitVec.ofNat 32 (t.pkg.time / 2 ^ 32))
      ∧ exec (.rtime g d 1) s = .next ((t.putX 2 d e.val).updTh fun h => { h with tlatch := BitVec.ofNat 32 e.time }))
  ∧ GivesSample (.rtime g d 2) d (fun t => t.thBefore.tlatch)
  ∧ (∀ (s : State) (i : Instr), (s.core.env.served = none → (s.early (.tlook g d a b)).tags = s.thBefore.tags)
      ∧ (s.core.env.served.isSome = true → s.early i = s.core.env.early))
  ∧ (∀ s o t e, Acts (.tlook g d a b) s o t → (t.early (.tlook g d a b)).tags.find? (fun e => e.2 = tagOf o + 1) = some e →
      exec (.tlook g d a b) s = .next (t.putX 2 d (BitVec.ofNat 32 (e.1 * 4096 + o.xa.toNat % 4096))))
  ∧ (∀ s o t, Acts (.tlook g d a b) s o t → (t.early (.tlook g d a b)).tags.find? (fun e => e.2 = tagOf o + 1) = none →
      exec (.tlook g d a b) s = .next (t.putX 2 d 0xFFFFFFFF))
  ∧ GivesIf (.tins g d a b) (fun o _ => o.xd.toNat ≤ 255) (fun o t => t.updTh fun h =>
      { h with tags := sset 0 (h.tags.filter fun e => e.2 ≠ tagOf o + 1) o.xd.toNat (tagOf o + 1) })
  ∧ Gives (.tinvVa g a b) (fun o t => t.updTh fun h => { h with tags := h.tags.filter fun e => e.2 ≠ tagOf o + 1 })
  ∧ GivesIf (.tinvEntry g d) (fun o _ => o.xd.toNat ≤ 255) (fun o t => t.updTh fun h =>
      { h with tags := sset 0 h.tags o.xd.toNat 0 })
  ∧ (∀ s, let x := (s.opnds (.tins g d a b)).xd
      clearToAct (.tins g d a b) s = true → 255 < x.toNat → exec (.tins g d a b) s = .next (s.trapNow (mkTrap 6 0x10 x)))
  ∧ (∀ s, let x := (s.opnds (.tinvEntry g d)).xd
      clearToAct (.tinvEntry g d) s = true → 255 < x.toNat → exec (.tinvEntry g d) s = .next (s.trapNow (mkTrap 6 0x10 x)))
  ∧ (∀ s, s.core.th.mode = .task ∨ s.core.th.snap = none → (clearToAct (.snapr g d a 0) s = true →
      exec (.snapr g d a 0) s = .next (s.trapNow (mkTrap 9 2 (s.opnds (.snapr g d a 0)).xb))))
  ∧ (∀ o : Opnds, tagOf o = (o.xb.toNat % 65536 * 2 ^ 32 + o.xa.toNat) / 4096)
  ∧ (∀ s o t, Acts (.snapr g d a 0) s o t → s.core.th.mode = .handler → s.core.th.snap.isSome = true →
      exec (.snapr g d a 0) s = .next (t.putX 2 d (t.snapRead t.thBefore o.xa.toNat)))
  ∧ (∀ s o t x, Acts (.snapr g d a b) s o t → s.core.th.mode = .handler → s.snapOf b o.xb = .ok x → x.tid = s.core.th.tid →
      exec (.snapr g d a b) s = .next (t.putX 2 d (t.snapRead t.thBefore o.xa.toNat)))
  ∧ (∀ s o t x, Acts (.snapr g d a b) s o t → s.core.env.served = some o → s.snapOf b o.xb = .ok x → x.tid ≠ s.core.th.tid →
      exec (.snapr g d a b) s = .next (t.putX 1 d (t.snapRead x o.xa.toNat)))
  ∧ (∀ s o t, Acts (.snapw g d a 0) s o t → s.core.th.mode = .handler → s.core.th.snap.isSome = true →
      exec (.snapw g d a 0) s = .next (t.result 2 0 (.snap t.core.th.tid o.xa.toNat o.xd)))
  ∧ (∀ (s : State) (l : Landing) (w : Nat) (v : Word), l.dest = .snap s.core.th.tid w v → s.landOne l = s.updTh fun h =>
      let u := { h with csr := { h.csr with vflags := h.csr.vflags ||| l.flg } }
      match u.snap with | some n => snapSet u n w v | none => u)

/-- The NOP has no effect (R12). VJOIN, once no slip entry of an earlier bundle still owes a direct access, orders the views:
of what each view of the core's scratchpad remembers of the other's unjoined writes only the writes of engine threads that
have not completed stay, of those in another core's scratchpad only these stay and those of another task's threads, which are
marked as seen by this core, and the queued accesses issued so far are noted as before the join (R10, R257); that the views
are kept as remembered marks is the model's choice (log entry 4). END, with VJOIN as well where the header says so, leaves the
core in the phase in which it issues nothing more (R11). -/
def Obligations.HeaderBitsAndNop : Prop :=
  (∀ s, exec .nop s = .next (s.mark .issued))
  ∧ GivesIf .vjoin (fun _ s => ∀ e ∈ s.core.th.slips, isDirect e.instr = true → s.core.env.seq / 4 ≤ e.seq / 4)
    (fun _ t => t.joinViews)
  ∧ (∀ t : State, let u := t.joinViews
    u.core.th.vjq = t.core.th.qid
    ∧ (swf [] t.core.linOld = true → swf [] t.core.swzOld = true → ∀ (a : Nat) (m : Mark),
      (m ∈ sget [] u.core.linOld a ↔ m ∈ sget [] t.core.linOld a ∧ t.unjoined m = true)
      ∧ (m ∈ sget [] u.core.swzOld a ↔ m ∈ sget [] t.core.swzOld a ∧ t.unjoined m = true))
    ∧ ((t.allCores.map (·.num)).Nodup → ∀ c ∈ u.allCores, c.num ≠ t.core.num → ∀ (a : Nat) (m : Mark),
        m ∈ sget [] c.linOld a ∨ m ∈ sget [] c.swzOld a → t.unjoined m = true
          ∨ (t.core.num ∈ m.seen ∧ ∃ tid n k, m.by_ = some (tid, n, k) ∧ tid ≠ t.core.th.tid)))
  ∧ Gives (.endB false) (fun _ t => t.updCore fun c => { c with phase := .ending })
  ∧ GivesIf (.endB true) (fun _ s => ∀ e ∈ s.core.th.slips, isDirect e.instr = true → s.core.env.seq / 4 ≤ e.seq / 4)
    (fun _ t => t.joinViews.updCore fun c => { c with phase := .ending })

/-- When nothing else is due (no step asked for or due, none free), the core whose turn it is runs a task that presents its
next bundle in this cycle in the state u, the words at its pc decode to the bundle b, the mode allows it, and the queued
accesses before its direct accesses that act are performed, which leaves d: if no slot of it, presented alone, waits, traps or
stops, if it reads no poisoned register, and if its slots, presented one after the other with the control transfer last, lead
to r, then the step answers r with the bundle left: the pc 16 bytes on unless a transfer set it. A slot is presented by exec
of its operation with its number, extension byte, word, pc and rotation noted, a direct access that acts once the queued
accesses of lower slots have been performed (R247), and the next slot starts from what it answers once what waits at its home
has been evaluated. A step of the device that is asked for, where the package is not held in reset or it acts there too, or
else due, is exec of it with its operands. That a control transfer acts last (log entry 23) and that a registered wait holds
back the direct accesses behind it and is evaluated between slots (log entry 34) are the model's choices. -/
def Obligations.StepRunsTheDecodedBundle : Prop :=
  (∀ (s u d r : State) (ws : List Word) (b : Bundle),
    PresentsIn s u → u.fetch = .ok (some ws) →
    decodeBundle (lget 0 ws 0).toNat (lget 0 ws 1).toNat (lget 0 ws 2).toNat (lget 0 ws 3).toNat = .ok b →
    u.modeTrap b = none →
    (if b.ops.any fun o => isDirect o.op && u.enter.acts o then u.usedOverlay.drainQ u.core.num u.core.th.tid u.core.drainFuel
      else (true, u.usedOverlay)) = (true, d) →
    (∀ o ∈ slotsOf b, ∃ t, exec o.op (d.enter.atSlot o) = .next t ∧ t.core.issue.goesOn = true) →
    d.readsPoison (slotsOf b) = false →
    d.enter.chain (ctlLast (slotsOf b)) = .next r → r.core.issue.goesOn = true →
    step s = .next { (d.leave r).updCore Core.spendCycle with turned := true })
  ∧ (∀ (o : SlotOp) (l : List SlotOp) (s t : State), exec o.op (s.atSlotAfter o) = .next t → t.core.issue.goesOn = true →
    s.chain [o] = .next t ∧ (l ≠ [] → s.chain (o :: l) = (t.wakeAll t.wakeFuel).chain l))
  ∧ (∀ (o : SlotOp) (s d : State),
    (isDirect o.op = false ∨ s.acts o = false → s.atSlotAfter o = s.atSlot o)
    ∧ (isDirect o.op = true → s.acts o = true → s.drainQ s.core.num s.core.th.tid s.core.drainFuel = (true, d) →
      s.atSlotAfter o = d.atSlot o))
  ∧ (∀ (o : SlotOp) (s : State), s.atSlot o = s.updCore fun c =>
    { c with issue := .issued
             env := { c.env with slot := o.slot, ext := o.ext, sword := BitVec.ofNat 32 o.word,
                                 seq := c.th.bseq * 4 + o.slot, pc := c.th.pc, rrb := c.th.csr.rrb, after := false } })
  ∧ (∀ d r : State, r.core.th.tid = d.core.th.tid →
    (d.leave r).core.th.pc = (if r.core.issue = .jumped then r.core.th.pc else r.core.th.pc + 16)
    ∧ (d.leave r).core.th.bseq = r.core.th.bseq + 1)
  ∧ (∀ (s : State) (i : Instr) (e : Stim) (l : List (Instr × Stim)), s.agenda = (i, e) :: l →
    s.pkg.held = false ∨ inReset i = true → step s = exec i { s with agenda := l, ev := e })
  ∧ ∀ (s : State) (i : Instr) (e : Stim), s.agenda = [] → s.dueStep = some (i, e) → step s = exec i { s with ev := e }

/-- The words of the spec's own examples decode to the operations they stand for: 0x00547209 is div x7, x8, x9; 0x30914001 is
loops x5, 1; 0x30803FFF is brlc to the bundle before; 0x501BFF03 is wait cp=0; and a word whose major opcode is 0xA, 0xE or
0xF stands in no slot after the first. -/
def Obligations.SpecWordsDecode : Prop :=
  decodeSlot none 0x00547209 = .ok (.div 0 7 8 9)
  ∧ decodeSlot none 0x30914001 = .ok (.loops 0 5 1)
  ∧ decodeSlot none 0x30803FFF = .ok (.brlc 0 (-1))
  ∧ decodeSlot none 0x501BFF03 = .ok (.wait 0 31 31 0 3)
  ∧ decodeSlot none 0 = .ok .nop
  ∧ (∀ (e : Option Nat) (w : Nat), w / 2 ^ 28 = 0xA ∨ w / 2 ^ 28 = 0xE ∨ w / 2 ^ 28 = 0xF →
      decodeSlot e w = .error .illslot)

/-- For every well-formed slot operation, with every operand at every value that the encoding admits, the word and extension
byte that the encoder gives fit their fields and decode, in a bundle with a header, to the operation itself; where the encoder
says that the word alone stands for it, the word decodes to it in a bundle without a header as well; and the two header bits
decode from their header word. -/
def Obligations.EncodingRoundTrip : Prop :=
  (∀ i : Instr, slotOp i = true → wellFormed i = true →
    (encode i).word < 2 ^ 32 ∧ (encode i).ext < 256 ∧ decodeSlot (some (encode i).ext) (encode i).word = .ok i
    ∧ ((encode i).short = true → decodeSlot none (encode i).word = .ok i))
  ∧ (∀ vj, decodeHeader (encode (.endB vj)).word = some (.endB vj))
  ∧ decodeHeader (encode .vjoin).word = some .vjoin

/-- Whatever word and extension byte the decoder accepts, encoding the operation it reads gives exactly that word and that
byte: no bit is ignored, and no two encodings stand for one operation in a bundle with a header. Without a header, the word is
the encoder's word, marked as one that stands alone. -/
def Obligations.DecodingIsCanonical : Prop := ∀ (e w : Nat) (i : Instr), e < 256 → w < 2 ^ 32 →
  (decodeSlot (some e) w = .ok i → (encode i).word = w ∧ (encode i).ext = e)
  ∧ (decodeSlot none w = .ok i → (encode i).word = w ∧ (encode i).short = true)

/-- At issue, a scalar name reads 0 for x0, its register for x1 to x31, the register 32 + (n − 32 + XB) mod 24 for x32 to x55,
the oldest entry of lq for 56, and for the link ports 57 to 60 the oldest message of the channel bound, or 0 where there is
none; a vector name reads its register for v0 to v31, 32 + (n − 32 + VB) mod 30 for v32 to v61, and the oldest entry of vq for
v62; a predicate name reads all ones for p0, its register for p1 to p63, and 64 + (n − 64 + PB) mod 64 for p64 to p127 (R24 to
R26). Every operation's guard and sources are read under the names of its fields: A, the odd register A + 1 of a pair, B and
D, each as a scalar, vector or predicate name. -/
def Obligations.RegistersReadThroughRotation : Prop :=
  (∀ s : State, s.core.env.served = none →
    (s.srcX 0 = 0)
    ∧ (∀ n, 1 ≤ n → n < 32 → s.srcX n = sget 0 s.core.th.x n)
    ∧ (∀ n, 32 ≤ n → n < 56 → s.srcX n = sget 0 s.core.th.x (32 + (n - 32 + bits s.core.th.csr.rrb.toNat 4 0) % 24))
    ∧ s.srcX 56 = s.core.th.lq.headD 0
    ∧ (∀ n, 57 ≤ n → n ≤ 60 → ∀ ch m, s.portChan n = some ch → s.headMsg ch = some m → s.srcX n = BitVec.ofNat 32 (leNat m.payload))
    ∧ (∀ n, 57 ≤ n → n ≤ 60 → (s.portChan n = none ∨ ∃ ch, s.portChan n = some ch ∧ s.headMsg ch = none) → s.srcX n = 0)
    ∧ (∀ n, n < 32 → s.srcV n = sget 0 s.core.th.v n)
    ∧ (∀ n, 32 ≤ n → n < 62 → s.srcV n = sget 0 s.core.th.v (32 + (n - 32 + bits s.core.th.csr.rrb.toNat 12 8) % 30))
    ∧ s.srcV 62 = s.core.th.vq.headD 0
    ∧ s.srcP 0 = -1
    ∧ (∀ n, 1 ≤ n → n < 64 → s.srcP n = sget 0 s.core.th.p n)
    ∧ ∀ n, 64 ≤ n → n < 128 → s.srcP n = sget 0 s.core.th.p (64 + (n - 64 + bits s.core.th.csr.rrb.toNat 21 16) % 64))
  ∧ ∀ (s : State) (g d a b t e : Nat) (k : Int),
    (∀ i ∈ [
      (.add g d a b : Instr), .sub g d a b, .and g d a b, .or g d a b, .xor g d a b, .andn g d a b, .shl g d a b,
      .shr g d a b, .sar g d a b, .rotr g d a b, .slt g d a b, .sltu g d a b, .seq g d a b, .sne g d a b, .min g d a b,
      .max g d a b, .minu g d a b, .maxu g d a b, .mul g d a b, .mulh g d a b, .mulhu g d a b, .div g d a b, .divu g d a b,
      .rem g d a b, .remu g d a b, .sel g d a b, .bfx g d a b, .snapr g d a b, .tlook g d a b, .vsetl g d a b,
      .vlds g d a b, .tinvVa g a b, .tout g t a b, .tin g t a b, .tacc g t a b, .wbld g d a b, .ccp g t e a b,
      .cnd g t e a b, .cgat g t e a b, .csct g t e a b, .cwb g t e a b, .cfill g t e a b, .cred g t e a b, .csig g t e a b,
      .xar g t e a b, .xrs g t e a b, .xag g t e a b, .xbc g t e a b, .xmrg g t e a b, .xred g t e a b, .xbar g t e a b],
      (s.opnds i).g = s.srcP g ∧ (s.opnds i).xa = s.srcX a ∧ (s.opnds i).xb = s.srcX b)
    ∧ (∀ i ∈ [
      (.clz g d a : Instr), .ctz g d a, .popc g d a, .pnez g d a, .vbcast g d a, .nset g d a, .cseq g a, .mscl g a,
      .addi g d a k, .andi g d a k, .ori g d a k, .xori g d a k, .slti g d a k, .sltui g d a k, .seqi g d a k,
      .mini g d a k, .maxi g d a k, .muli g d a k, .ldW g d a k, .ldH g d a k, .ldHu g d a k, .ldB g d a k, .ldBu g d a k,
      .ldf g d a k, .ldfe g d a k, .vld g d a k, .vldf g d a k, .vldd g d a k, .shli g d a t, .shri g d a t, .sari g d a t,
      .loops g a t, .clrf g a k, .bz g a k, .bnz g a k, .jr g a k, .calr g a k, .tmma g t d a],
      (s.opnds i).g = s.srcP g ∧ (s.opnds i).xa = s.srcX a)
    ∧ (∀ i ∈ [
      (.bfi g d a b : Instr), .snapw g d a b, .tins g d a b],
      (s.opnds i).g = s.srcP g ∧ (s.opnds i).xa = s.srcX a ∧ (s.opnds i).xb = s.srcX b ∧ (s.opnds i).xd = s.srcX d)
    ∧ (∀ i ∈ [
      (.stW g d a k : Instr), .stH g d a k, .stB g d a k, .stef g d a k, .stf g d a k],
      (s.opnds i).g = s.srcP g ∧ (s.opnds i).xa = s.srcX a ∧ (s.opnds i).xd = s.srcX d)
    ∧ (∀ i ∈ [
      (.lhi g d t : Instr), .trap g d t, .csrw g d t, .csrs g d t, .csrc g d t, .tinvEntry g d],
      (s.opnds i).g = s.srcP g ∧ (s.opnds i).xd = s.srcX d)
    ∧ (∀ i ∈ [
      (.fld g a : Instr), .rwlRd g a, .rwlWr g a, .rwlRu g a, .rwlWu g a, .vqld g a k],
      (s.opnds i).g = s.srcP g ∧ (s.opnds i).xa = s.srcX a ∧ (s.opnds i).xa1 = s.srcX (a + 1))
    ∧ (∀ i ∈ [
      (.fst g a b : Instr), .famoAdd g a b, .famoMax g a b, .famoOr g a b, .famoSwap g a b, .qldW g a b, .qldH g a b,
      .qldB g a b, .amoAdd g a b, .amoAnd g a b, .amoOr g a b, .amoXor g a b, .amoMin g a b, .amoMax g a b, .amoMinu g a b,
      .amoMaxu g a b, .amoSwap g a b, .waita g a b, .waitc g a b],
      (s.opnds i).g = s.srcP g ∧ (s.opnds i).xa = s.srcX a ∧ (s.opnds i).xa1 = s.srcX (a + 1) ∧ (s.opnds i).xb = s.srcX b)
    ∧ (∀ i ∈ [
      (.qstW g d a b : Instr), .qstH g d a b, .qstB g d a b, .amoCas g d a b],
      (s.opnds i).g = s.srcP g ∧ (s.opnds i).xa = s.srcX a ∧ (s.opnds i).xa1 = s.srcX (a + 1) ∧ (s.opnds i).xb = s.srcX b ∧ (s.opnds i).xd = s.srcX d)
    ∧ (∀ i ∈ [
      (.vqst g d a k : Instr)],
      (s.opnds i).g = s.srcP g ∧ (s.opnds i).xa = s.srcX a ∧ (s.opnds i).xa1 = s.srcX (a + 1) ∧ (s.opnds i).vd = s.srcV d)
    ∧ (∀ i ∈ [
      (.pand g d a b : Instr), .por g d a b, .pxor g d a b, .pandn g d a b],
      (s.opnds i).g = s.srcP g ∧ (s.opnds i).pa = s.srcP a ∧ (s.opnds i).pb = s.srcP b)
    ∧ (∀ i ∈ [
      (.br g a k : Instr), .brn g a k, .pget g d a t, .pcnt g d a, .pfirst g d a],
      (s.opnds i).g = s.srcP g ∧ (s.opnds i).pa = s.srcP a)
    ∧ (∀ i ∈ [
      (.pput g d a t : Instr)],
      (s.opnds i).g = s.srcP g ∧ (s.opnds i).xa = s.srcX a ∧ (s.opnds i).pd = s.srcP d)
    ∧ (∀ i ∈ [
      (.vaddF g d a b : Instr), .vsubF g d a b, .vmulF g d a b, .vminF g d a b, .vmaxF g d a b, .vdivF g d a b,
      .vaddI g d a b, .vsubI g d a b, .vmulI g d a b, .vmulhI g d a b, .vand g d a b, .vor g d a b, .vxor g d a b,
      .vshl g d a b, .vshr g d a b, .vsar g d a b, .vminI g d a b, .vmaxI g d a b, .vminuI g d a b, .vmaxuI g d a b,
      .vperm g d a b, .vsel g d a b, .vfeq g d a b, .vfne g d a b, .vflt g d a b, .vfle g d a b, .vfun g d a b,
      .vieq g d a b, .vilt g d a b, .viltu g d a b],
      (s.opnds i).g = s.srcP g ∧ (s.opnds i).va = s.srcV a ∧ (s.opnds i).vb = s.srcV b)
    ∧ (∀ i ∈ [
      (.vfmaF g d a b : Instr), .vfmsF g d a b, .vfnmaF g d a b, .vdot4I8 g d a b, .vdot2Bf g d a b, .vsdot g d a b],
      (s.opnds i).g = s.srcP g ∧ (s.opnds i).va = s.srcV a ∧ (s.opnds i).vb = s.srcV b ∧ (s.opnds i).vd = s.srcV d)
    ∧ (∀ i ∈ [
      (.vabsF g d a : Instr), .vnegF g d a, .vsqrtF g d a, .vrsqrtF g d a, .vrcpF g d a, .vexp2F g d a, .vlog2F g d a,
      .vsumF g d a, .vmaxrF g d a, .vminrF g d a, .vroundF g d a, .vtruncF g d a, .vsumI g d a, .vcvtFi g d a,
      .vcvtIf g d a, .vtruncI g d a, .vexpd g d a, .csnd g d a, .vunpkBf g d a t, .vunpkH g d a t, .vunpkD8 g d a t,
      .vunpkI8 g d a t, .vpackBf g d a t e, .vpackH g d a t e, .vpackD8 g d a t e, .vpackI8 g d a t e, .vprn24 g d a b,
      .vprn48 g d a b],
      (s.opnds i).g = s.srcP g ∧ (s.opnds i).va = s.srcV a)
    ∧ (∀ i ∈ [
      (.vgetl g d a b : Instr), .vrot g d a b],
      (s.opnds i).g = s.srcP g ∧ (s.opnds i).va = s.srcV a ∧ (s.opnds i).xb = s.srcX b)
    ∧ (∀ i ∈ [
      (.vst g d a k : Instr), .vstf g d a k],
      (s.opnds i).g = s.srcP g ∧ (s.opnds i).xa = s.srcX a ∧ (s.opnds i).vd = s.srcV d)
    ∧ (∀ i ∈ [
      (.vsts g d a b : Instr), .vstd g d a b],
      (s.opnds i).g = s.srcP g ∧ (s.opnds i).xa = s.srcX a ∧ (s.opnds i).xb = s.srcX b ∧ (s.opnds i).vd = s.srcV d)
    ∧ (∀ i ∈ [
      (.vldx g d a b : Instr)],
      (s.opnds i).g = s.srcP g ∧ (s.opnds i).xa = s.srcX a ∧ (s.opnds i).vb = s.srcV b)
    ∧ (∀ i ∈ [
      (.vstx g d a b : Instr)],
      (s.opnds i).g = s.srcP g ∧ (s.opnds i).xa = s.srcX a ∧ (s.opnds i).vb = s.srcV b ∧ (s.opnds i).vd = s.srcV d)
    ∧ (∀ i ∈ [
      (.crad g d t : Instr)],
      (s.opnds i).g = s.srcP g ∧ (s.opnds i).vd = s.srcV d)
    ∧ (∀ i ∈ [
      (.li g d k : Instr), .lpc g d k, .jmp g k, .call g k, .brlc g k, .eret g, .fold g, .ngo g, .csrr g d t, .tdom g d t,
      .tbud g d t, .rtime g d t, .nseti g d t, .tmov g d t, .wprn24 g d t, .wprn48 g d t, .crcv g d t, .chbind g d t,
      .vid g d, .chbindUnbind g d, .gjoin g d, .gleave g d, .gsync g d, .twait g d, .nstop g d, .tzero g d t e,
      .wait g d t e a],
      (s.opnds i).g = s.srcP g)

/-- A slot operation presented at issue in a mode that forbids it traps PRIV, with its slot number and word, or 0xFF and 0 for
END, and does nothing else (R216, R217). Task mode forbids exactly eret, snapw, and access to the CSRs 0x021 to 0x025; handler
mode forbids every copy, channel, fabric and collective operation, every M operation but nstop, the queued and atomic
operations, vqld and vqst, gjoin, gleave, gsync, fold, trap and END, and every operation that names lq, vq or a link port. -/
def Obligations.ModeForbidsOperations : Prop :=
  (∀ (i : Instr) (s : State), (shape i).cls ≠ .dev → i ≠ .nop → s.core.env.served = none →
    forbiddenIn s.core.th.mode i = true →
    exec i s = .next (s.trapNow (match i with
      | .endB _ => mkTrap 4 0xFF 0
      | _ => mkTrap 4 s.core.env.slot s.core.env.sword)))
  ∧ (∀ i : Instr, forbiddenIn .task i = true ↔
      (∃ g, i = .eret g) ∨ (∃ g d a b, i = .snapw g d a b)
      ∨ ∃ g d c, 0x21 ≤ c ∧ c ≤ 0x25 ∧ (i = .csrr g d c ∨ i = .csrw g d c ∨ i = .csrs g d c ∨ i = .csrc g d c))
  ∧ ∀ i : Instr, ((shape i).cls = .c ∨ ((shape i).cls = .m ∧ ∀ g l, i ≠ .nstop g l) ∨ (shape i).pops ≠ []
      ∨ (shape i).pushes ≠ [] ∨ counterOf i = some 1 ∨ counterOf i = some 2
      ∨ (∃ g n, i = .gjoin g n ∨ i = .gleave g n ∨ i = .gsync g n) ∨ (∃ g, i = .fold g) ∨ (∃ g d k, i = .trap g d k)
      ∨ ∃ vj, i = .endB vj) → forbiddenIn .handler i = true

/-- A slot operation presented at issue, allowed by the mode, whose guard is not pending and suppresses it, leaves everything
as it was but the note of what became of the slot (R14): it reads no port, slips, traps and stalls nothing. Lane 0 of the
guard suppresses every X, M or C operation but sel, a guard of all zeros every V operation on memory and every other V
operation that names a port, and no guard suppresses sel, vsel, vsdot and vexpd, whose guard is an operand, nor the V
operations that name no port, whose guard masks lanes (R14, R15). -/
def Obligations.SuppressedOperationsDoNothing : Prop :=
  (∀ (i : Instr) (s : State), (shape i).cls ≠ .dev → i ≠ .nop → s.core.env.served = none →
    forbiddenIn s.core.th.mode i = false → Role.g ∉ s.pendSrcs i → suppressedBy i (s.srcP (shape i).g) = true →
    exec i s = .next (s.mark .suppressed))
  ∧ (∀ (i : Instr) (p : PReg), (shape i).cls = .x ∨ (shape i).cls = .m ∨ (shape i).cls = .c → (∀ g d a b, i ≠ .sel g d a b) →
    suppressedBy i p = !p.getLsbD 0)
  ∧ (∀ (g v a b : Nat) (p : PReg), ∀ i ∈ [Instr.sel g v a b, .vsel g v a b, .vsdot g v a b, .vexpd g v a], suppressedBy i p = false)
  ∧ (∀ (g v a b : Nat) (k : Int) (p : PReg), ∀ i ∈ [Instr.vld g v a k, .vst g v a k, .vldf g v a k, .vstf g v a k, .vldd g v a k,
      .vlds g v a b, .vsts g v a b, .vstd g v a b, .vldx g v a b, .vstx g v a b, .vqld g a k, .vqst g v a k],
    suppressedBy i p = decide (p = 0))
  ∧ ∀ (i : Instr) (p : PReg), (shape i).cls = .v →
    (∀ g v a b, i ∉ [Instr.vsel g v a b, .vsdot g v a b, .vexpd g v a, .vlds g v a b, .vsts g v a b, .vstd g v a b, .vldx g v a b, .vstx g v a b]) →
    (∀ g v a k, i ∉ [Instr.vld g v a k, .vst g v a k, .vldf g v a k, .vstf g v a k, .vldd g v a k, .vqld g a k, .vqst g v a k]) →
    suppressedBy i p = (decide (p = 0) && decide ((shape i).pops ≠ [] ∨ (shape i).pushes ≠ []))

/-- A register operation (the scalar arithmetic, immediates, constants, predicates, queries, CSR accesses, loops, and the
vector arithmetic, compares, reductions, permutations and conversions) that acts leaves every register, every flag, every CSR,
every byte of memory, the pc, and all else of the state its effect starts from as it was: it only puts results in flight, each
of which names a destination of the operation; x0 gets none; in a foldable task a result for a link port is captured into the
hold queue instead (R192). -/
def Obligations.ResultsOnlyEnterTheResultHolders : Prop := ∀ (i : Instr) (s t u : State) (o : Opnds),
  registerOp i = true → Acts i s o t → exec i s = .next u →
  (∃ l : List Landing, u = t.updTh (fun h => { h with inflight := h.inflight ++ l })
    ∧ ∀ e ∈ l, e.dest = .flags ∨ (∃ k v, e.dest = .push k v ∧ k + 57 ∈ (shape i).xd)
      ∨ ∃ r ∈ destRegs s.rrb i, e.dest.reg = some r)
  ∨ (s.core.th.task.foldable = true ∧ ∃ d ch v, d ∈ (shape i).xd ∧ 57 ≤ d ∧ d ≤ 60 ∧ t.portChan d = some ch
    ∧ u = t.hold (.message ch (leBytes v 4)))

/-- The state an operation's effect starts from differs from the state before it only by the note of the slot and the oldest
entries of the ports it names as sources: an operation that names none starts from the state itself; one that names lq loses
the oldest entry of lq and one that names vq the oldest of vq, and every register, every CSR but PTS and every byte of memory
is as before; PTS rises at most, by the join of a message received at a link port (R252). -/
def Obligations.PoppingTouchesOnlyThePorts : Prop :=
  (∀ (i : Instr) (s : State), (shape i).pops = [] → s.pop i = s)
  ∧ (∀ (i : Instr) (s : State), (shape i).pops = [56] → s.pop i = s.updTh fun t => { t with lq := t.lq.tail })
  ∧ (∀ (i : Instr) (s : State), (shape i).pops = [126] → s.pop i = s.updTh fun t => { t with vq := t.vq.tail })
  ∧ ∀ (i : Instr) (s : State), (s.pop i).core.spad = s.core.spad ∧ (s.pop i).pkg.hbm = s.pkg.hbm
    ∧ (s.pop i).core.th.x = s.core.th.x ∧ (s.pop i).core.th.v = s.core.th.v ∧ (s.pop i).core.th.p = s.core.th.p
    ∧ (s.pop i).core.th.csr = { s.core.th.csr with pts := (s.pop i).core.th.csr.pts }
    ∧ s.core.th.csr.pts ≤ (s.pop i).core.th.csr.pts ∧ (s.pop i).core.th.pc = s.core.th.pc ∧ (s.pop i).todo = s.todo
    ∧ (s.pop i).done = s.done

/-- A result that lands (R45, R106, R204) in a thread whose register files are in canonical form: its scalar register reads
the value and every other register as before; its predicate register takes the bits under the mask and keeps the others; its
vector register takes each active lane and keeps each inactive one; the flags of the result are ORed into VFLAGS; memory, the
pc and the other CSRs stay; a result that an error has struck leaves its register poisoned, and a whole one that none has
struck clears the poison of a scalar register (R361). A scalar result of d and latency n enters flight as that landing with n
cycles to go, pending where its operation had slipped; one for x0 enters nothing; one for a link port enters as a push, and in
a foldable task as a message in the hold queue. -/
def Obligations.ResultsLandInTheirRegister : Prop :=
  (∀ (s : State) (l : Landing) (n : Nat) (v : Word), l.dest = .x n v → swf 0 s.core.th.x = true →
    (∀ j, sget 0 (s.landOne l).core.th.x j = if j = n then v else sget 0 s.core.th.x j)
    ∧ (s.landOne l).core.th.v = s.core.th.v ∧ (s.landOne l).core.th.p = s.core.th.p
    ∧ (l.bad = false → (0, n) ∉ (s.landOne l).core.th.rpoison))
  ∧ (∀ (s : State) (l : Landing) (r : Nat × Nat), l.bad = true → l.dest.reg = some r → r ∈ (s.landOne l).core.th.rpoison)
  ∧ (∀ (s : State) (l : Landing) (n : Nat) (v m : PReg), l.dest = .p n v m → swf 0 s.core.th.p = true →
    (∀ j k, (sget 0 (s.landOne l).core.th.p j).getLsbD k =
      if j = n ∧ m.getLsbD k = true then v.getLsbD k else (sget 0 s.core.th.p j).getLsbD k)
    ∧ (s.landOne l).core.th.v = s.core.th.v ∧ (s.landOne l).core.th.x = s.core.th.x)
  ∧ (∀ (s : State) (l : Landing) (n : Nat) (v : VReg) (g : PReg), l.dest = .v n v (laneMask g) → swf 0 s.core.th.v = true →
    (∀ j k, k < 64 → lane (sget 0 (s.landOne l).core.th.v j) k =
      if j = n ∧ g.getLsbD k = true then lane v k else lane (sget 0 s.core.th.v j) k)
    ∧ (s.landOne l).core.th.x = s.core.th.x ∧ (s.landOne l).core.th.p = s.core.th.p)
  ∧ (∀ (s : State) (l : Landing), (∀ n op v, l.dest ≠ .csr n op v) → (∀ g on, l.dest ≠ .member g on) →
    (s.landOne l).core.th.csr = { s.core.th.csr with vflags := s.core.th.csr.vflags ||| l.flg })
  ∧ (∀ (s : State) (l : Landing), (s.landOne l).core.spad = s.core.spad ∧ (s.landOne l).pkg.hbm = s.pkg.hbm
    ∧ (s.landOne l).core.th.pc = s.core.th.pc
    ∧ ((∀ tid w v, l.dest = .snap tid w v → tid = s.core.th.tid) → (s.landOne l).todo = s.todo ∧ (s.landOne l).done = s.done))
  ∧ ∀ (s : State) (lat d : Nat) (v : Word),
    (s.putX lat 0 v = s)
    ∧ (d ≠ 0 → d < 57 → (s.putX lat d v).core.th.inflight = s.core.th.inflight ++
      [{ remain := lat, seq := s.core.env.seq, flg := 0, pend := s.core.env.served.isSome, dest := .x (physX s.rrb d) v }])
    ∧ (57 ≤ d → d ≤ 60 → s.core.th.task.foldable = false → (s.putX lat d v).core.th.inflight = s.core.th.inflight ++
      [{ remain := lat, seq := s.core.env.seq, flg := 0, pend := s.core.env.served.isSome, dest := .push (d - 57) v }])
    ∧ (57 ≤ d → d ≤ 60 → s.core.th.task.foldable = true → ∀ ch, s.portChan d = some ch →
      s.putX lat d v = s.hold (.message ch (leBytes v.toNat 4)))

/-- When the results of a cycle land, a scalar register holds the value of the landing that is latest in program order among
those due that name it, and what it held before where none does (R204), register files in canonical form and each landing with
a place of its own in program order. A result that is not due stays in flight. -/
def Obligations.LaterBundleWinsALandingCycle : Prop := ∀ (s : State) (n : Nat), swf 0 s.core.th.x = true →
  (s.core.th.inflight.map (·.seq)).Nodup →
  (∀ l ∈ s.core.th.inflight, ∀ v, l.remain = 0 → l.dest = .x n v →
    (∀ e ∈ s.core.th.inflight, e.remain = 0 → (∃ w, e.dest = .x n w) → e.seq ≤ l.seq) →
    sget 0 s.landDue.core.th.x n = v)
  ∧ ((∀ e ∈ s.core.th.inflight, e.remain = 0 → ∀ w, e.dest ≠ .x n w) → sget 0 s.landDue.core.th.x n = sget 0 s.core.th.x n)
  ∧ s.landDue.core.th.inflight = s.core.th.inflight.filter (·.remain ≠ 0)

/-- A register operation (scalar or predicate, CSR access, query, loops, or vector arithmetic, compare, reduction, movement or
conversion) presented at issue, in a mode that allows it and with its ports in order, whose guard is not pending and does not
suppress it: with a pending source it slips with code 2, and with no pending source but a pending destination with code 3
(R205, R206). A slip takes an entry of the slot's buffer with the operation, the operands read, the fields still pending, and
what it samples at its issue; it stalls the bundle where the buffer holds four entries or the vector holders of all entries
would exceed two (R209). A held effect of a foldable task takes its hold entry with its slip (R18, R192); that a command does
so for the time being where its block as it stands, or a block whose address is pending, makes a signal (log entry 121), and
that a pending vector source has its holder from issue on (log entry 127), are the model's choices. -/
def Obligations.PendingSourcesSlip : Prop :=
  (∀ (i : Instr) (s : State), registerOp i = true →
    s.core.env.served = none → forbiddenIn s.core.th.mode i = false → Role.g ∉ s.pendSrcs i →
    suppressedBy i (s.srcP (shape i).g) = false → s.portTrap i = none → s.portStall i = false →
    s.pushHold i (s.opnds i) = none →
    (s.pendSrcs i ≠ [] → exec i s = .next (s.slip i (s.opnds i) 2 (s.pendSrcs i) true [] none))
    ∧ (s.pendSrcs i = [] → s.pendDest i = true → exec i s = .next (s.slip i (s.opnds i) 3 [] true [] none)))
  ∧ ∀ (i : Instr) (s : State) (o : Opnds) (why : Nat) (pend : List Role) (ck : Bool) (pl : Option Place),
    let r := s.slip i o why pend ck [] pl
    let free := s.core.th.slips.countP (·.slot = s.core.env.slot) < 4
    (¬ free → r = s.mark .stalled)
    ∧ ((shape i).vs ≠ [] → 2 < (s.core.th.slips.map fun e => (shape e.instr).vs.length).sum + (shape i).vs.length → r = s.mark .stalled)
    ∧ (free → (shape i).vs = [] → s.core.th.task.foldable = false →
      r = ((s.pop i).updTh fun t =>
        { t with slips := t.slips ++
          [{ slot := s.core.env.slot, why, seq := s.core.env.seq, ext := s.core.env.ext, sword := s.core.env.sword,
             baddr := s.core.th.pc, rrb := s.core.th.csr.rrb, instr := i, ops := o, pend, lanes := [], part := 0,
             checked := ck, early := { s.takeEarly i with place := pl } }] }).mark (.slipped why))
    ∧ (free → (shape i).vs = [] → s.core.th.task.foldable = true → takesHold i = true → pend ≠ [] →
      (cmdFields i = none ∨ isCsig i = true ∨ Role.a ∈ pend ∨ (s.seen.word (o.xa.toNat + 52)).getLsbD 0 = true) →
      s.core.th.holdq.length < s.core.th.task.hold → Held.reserved s.core.env.seq ∈ r.core.th.holdq)

/-- Taking an exception in task mode with TRAPVEC.EN = 1, where no access is partly served, no CSR write is in flight, every
result has its stop point or later to land, and the event is not one that folds the task (R213 to R216): EPC holds the address
given, ECAUSE the cause and the subcause with bit 31 for an asynchronous fault, EVAL the value, ESTAT 1; the mode is handler
mode, the pc TRAPVEC[31:4] ‖ 0, and two cycles and the distance of the stop point pass without a bundle; every result in
flight and every slip entry is captured in the snapshot, the oldest first, with its remaining cycles or its place in SEQ, and
none is left; LC, EC and RRB are captured. Registers, scratchpad and HBM are unchanged. With TRAPVEC.EN = 0 the task ends as
faulted: it leaves its groups, and a launch whose record is not written and that has recorded no fault yet records this one,
with the cause and subcause and the task's id (R222); a task in handler mode ends as faulted with the cause likewise (R218).
-/
def Obligations.TrapEntrySavesAndEnters : Prop := ∀ (s : State) (t : Trap) (async : Bool) (epc : Word) (late : Nat),
  folds s t.cause = false →
  (∀ e ∈ s.core.th.slips, e.serving = false) → (∀ l ∈ s.core.th.inflight, l.isCsr = false ∧ late ≤ l.remain) →
  (s.core.th.mode = .task → s.core.th.csr.trapvec.getLsbD 0 = true → ∃ n,
    let r := s.takeTrap t async epc late
    r.core.th.csr = { s.core.th.csr with
      epc := epc, evalw := t.val, estat := 1,
      ecause := BitVec.ofNat 32 (t.sub % 256 * 256 + t.cause + (if async then 2 ^ 31 else 0)) }
    ∧ r.core.th.mode = .handler ∧ r.core.th.pc = s.core.th.csr.trapvec &&& 0xFFFFFFF0 ∧ r.core.th.bubble = 2 + late
    ∧ r.core.th.inflight = [] ∧ r.core.th.slips = [] ∧ r.core.th.snap = some n ∧ n.rpc = epc
    ∧ n.land = (sortBy Landing.older s.core.th.inflight).map (fun l => { l with remain := l.remain - late })
    ∧ n.slips.map (fun e => (e.seq, e.instr, e.ops, e.pend)) = (sortBy Slip.older s.core.th.slips).map (fun e => (e.seq, e.instr, e.ops, e.pend))
    ∧ n.slips.map (·.sq) = List.range s.core.th.slips.length ∧ n.nsl = s.core.th.slips.length
    ∧ n.rrb = s.core.th.csr.rrb ∧ n.lc = s.core.th.csr.lc ∧ n.ec = s.core.th.csr.ec
    ∧ r.core.th.x = s.core.th.x ∧ r.core.th.v = s.core.th.v ∧ r.core.th.p = s.core.th.p
    ∧ r.core.spad = s.core.spad ∧ r.pkg.hbm = s.pkg.hbm)
  ∧ (s.core.th.mode = .handler → ∃ fpc fva,
    s.takeTrap t async epc late = s.endFaulted (t.sub % 256 * 256 + t.cause) fpc fva)
  ∧ (s.core.th.mode = .task → s.core.th.csr.trapvec.getLsbD 0 = false →
    (s.takeTrap t async epc late).core.phase = .released ∧ (s.takeTrap t async epc late).core.th.inflight = []
    ∧ (s.takeTrap t async epc late).core.th.csr.gmask = 0
    ∧ (swf {} s.pkg.parts = true → ∀ l, s.getLaunch s.core.th.task.part s.core.th.task.slot = some l → l.recDone = false →
      l.faults = 0 → ∃ m, (s.takeTrap t async epc late).getLaunch s.core.th.task.part s.core.th.task.slot = some m
        ∧ m.cause = (t.sub % 256 * 256 + t.cause) % 65536 ∧ m.ftask = s.core.th.task.id ∧ m.faults = 1))

/-- A synchronous trap of the slot being presented is taken with EPC the address of its bundle and no delay, and the slot's
note names the cause, the subcause, EVAL and the faulting address, from which the step undoes the other slots of the bundle
(R19, R214). -/
def Obligations.BundleTrapsAreTakenAtTheBundle : Prop := ∀ (s : State) (t : Trap),
  (s.trapNow t).core.issue = .aborted t.cause t.sub t.val t.fva
  ∧ (s.trapNow t).core.th = (s.takeTrap t false s.core.th.pc 0).core.th
  ∧ (s.trapNow t).pkg = (s.takeTrap t false s.core.th.pc 0).pkg

/-- A task that goes on from a snapshot n whose entries are all legal, at a pc, k cycles from now and in a mode, with legal
engine work (R213, R219, R226): the pc and the mode are those, k − 1 cycles pass before its first bundle and before a slip
entry is presented again; LC, EC and RRB are the snapshot's; each captured result is in flight again with k cycles more to
land, and each captured slip entry is held again, in the order of SEQ; no snapshot is left. Where an entry is illegal, a task
with TRAPVEC.EN = 1 takes ILLOP at the resumption address before any entry lands, with ECAUSE[15:8] and EVAL 0 (the model's
choice, log entry 103), and has a snapshot again. -/
def Obligations.ResumptionRestoresTheSnapshot : Prop := ∀ (s : State) (pc : Word) (k : Nat) (m : Mode) (n : Snap),
  s.core.th.snap = some n →
  let mq := (s.core.th.mq ++ n.newM.map (·.2)).filter fun c => !c.dropped
  let cbuf := (s.core.th.cbuf ++ n.newC.map (·.2)).filter fun c => !c.dropped
  let r := s.resume pc k m
  (n.legal mq cbuf = false → m = .task → s.core.th.csr.trapvec.getLsbD 0 = true → (∀ e ∈ n.slips, e.serving = false) →
    (∀ l ∈ n.land, l.isCsr = false) →
    r.core.th.mode = .handler ∧ r.core.th.pc = s.core.th.csr.trapvec &&& 0xFFFFFFF0 ∧ r.core.th.csr.epc = n.rpc
    ∧ r.core.th.csr.ecause = 3 ∧ r.core.th.csr.evalw = 0 ∧ r.core.th.snap.isSome = true)
  ∧ (n.legal mq cbuf = true →
  r.core.th.pc = pc ∧ r.core.th.mode = m ∧ r.core.th.bubble = k - 1 ∧ r.core.th.frozen = k - 1 ∧ r.core.th.snap = none
  ∧ r.core.th.csr.lc = n.lc ∧ r.core.th.csr.ec = n.ec &&& 0x3F ∧ r.core.th.csr.rrb = rrbStore n.rrb
  ∧ r.core.th.inflight = s.core.th.inflight ++ (n.land.filter (·.valid)).map (fun l => { l with remain := l.remain + k })
  ∧ r.core.th.slips = s.core.th.slips ++ n.present
  ∧ n.present.map (fun e => (e.instr, e.why, e.pend)) =
      (sortBy (fun (a b : Slip) => a.sq < b.sq) (n.slips.filter (·.valid))).map (fun e => (e.instr, e.why, e.pend))
  ∧ r.core.th.cbuf = cbuf ∧ r.core.th.mq.map (·.instr) = mq.map (·.instr)
  ∧ r.core.th.x = s.core.th.x ∧ r.core.th.v = s.core.th.v ∧ r.core.th.p = s.core.th.p
  ∧ r.core.spad = s.core.spad ∧ r.pkg = s.pkg)

/-- Every FP32 arithmetic operation that acts puts its lanes in flight for V(D) with its latency (R108 to R111): lane i is
RNE32 of the exact sum, difference, product or fused sum of the lanes of its sources, or the quotient, root, reciprocal, power
or logarithm; vabs.f clears bit 31 and vneg.f inverts it, a NaN becoming the canonical one; vround.f and vtrunc.f round to an
integral value. Each active lane that is not finite raises NF besides. The special values of the functions are those of the
table of R110. Elsewhere a quotient and a reciprocal are the exact fraction rounded once; a square root and a reciprocal
square root are the finite code nearest to the exact root, with NX where its value is not exact; and a power or logarithm is
RNE32 of a fraction within 2^−90 of the exact value (2^−90 of its magnitude for a power), exact on an integral operand and on
a power of two (how near it is computed is the model's choice, log entry 11). -/
def Obligations.VectorFloatResults : Prop := (∀ g d a b : Nat,
  GivesLanes (.vaddF g d a b) 4 d (fun o _ k => withNF (finish32 ((f32 (lane o.va k)).add (f32 (lane o.vb k)))))
  ∧ GivesLanes (.vsubF g d a b) 4 d (fun o _ k => withNF (finish32 ((f32 (lane o.va k)).add (f32 (lane o.vb k)).neg)))
  ∧ GivesLanes (.vmulF g d a b) 5 d (fun o _ k => withNF (finish32 ((f32 (lane o.va k)).mul (f32 (lane o.vb k)))))
  ∧ GivesLanes (.vfmaF g d a b) 5 d (fun o _ k => withNF (fmaN (f32 (lane o.va k)) (f32 (lane o.vb k)) (f32 (lane o.vd k))))
  ∧ GivesLanes (.vfmsF g d a b) 5 d (fun o _ k => withNF (fmaN (f32 (lane o.va k)) (f32 (lane o.vb k)) (f32 (lane o.vd k)).neg))
  ∧ GivesLanes (.vfnmaF g d a b) 5 d (fun o _ k => withNF (fmaN (f32 (lane o.va k)).neg (f32 (lane o.vb k)) (f32 (lane o.vd k))))
  ∧ GivesLanes (.vdivF g d a b) 16 d (fun o _ k => withNF (divF (lane o.va k) (lane o.vb k)))
  ∧ GivesLanes (.vsqrtF g d a) 16 d (fun o _ k => withNF (sqrtF (lane o.va k)))
  ∧ GivesLanes (.vrsqrtF g d a) 8 d (fun o _ k => withNF (rsqrtF (lane o.va k)))
  ∧ GivesLanes (.vrcpF g d a) 8 d (fun o _ k => withNF (rcpF (lane o.va k)))
  ∧ GivesLanes (.vexp2F g d a) 8 d (fun o _ k => withNF (exp2F (lane o.va k)))
  ∧ GivesLanes (.vlog2F g d a) 8 d (fun o _ k => withNF (log2F (lane o.va k)))
  ∧ GivesLanes (.vabsF g d a) 2 d (fun o _ k => withNF (nanOr (f32 (lane o.va k)) (lane o.va k &&& 0x7FFFFFFF)))
  ∧ GivesLanes (.vnegF g d a) 2 d (fun o _ k => withNF (nanOr (f32 (lane o.va k)) (lane o.va k ^^^ 0x80000000)))
  ∧ GivesLanes (.vroundF g d a) 2 d (fun o _ k => withNF (match f32 (lane o.va k) with
      | .fin s p q => ((rne32 (.fin s (if q < 2 * (p % q) ∨ (2 * (p % q) = q ∧ p / q % 2 = 1) then p / q + 1 else p / q) 1)).1, 0)
      | x => nanOr x (lane o.va k)))
  ∧ GivesLanes (.vtruncF g d a) 2 d (fun o _ k => withNF (match f32 (lane o.va k) with
      | .fin s p q => ((rne32 (.fin s (p / q) 1)).1, 0)
      | x => nanOr x (lane o.va k))))
  ∧ (sqrtF 0 = (0, 0) ∧ sqrtF 0x80000000 = (0x80000000, 0) ∧ sqrtF 0x7F800000 = (0x7F800000, 0) ∧ sqrtF 0xFF800000 = (0x7FC00000, fNV))
  ∧ (rsqrtF 0 = (0x7F800000, fDZ) ∧ rsqrtF 0x80000000 = (0xFF800000, fDZ) ∧ rsqrtF 0x7F800000 = (0, 0)
    ∧ rsqrtF 0xFF800000 = (0x7FC00000, fNV))
  ∧ (rcpF 0 = (0x7F800000, fDZ) ∧ rcpF 0x80000000 = (0xFF800000, fDZ) ∧ rcpF 0x7F800000 = (0, 0) ∧ rcpF 0xFF800000 = (0x80000000, 0))
  ∧ (exp2F 0 = (0x3F800000, 0) ∧ exp2F 0x80000000 = (0x3F800000, 0) ∧ exp2F 0x7F800000 = (0x7F800000, 0) ∧ exp2F 0xFF800000 = (0, 0))
  ∧ (log2F 0 = (0xFF800000, fDZ) ∧ log2F 0x80000000 = (0xFF800000, fDZ) ∧ log2F 0x7F800000 = (0x7F800000, 0)
    ∧ log2F 0xFF800000 = (0x7FC00000, fNV))
  ∧ (∀ f ∈ [sqrtF, rsqrtF, rcpF, exp2F, log2F], ∀ a : Word, (f32 a).isNan = true → f a = (0x7FC00000, flagIf (f32 a).isSig fNV))
  ∧ (∀ (a b : Word) (s t : Bool) (p q u v : Nat),
    ((f32 a).isNan = true ∨ (f32 b).isNan = true → divF a b = (0x7FC00000, flagIf ((f32 a).isSig || (f32 b).isSig) fNV))
    ∧ (f32 a = .inf s → f32 b = .inf t → divF a b = (0x7FC00000, fNV))
    ∧ (f32 a = .inf s → f32 b = .fin t u v → divF a b = (if s = t then 0x7F800000 else 0xFF800000, 0))
    ∧ (f32 a = .fin s p q → f32 b = .inf t → divF a b = (if s = t then 0 else 0x80000000, 0))
    ∧ (f32 a = .fin s p q → f32 b = .fin t u v →
      (u ≠ 0 → divF a b = rne32 (.fin (s != t) (p * v) (q * u)))
      ∧ (u = 0 → p = 0 → divF a b = (0x7FC00000, fNV))
      ∧ (u = 0 → p ≠ 0 → divF a b = (if s = t then 0x7F800000 else 0xFF800000, fDZ)))
    ∧ (f32 a = .fin s p q → p ≠ 0 → rcpF a = rne32 (.fin s q p))
    ∧ (f32 a = .fin true p q → p ≠ 0 → sqrtF a = (0x7FC00000, fNV) ∧ rsqrtF a = (0x7FC00000, fNV) ∧ log2F a = (0x7FC00000, fNV)))
  ∧ (∀ (a : Word) (p q : Nat), f32 a = .fin false p q → p ≠ 0 → ∀ r ∈ [(sqrtF a, Real.sqrt (p / q)), (rsqrtF a, 1 / Real.sqrt (p / q))],
    ∃ c u v, c < 0x7F800000 ∧ decodeBin 8 23 c = .fin false u v ∧ r.1.1 = BitVec.ofNat 32 c
      ∧ (∀ c' u' v', c' < 0x7F800000 → decodeBin 8 23 c' = .fin false u' v' →
        |r.2 - (u : ℝ) / v| ≤ |r.2 - (u' : ℝ) / v'|)
      ∧ (r.2 = (u : ℝ) / v → r.1.2 = 0) ∧ (r.2 ≠ (u : ℝ) / v → r.1.2 = fNX))
  ∧ (∀ (a : Word) (s : Bool) (p q : Nat), f32 a = .fin s p q → p ≠ 0 → let x : ℝ := (if s then -1 else 1) * ((p : ℝ) / q)
    (p * 2 ^ 26 < q → exp2F a = (0x3F800000, fNX))
    ∧ (256 * q ≤ p → exp2F a = if s then (0, fUF ||| fNX) else (0x7F800000, fOF ||| fNX))
    ∧ (q ≤ p * 2 ^ 26 → p < 256 * q → ∃ n d, 0 < d ∧ exp2F a = rne32 (.fin false n d)
      ∧ |(n : ℝ) / d - (2 : ℝ) ^ x| ≤ (2 : ℝ) ^ x / 2 ^ 90 ∧ (q ∣ p → (n : ℝ) / d = (2 : ℝ) ^ x)))
  ∧ ∀ (a : Word) (p q : Nat), f32 a = .fin false p q → p ≠ 0 → ∃ (n : Int) (d : Nat), 0 < d
    ∧ log2F a = rne32 (.fin (n < 0) n.natAbs d) ∧ |(n : ℝ) / d - Real.logb 2 ((p : ℝ) / q)| ≤ 1 / 2 ^ 90
    ∧ (∀ k : Int, (p : ℝ) / q = (2 : ℝ) ^ k → (n : ℝ) / d = k)

/-- Whatever positive fraction p ÷ q is rounded to FP32 (R39): if it is at or above 2^128 × (1 − 2^−25), the code is that of
infinity with OF and NX, and otherwise a finite code whose value u ÷ v is at least as near to p ÷ q as that of every other
finite code, and even where another is as near; the rounding is exact, and raises no flag, exactly where the value is p ÷ q,
and otherwise raises NX, with UF where the code is below the smallest normal. -/
def Obligations.RoundingIsToNearestEven : Prop := ∀ (p q : Nat) (s : Bool), 0 < p → 0 < q →
  ((2 ^ 25 - 1) * 2 ^ 103 * q ≤ p → rne32 (.fin s p q) = (BitVec.ofNat 32 ((if s then 2 ^ 31 else 0) + 0x7F800000), fOF ||| fNX))
  ∧ (p < (2 ^ 25 - 1) * 2 ^ 103 * q → ∃ c u v, c < 0x7F800000 ∧ decodeBin 8 23 c = .fin false u v
    ∧ (rne32 (.fin s p q)).1 = BitVec.ofNat 32 ((if s then 2 ^ 31 else 0) + c)
    ∧ (∀ c' u' v', c' < 0x7F800000 → decodeBin 8 23 c' = .fin false u' v' →
      ((p * v : Nat) - (u * q : Nat) : Int).natAbs * v' ≤ ((p * v' : Nat) - (u' * q : Nat) : Int).natAbs * v
      ∧ (((p * v : Nat) - (u * q : Nat) : Int).natAbs * v' = ((p * v' : Nat) - (u' * q : Nat) : Int).natAbs * v →
        c' = c ∨ c % 2 = 0))
    ∧ (rne32 (.fin s p q)).2 = (if p * v = u * q then 0 else if c < 2 ^ 23 then fUF ||| fNX else fNX))

/-- The minimum and maximum of R41: where either operand is a NaN the result is the canonical NaN, with NV where one is
signalling; otherwise the smaller or the larger operand, with −0 below +0 and no flag. vmin.f and vmax.f put these lanes in
flight with latency 2 (R111). -/
def Obligations.MinimaAndMaximaPropagateNaN : Prop := ∀ g d a b : Nat,
  let pick := fun (x y : Word) (second : Bool) =>
    if (f32 x).isNan || (f32 y).isNan then ((0x7FC00000 : Word), flagIf ((f32 x).isSig || (f32 y).isSig) fNV)
    else (if second then y else x, 0)
  GivesLanes (.vminF g d a b) 2 d (fun o _ k => withNF (pick (lane o.va k) (lane o.vb k)
    (numLt (f32 (lane o.vb k)) (f32 (lane o.va k)) || (lane o.va k = 0 && lane o.vb k = 0x80000000))))
  ∧ GivesLanes (.vmaxF g d a b) 2 d (fun o _ k => withNF (pick (lane o.va k) (lane o.vb k)
    (numLt (f32 (lane o.va k)) (f32 (lane o.vb k)) || (lane o.va k = 0x80000000 && lane o.vb k = 0))))

/-- The lanewise integer operations of R115: wherever one acts, its lanes enter flight for V(D) with the result and the
latency of the table and no flag; shift counts are bits 4 to 0 of the lane of V(B), sums and products wrap. The integer
compares of R116 put the bit of each lane's relation in flight for P(D) with latency 2 and no flag, merged under the guard.
-/
def Obligations.VectorIntegerResults : Prop := ∀ g d a b : Nat,
  GivesLanes (.vaddI g d a b) 2 d (fun o _ k => (lane o.va k + lane o.vb k, 0))
  ∧ GivesLanes (.vsubI g d a b) 2 d (fun o _ k => (lane o.va k - lane o.vb k, 0))
  ∧ GivesLanes (.vmulI g d a b) 4 d (fun o _ k => (lane o.va k * lane o.vb k, 0))
  ∧ GivesLanes (.vmulhI g d a b) 4 d (fun o _ k =>
      ((((lane o.va k).signExtend 64 * (lane o.vb k).signExtend 64) >>> 32).truncate 32, 0))
  ∧ GivesLanes (.vand g d a b) 2 d (fun o _ k => (lane o.va k &&& lane o.vb k, 0))
  ∧ GivesLanes (.vor g d a b) 2 d (fun o _ k => (lane o.va k ||| lane o.vb k, 0))
  ∧ GivesLanes (.vxor g d a b) 2 d (fun o _ k => (lane o.va k ^^^ lane o.vb k, 0))
  ∧ GivesLanes (.vshl g d a b) 2 d (fun o _ k => (lane o.va k <<< ((lane o.vb k).toNat % 32), 0))
  ∧ GivesLanes (.vshr g d a b) 2 d (fun o _ k => (lane o.va k >>> ((lane o.vb k).toNat % 32), 0))
  ∧ GivesLanes (.vsar g d a b) 2 d (fun o _ k => ((lane o.va k).sshiftRight ((lane o.vb k).toNat % 32), 0))
  ∧ GivesLanes (.vminI g d a b) 2 d (fun o _ k => (if (lane o.vb k).toInt < (lane o.va k).toInt then lane o.vb k else lane o.va k, 0))
  ∧ GivesLanes (.vmaxI g d a b) 2 d (fun o _ k => (if (lane o.va k).toInt < (lane o.vb k).toInt then lane o.vb k else lane o.va k, 0))
  ∧ GivesLanes (.vminuI g d a b) 2 d (fun o _ k => (if (lane o.vb k).toNat < (lane o.va k).toNat then lane o.vb k else lane o.va k, 0))
  ∧ GivesLanes (.vmaxuI g d a b) 2 d (fun o _ k => (if (lane o.va k).toNat < (lane o.vb k).toNat then lane o.vb k else lane o.va k, 0))
  ∧ GivesBits (.vieq g d a b) d (fun o k => (decide (lane o.va k = lane o.vb k), 0))
  ∧ GivesBits (.vilt g d a b) d (fun o k => (decide ((lane o.va k).toInt < (lane o.vb k).toInt), 0))
  ∧ GivesBits (.viltu g d a b) d (fun o k => (decide ((lane o.va k).toNat < (lane o.vb k).toNat), 0))

/-- The FP32 compares: each decodes from its OP6 with D of kind p and A and B of kind v; bit i of P(D) holds the relation of
the exact values of the lanes; the zeros are equal, and a NaN makes vfne and vfun true and the others false. NV comes with a
signalling NaN, and in vflt and vfle with any NaN, and no other flag. The bits enter flight with latency 2 and are merged
under the guard. A result for p0 changes no predicate and still raises its flags when it lands. -/
def Obligations.VectorCompares : Prop := ∀ g d a b : Nat,
  let x := fun (o : Opnds) k => f32 (lane o.va k)
  let y := fun (o : Opnds) k => f32 (lane o.vb k)
  let un := fun o k => (x o k).isNan || (y o k).isNan
  let sig := fun o k => flagIf ((x o k).isSig || (y o k).isSig) fNV
  let inv := fun o k => flagIf (un o k) fNV
  GivesBits (.vfeq g d a b) d (fun o k => (!un o k && !numLt (x o k) (y o k) && !numLt (y o k) (x o k), sig o k))
  ∧ GivesBits (.vfne g d a b) d (fun o k => (un o k || numLt (x o k) (y o k) || numLt (y o k) (x o k), sig o k))
  ∧ GivesBits (.vflt g d a b) d (fun o k => (numLt (x o k) (y o k), inv o k))
  ∧ GivesBits (.vfle g d a b) d (fun o k => (!un o k && !numLt (y o k) (x o k), inv o k))
  ∧ GivesBits (.vfun g d a b) d (fun o k => (un o k, sig o k))
  ∧ (g < 16 → d < 64 → a < 63 → b < 63 →
    ∀ r ∈ [(0x10, Instr.vfeq g d a b), (0x11, .vfne g d a b), (0x12, .vflt g d a b), (0x13, .vfle g d a b), (0x14, .vfun g d a b)],
      decodeSlot none (6 * 2 ^ 28 + g * 2 ^ 24 + r.1 * 2 ^ 18 + d * 2 ^ 12 + a * 2 ^ 6 + b) = .ok r.2)
  ∧ ∀ (s : State) (l : Landing) (v m : PReg), l.dest = .p 0 v m → swf 0 s.core.th.p = true →
    (∀ n, (s.landOne l).core.th.rp n = s.core.th.rp n) ∧ (s.landOne l).core.th.csr.vflags = s.core.th.csr.vflags ||| l.flg

/-- The reductions of R46, R114 and R116: each active lane enters with its value and each inactive one with the identity, −0
for vsum.f, −inf for vmaxr.f, +inf for vminr.f and 0 for vsum.i; six levels combine neighbours, and lane 0 of the result is
theirs and every other lane 0, under the guard, with the flags of all combinations and NF where an active lane 0 is not
finite. A guard of all zeros raises nothing. The sum of vsum.i is the sum modulo 2^32 of the active lanes. -/
def Obligations.VectorReductions : Prop := ∀ g d a : Nat,
  (∀ r ∈ [(Instr.vsumF g d a, addF, (0x80000000 : Word)), (.vmaxrF g d a, minmaxF true, 0xFF800000),
      (.vminrF g d a, minmaxF false, 0x7F800000)], ∀ s o t, Acts r.1 s o t → ∃ (v : VReg) (f : Flags) (w : Nat → Nat → Word × Flags),
    (∀ k, k < 64 → w 0 k = (if o.g.getLsbD k then lane o.va k else r.2.2, 0))
    ∧ (∀ l k, l < 6 → k < 2 ^ (5 - l) → w (l + 1) k = ((r.2.1 (w l (2 * k)).1 (w l (2 * k + 1)).1).1,
        (r.2.1 (w l (2 * k)).1 (w l (2 * k + 1)).1).2 ||| (w l (2 * k)).2 ||| (w l (2 * k + 1)).2))
    ∧ (∀ k, k < 64 → lane v k = if k = 0 then (w 6 0).1 else 0)
    ∧ f = (if o.g = 0 then 0 else (w 6 0).2 ||| if o.g.getLsbD 0 then nfOf (w 6 0).1 else 0)
    ∧ exec r.1 s = .next (t.putV 7 d v (laneMask o.g) f))
  ∧ ∀ s o t, Acts (.vsumI g d a) s o t → ∃ v : VReg,
    (∀ k, k < 64 → lane v k = if k = 0 then BitVec.ofNat 32 (((List.range 64).map fun j => if o.g.getLsbD j then (lane o.va j).toNat else 0).sum) else 0)
    ∧ exec (.vsumI g d a) s = .next (t.putV 5 d v (laneMask o.g) 0)

/-- vsel takes each lane from V(A) or V(B) by the guard and writes all lanes (R113); vbcast, vperm, vrot and vid give the
lanes of R117, their indices modulo 64; vgetl gives the scalar the selected lane, and does nothing where its guard bit is 0;
vsetl writes X(A) to the selected lane alone, where its guard bit is 1. Bits move unchanged and no flag is raised. -/
def Obligations.LaneMovementResults : Prop := ∀ g d a b : Nat,
  (∀ s o t, Acts (.vsel g d a b) s o t → ∃ v : VReg,
    (∀ k, k < 64 → lane v k = if o.g.getLsbD k then lane o.va k else lane o.vb k) ∧ exec (.vsel g d a b) s = .next (t.putV 1 d v (-1) 0))
  ∧ GivesLanes (.vbcast g d a) 2 d (fun o _ _ => (o.xa, 0))
  ∧ GivesLanes (.vperm g d a b) 3 d (fun o _ k => (lane o.va ((lane o.vb k).toNat % 64), 0))
  ∧ GivesLanes (.vrot g d a b) 3 d (fun o _ k => (lane o.va ((k + o.xb.toNat) % 64), 0))
  ∧ GivesLanes (.vid g d) 2 d (fun _ _ k => (BitVec.ofNat 32 k, 0))
  ∧ Gives (.vgetl g d a b) (fun o t => if o.g.getLsbD (o.xb.toNat % 64) then t.putX 3 d (lane o.va (o.xb.toNat % 64)) else t)
  ∧ ∀ s o t, Acts (.vsetl g d a b) s o t → ∃ v m : VReg,
    (∀ k, k < 64 → lane v k = o.xa ∧ lane m k = if k = o.xb.toNat % 64 ∧ o.g.getLsbD k = true then 0xFFFFFFFF else 0)
    ∧ exec (.vsetl g d a b) s = .next (t.putV 3 d v m 0)

/-- vcvt.fi and vtrunc.i give the clamped integer with NV and NX, vcvt.if RNE32 of the integer (R49, R118). A packing of width
w writes element j of its part, at bits 64·w·part + w·j, with the scaled encode of lane j under entry k of the scale table in
force at its issue, that of the bundle before the last, where guard bit j is 1, and no other bit, with the flags of the
elements written (R64, R119, R120); an unpacking gives lane j the FP32 value of element j of its part, with NF where it is not
finite (R121). -/
def Obligations.ConversionAndPackingResults : Prop := ∀ g d a q k : Nat,
  GivesLanes (.vcvtFi g d a) 3 d (fun o _ j => let r := toInt 32 false (f32 (lane o.va j)); (BitVec.ofNat 32 r.1, r.2))
  ∧ GivesLanes (.vtruncI g d a) 3 d (fun o _ j => let r := toInt 32 true (f32 (lane o.va j)); (BitVec.ofNat 32 r.1, r.2))
  ∧ GivesLanes (.vcvtIf g d a) 3 d (fun o _ j => rne32 (ofInt (lane o.va j).toInt))
  ∧ (∀ r ∈ [(Instr.vpackBf g d a q k, 16, 3, 2), (.vpackH g d a q k, 16, 4, 2), (.vpackD8 g d a q k, 8, 1, 4), (.vpackI8 g d a q k, 8, 2, 4)],
    q < r.2.2.2 → ∀ s o t, Acts r.1 s o t → ∃ v m : VReg,
      (∀ j i, j < 64 → i < r.2.1 →
        v.getLsbD (64 * r.2.1 * q + r.2.1 * j + i) = bit (scaledEncode r.2.2.1 (lane o.va j) (t.packScale k)).1 i)
      ∧ (∀ i, i < 2048 → m.getLsbD i =
        (decide (64 * r.2.1 * q ≤ i ∧ i < 64 * r.2.1 * (q + 1)) && o.g.getLsbD ((i - 64 * r.2.1 * q) / r.2.1)))
      ∧ exec r.1 s = .next (t.putV 3 d v m (laneFlags o.g ((List.range 64).map fun j =>
          ((0 : Word), (scaledEncode r.2.2.1 (lane o.va j) (t.packScale k)).2)))))
  ∧ (∀ s : State, s.packScale k =
      scaleAt (if s.core.env.served.isSome then s.core.env.early.scaleV else s.thBefore.scaleV) k)
  ∧ ∀ r ∈ [(Instr.vunpkBf g d a q, 16, 3), (.vunpkH g d a q, 16, 4), (.vunpkD8 g d a q, 8, 1), (.vunpkI8 g d a q, 8, 2)],
    GivesLanes r.1 3 d (fun o _ j =>
      let w := (rne32 (elemVal r.2.2 ((o.va >>> (64 * r.2.1 * q + r.2.1 * j)).toNat % 2 ^ r.2.1))).1
      (w, nfOf w))

/-- vprn.24 and vprn.48 keep the 2 of 4 or 4 of 8 lanes of largest magnitude, ties to the lower lane, move them down in order,
write zeros above and the mask to P(B), both under the guard (R147); vexpd puts lane j of V(A) at the position of the j-th set
bit of its guard and +0 elsewhere; vsdot adds to lane 0 of V(V) the tree sum of the products of the lanes of V(A) with the
lanes of V(B) at those positions (R148); vdot4.i8 adds four signed byte products, wrapping, and vdot2.bf two BF16 products,
exact and rounded once, with NV wherever its result is a NaN (R149). -/
def Obligations.PruningAndDotResults : Prop := ∀ g v a b : Nat,
  let place := fun (m : PReg) (i : Nat) => ((List.range i).filter m.getLsbD).length
  (∀ r ∈ [(Instr.vprn24 g v a b, 4, 2), (.vprn48 g v a b, 8, 4)], ∀ s o t, Acts r.1 s o t → ∃ (w : VReg) (m : PReg),
    (∀ i, i < 64 → m.getLsbD i = decide (((List.range r.2.1).countP fun k =>
        let j := i / r.2.1 * r.2.1 + k
        (lane o.va i).toNat % 2 ^ 31 < (lane o.va j).toNat % 2 ^ 31
          || ((lane o.va i).toNat % 2 ^ 31 = (lane o.va j).toNat % 2 ^ 31 && j < i)) < r.2.2))
    ∧ (∀ i, i < 64 → m.getLsbD i = true → lane w (place m i) = lane o.va i) ∧ (∀ j, 32 ≤ j → j < 64 → lane w j = 0)
    ∧ exec r.1 s = .next ((t.putV 4 v w (laneMask o.g) 0).putP 4 b m o.g 0))
  ∧ (∀ s o t, Acts (.vexpd g v a) s o t → ∃ w : VReg,
    (∀ i, i < 64 → lane w i = if o.g.getLsbD i then lane o.va (place o.g i) else 0)
    ∧ exec (.vexpd g v a) s = .next (t.putV 4 v w (-1) 0))
  ∧ (∀ s o t, Acts (.vsdot g v a b) s o t → ∃ (w : VReg) (p : List (Word × Flags)), p.length = 64
    ∧ (∀ i, i < 64 → o.g.getLsbD i = true → p[place o.g i]? = some (mulF (lane o.va (place o.g i)) (lane o.vb i)))
    ∧ (∀ j, place o.g 64 ≤ j → j < 64 → p[j]? = some (0x80000000, 0))
    ∧ (∀ k, k < 64 → lane w k = if k = 0 then (addF (lane o.vd 0) (tree addF 6 p).1).1 else 0)
    ∧ exec (.vsdot g v a b) s = .next (t.putV 8 v w (-1) ((tree addF 6 p).2
        ||| (addF (lane o.vd 0) (tree addF 6 p).1).2 ||| nfOf (addF (lane o.vd 0) (tree addF 6 p).1).1)))
  ∧ GivesLanes (.vdot4I8 g v a b) 4 v (fun o _ k =>
      let x := fun (w : Word) j => ((w >>> (8 * j)).truncate 8 : BitVec 8).toInt
      (lane o.vd k + BitVec.ofInt 32 (((List.range 4).map fun j => x (lane o.va k) j * x (lane o.vb k) j).sum), 0))
  ∧ GivesLanes (.vdot2Bf g v a b) 5 v (fun o _ k =>
      let x := fun (w : Word) j => decodeBin 8 7 (w.toNat / 2 ^ (16 * j) % 65536)
      let r := ((f32 (lane o.vd k)).add (((x (lane o.va k) 0).mul (x (lane o.vb k) 0)).1.add
        ((x (lane o.va k) 1).mul (x (lane o.vb k) 1)).1).1).1
      withNF ((rne32 r).1, (rne32 r).2 ||| flagIf r.isNan fNV))

/-- For each of sel, vsel, vsdot and vexpd, and every value of the guard predicate: it is not suppressed; lane 0 selects
between X(A) and X(B), each lane selects between V(A) and V(B), and the guard is the keep mask of the compacted operand and of
the re-expansion. Where the operation acts, exec answers a next state with a result of that choice in flight. -/
def Obligations.GuardsThatAreOperands : Prop := ∀ (g d a b : Nat),
  (∀ i ∈ [Instr.sel g d a b, .vsel g d a b, .vsdot g d a b, .vexpd g d a], ∀ p : PReg, suppressedBy i p = false)
  ∧ (∀ s o t, Acts (.sel g d a b) s o t → exec (.sel g d a b) s = .next (t.putX 1 d (bif o.g.getLsbD 0 then o.xa else o.xb)))
  ∧ (∀ s o t, Acts (.vsel g d a b) s o t → ∃ v : VReg, (∀ k, k < 64 → lane v k = bif o.g.getLsbD k then lane o.va k else lane o.vb k)
    ∧ exec (.vsel g d a b) s = .next (t.putV 1 d v (-1) 0))
  ∧ (∀ s o t, Acts (.vsdot g d a b) s o t → ∃ (v : VReg) (f : Flags) (p : List (Word × Flags)), p.length = 64
    ∧ (∀ i j, i < 64 → o.g.getLsbD i = true → ((List.range i).filter o.g.getLsbD).length = j →
      p[j]? = some (mulF (lane o.va j) (lane o.vb i)))
    ∧ (∀ j, ((List.range 64).filter o.g.getLsbD).length ≤ j → j < 64 → p[j]? = some (0x80000000, 0))
    ∧ lane v 0 = (addF (lane o.vd 0) (tree addF 6 p).1).1 ∧ exec (.vsdot g d a b) s = .next (t.putV 8 d v (-1) f))
  ∧ (∀ s o t, Acts (.vexpd g d a) s o t → ∃ v : VReg,
    (∀ i j, i < 64 → o.g.getLsbD i = true → ((List.range i).filter o.g.getLsbD).length = j → lane v i = lane o.va j)
    ∧ (∀ i, i < 64 → o.g.getLsbD i = false → lane v i = 0)
    ∧ exec (.vexpd g d a) s = .next (t.putV 4 d v (-1) 0))

/-- A scalar load whose address X(A) + k × size is aligned, in the scratchpad and the grant, in a region that its task may
touch, unpoisoned and with no unjoined write of the other view, and whose bank serves it, puts the little-endian bytes from
before the bundle, extended by its kind, in flight for X(D) with latency 3 (R125 to R128). ldf and ldfe act once the word is
full, before the bundle and now, on the word from before the bundle, and ldfe empties it; else they slip with code 1 (R127,
R129, R205). A load changes nothing else but the tag of the region and the timestamps of R248. A misaligned address traps
ALIGN, one beyond the scratchpad SPRANGE 1, one beyond the grant BUDGET 1. That a waiting load looks at the full bit before
its bundle and now (log entry 102), and that ldfe counts as a load and a write of its group (log entry 26), are the model's
choices. -/
def Obligations.ScalarLoadResults : Prop := ∀ (g d a : Nat) (k : Int),
  (∀ r ∈ [(Instr.ldW g d a k, 4, fun v => BitVec.ofNat 32 v), (.ldH g d a k, 2, fun v => (BitVec.ofNat 16 v).signExtend 32),
      (.ldHu g d a k, 2, fun v => BitVec.ofNat 32 v), (.ldB g d a k, 1, fun v => (BitVec.ofNat 8 v).signExtend 32),
      (.ldBu g d a k, 1, fun v => BitVec.ofNat 32 v)],
    (∀ s o t x, x = o.xa + BitVec.ofInt 32 (k * (r.2.1 : Nat)) → ActsOn r.1 s [(0, x.toNat)] o t → reaches s x r.2.1 →
      s.seen.bad x.toNat = false → joined s x.toNat →
      exec r.1 s = .next ((t.readAt x.toNat).putX 3 d (r.2.2 (leGet s.seen.mem x.toNat r.2.1))))
)
  ∧ (∀ r ∈ [(Instr.ldW g d a k, 4), (.ldH g d a k, 2), (.ldHu g d a k, 2), (.ldB g d a k, 1), (.ldBu g d a k, 1), (.ldf g d a k, 4),
      (.ldfe g d a k, 4)], ∀ s x, clearToAct r.1 s = true → x = (s.opnds r.1).xa + BitVec.ofInt 32 (k * (r.2 : Nat)) →
    (x.toNat % r.2 ≠ 0 → exec r.1 s = .next (s.trapNow (mkTrap 7 0 x)))
    ∧ (x.toNat % r.2 = 0 → 0x100000 ≤ x.toNat → exec r.1 s = .next (s.trapNow (mkTrap 6 1 x)))
    ∧ (x.toNat % r.2 = 0 → x.toNat < 0x100000 → s.core.th.task.spad * 65536 < x.toNat + r.2 →
      exec r.1 s = .next (s.trapNow { cause := 0x0E, sub := 1, val := 0, fva := x.toNat })))
  ∧ (∀ s o t x, x = o.xa + BitVec.ofInt 32 (k * 4) → reaches s x 4 → s.seen.bad x.toNat = false →
    s.core.spad.full x.toNat = true → s.seen.full x.toNat = true →
    (ActsOn (.ldf g d a k) s [(0, x.toNat)] o t → exec (.ldf g d a k) s =
      .next ((t.readAt x.toNat).putX 3 d (BitVec.ofNat 32 (leGet s.seen.mem x.toNat 4))))
    ∧ (ActsOn (.ldfe g d a k) s [(0, x.toNat)] o t → exec (.ldfe g d a k) s =
      .next ((((t.readAt x.toNat).setFull x.toNat false).dirWriteStamp x.toNat).putX 3 d
        (BitVec.ofNat 32 (leGet s.seen.mem x.toNat 4)))))
  ∧ (∀ s x, ∀ i ∈ [Instr.ldf g d a k, .ldfe g d a k], clearToAct i s = true → x = (s.opnds i).xa + BitVec.ofInt 32 (k * 4) →
    reaches s x 4 → s.seen.bad x.toNat = false → s.core.spad.full x.toNat = false ∨ s.seen.full x.toNat = false →
    exec i s = .next (s.slip i (s.opnds i) 1 [] true [] none))
  ∧ (∀ (t : State) (x : Nat), StoresOnly t (t.readAt x) (fun _ => False)
    ∧ (t.readAt x).core.th.csr.pts = max t.core.th.csr.pts (sget 0 t.core.spad.wts (x / 64)))

/-- A scalar store to X(A) + k × size that passes its checks and is served, in a scratchpad in canonical form, writes the low
bytes of X(D) there, little-endian, and no other byte: every byte outside reads as before, and every register, CSR, descriptor
and byte of HBM is as it was but for the pts, the timestamps and region tags, what the linear view notes, and the watchdog of
the context, which restarts (R127, R128, R248, R290). stef acts once the word is empty, slipping with code 1 until then, and
it and stf set the full bit of the word; clrf clears it and stores nothing (R129). A misaligned address traps ALIGN, one
beyond the scratchpad SPRANGE 1, one beyond the grant BUDGET 1 (R125). -/
def Obligations.ScalarStoreResults : Prop := ∀ (g d a : Nat) (k : Int),
  (∀ r ∈ [(Instr.stW g d a k, 4), (.stH g d a k, 2), (.stB g d a k, 1)], ∀ s o t x,
    x = o.xa + BitVec.ofInt 32 (k * (r.2 : Nat)) → ActsOn r.1 s [(0, x.toNat)] o t → reaches s x r.2 → joined s x.toNat →
    swf 0 s.core.spad.mem = true →
    ∃ u, exec r.1 s = .next u ∧ leGet u.core.spad.mem x.toNat r.2 = o.xd.toNat % 2 ^ (8 * r.2)
      ∧ StoresOnly t u (fun b => x.toNat ≤ b ∧ b < x.toNat + r.2))
  ∧ (∀ s o t x, x = o.xa + BitVec.ofInt 32 (k * 4) → reaches s x 4 → joined s x.toNat → swf 0 s.core.spad.mem = true →
    ∀ i ∈ [Instr.stef g d a k, .stf g d a k], (i = .stef g d a k → s.core.spad.full x.toNat = false) →
    ActsOn i s [(0, x.toNat)] o t →
    ∃ u, exec i s = .next (u.withFull (sset false t.core.spad.fe (x.toNat / 4) true))
      ∧ leGet u.core.spad.mem x.toNat 4 = o.xd.toNat ∧ StoresOnly t u (fun b => x.toNat ≤ b ∧ b < x.toNat + 4))
  ∧ (∀ s x, clearToAct (.stef g d a k) s = true → x = (s.opnds (.stef g d a k)).xa + BitVec.ofInt 32 (k * 4) → reaches s x 4 →
    s.core.spad.full x.toNat = true → exec (.stef g d a k) s = .next (s.slip (.stef g d a k) (s.opnds (.stef g d a k)) 1 [] true [] none))
  ∧ (∀ r ∈ [(Instr.stW g d a k, 4), (.stH g d a k, 2), (.stB g d a k, 1), (.stef g d a k, 4), (.stf g d a k, 4), (.clrf g a k, 4)],
    ∀ s x, clearToAct r.1 s = true → x = (s.opnds r.1).xa + BitVec.ofInt 32 (k * (r.2 : Nat)) →
    (x.toNat % r.2 ≠ 0 → exec r.1 s = .next (s.trapNow (mkTrap 7 0 x)))
    ∧ (x.toNat % r.2 = 0 → 0x100000 ≤ x.toNat → exec r.1 s = .next (s.trapNow (mkTrap 6 1 x)))
    ∧ (x.toNat % r.2 = 0 → x.toNat < 0x100000 → s.core.th.task.spad * 65536 < x.toNat + r.2 →
      exec r.1 s = .next (s.trapNow { cause := 0x0E, sub := 1, val := 0, fva := x.toNat })))
  ∧ ∀ s o t x, x = o.xa + BitVec.ofInt 32 (k * 4) → reaches s x 4 → ActsOn (.clrf g a k) s [(0, x.toNat)] o t →
    ∃ u, exec (.clrf g a k) s = .next (u.withFull (sset false t.core.spad.fe (x.toNat / 4) false)) ∧ StoresOnly t u (fun _ => False)

/-- A vector load whose active lanes pass their checks and are served puts a vector in flight for V(V) in which each active
lane holds the word from before the bundle at its address: X(A) + 256 k + 4 i, X(A) + i × X(B), or X(A) + lane i of V(B), with
latency 4, 4 and 6, and changes nothing but tags and timestamps (R142). vldf takes the words from before the bundle once all
are full, then and now, and empties them (R143). vldd reads a run of 64 elements of its first descriptor's width, whose blocks
all have that width: lane i is element i decoded under the format and scale of its own block, with latency 6 and the flags of
the active lanes (R60, R63, R145). Where a load is presented at issue with nothing else in its way, the lowest active lane
that fails a check decides: ALIGN, SPRANGE 1 or BUDGET 1 with its address; vldd traps ALIGN, SPRANGE 1, BADDESC by its first
descriptor, SPRANGE 2 and BUDGET 1 in this order (R125, R142, R145). That vldf looks at the full bits before its bundle and
now is the model's choice (log entry 102). -/
def Obligations.VectorLoadResults : Prop := ∀ (g v a b : Nat) (k : Int),
  (∀ r ∈ [(Instr.vld g v a k, 4, fun (o : Opnds) l => o.xa + BitVec.ofInt 32 (k * 256) + BitVec.ofNat 32 (4 * l)),
      (.vlds g v a b, 4, fun o l => o.xa + BitVec.ofNat 32 l * o.xb), (.vldx g v a b, 6, fun o l => o.xa + lane o.vb l)],
    ∀ s o t, ActsOn r.1 s ((activeLanes o.g).map fun l => (l, (r.2.2 o l).toNat)) o t →
      ((∃ k, r.1 = .vld g v a k) → (r.2.2 o 0).toNat % 256 = 0) →
      (∀ l ∈ activeLanes o.g, reaches s (r.2.2 o l) 4 ∧ s.seen.bad (r.2.2 o l).toNat = false ∧ joined s (r.2.2 o l).toNat) →
      ∃ w u, (∀ l ∈ activeLanes o.g, lane w l = BitVec.ofNat 32 (leGet s.seen.mem (r.2.2 o l).toNat 4))
        ∧ exec r.1 s = .next (u.putV r.2.1 v w (laneMask o.g) 0) ∧ StoresOnly t u (fun _ => False))
  ∧ (∀ s o t, let x := fun (o : Opnds) l => o.xa + BitVec.ofInt 32 (k * 256) + BitVec.ofNat 32 (4 * l)
    ActsOn (.vldf g v a k) s ((activeLanes o.g).map fun l => (l, (x o l).toNat)) o t → (x o 0).toNat % 256 = 0 →
    (∀ l ∈ activeLanes o.g, reaches s (x o l) 4 ∧ s.seen.bad (x o l).toNat = false
      ∧ s.core.spad.full (x o l).toNat = true ∧ s.seen.full (x o l).toNat = true) → swf false s.core.spad.fe = true →
    ∃ w u f, (∀ l ∈ activeLanes o.g, lane w l = BitVec.ofNat 32 (leGet s.seen.mem (x o l).toNat 4))
      ∧ exec (.vldf g v a k) s = .next ((u.withFull f).putV 4 v w (laneMask o.g) 0) ∧ StoresOnly t u (fun _ => False)
      ∧ ∀ n, sget false f n = (sget false t.core.spad.fe n && !(activeLanes o.g).any fun l => (x o l).toNat / 4 = n))
  ∧ (∀ s o t, let x := o.xa + BitVec.ofInt 32 (k * 64)
    let d := fun n => (s.seen.descAt n).toNat
    let w := fmtWidth (d x.toNat % 256)
    ActsOn (.vldd g v a k) s ((List.range (2 * w)).map fun j => (j, x.toNat + 4 * j)) o t →
    x.toNat % 64 = 0 → w ≠ 0 → x.toNat + 8 * w ≤ 0x100000 → x.toNat + 8 * w ≤ s.core.th.task.spad * 65536 →
    (∀ n, x.toNat ≤ n → n < x.toNat + 8 * w → fmtWidth (d n % 256) = w ∧ d n < 4096 ∧ s.seen.bad n = false ∧ joined s n
      ∧ s.owns s.core (n / 65536) s.core.th.task.part s.core.th.task.slot s.core.th.tid = true) →
    ∃ r u, let e := fun j => withNF (scaledDecode (d (x.toNat + j * w / 8) % 256) (leGet s.seen.mem (x.toNat + j * w / 8) (w / 8))
        (t.packScale (d (x.toNat + j * w / 8) / 256 % 16)))
      (∀ j, j < 64 → lane r j = (e j).1)
      ∧ exec (.vldd g v a k) s = .next (u.putV 6 v r (laneMask o.g) (laneFlags o.g ((List.range 64).map e)))
      ∧ StoresOnly t u (fun _ => False))
  ∧ (∀ r ∈ [(Instr.vld g v a k, true, fun (o : Opnds) l => o.xa + BitVec.ofInt 32 (k * 256) + BitVec.ofNat 32 (4 * l)),
      (.vldf g v a k, true, fun o l => o.xa + BitVec.ofInt 32 (k * 256) + BitVec.ofNat 32 (4 * l)),
      (.vlds g v a b, false, fun o l => o.xa + BitVec.ofNat 32 l * o.xb), (.vldx g v a b, false, fun o l => o.xa + lane o.vb l)],
    ∀ s, clearToAct r.1 s = true → let x := r.2.2 (s.opnds r.1)
      let al := fun l => if r.2.1 then (x 0).toNat % 256 = 0 else (x l).toNat % 4 = 0
      let most := s.core.th.task.spad * 65536
      ∀ l ∈ activeLanes (s.opnds r.1).g,
        (∀ j ∈ activeLanes (s.opnds r.1).g, j < l → al j ∧ (x j).toNat < 0x100000 ∧ (x j).toNat + 4 ≤ most) →
        (¬ al l → exec r.1 s = .next (s.trapNow (mkTrap 7 0 (x l))))
        ∧ (al l → 0x100000 ≤ (x l).toNat → exec r.1 s = .next (s.trapNow (mkTrap 6 1 (x l))))
        ∧ (al l → (x l).toNat < 0x100000 → most < (x l).toNat + 4 →
          exec r.1 s = .next (s.trapNow { cause := 0x0E, sub := 1, val := 0, fva := (x l).toNat })))
  ∧ ∀ s x, clearToAct (.vldd g v a k) s = true → x = (s.opnds (.vldd g v a k)).xa + BitVec.ofInt 32 (k * 64) →
    let d := fun n => (s.seen.descAt n).toNat
    let w := fmtWidth (d x.toNat % 256)
    (x.toNat % 64 ≠ 0 → exec (.vldd g v a k) s = .next (s.trapNow (mkTrap 7 0 x)))
    ∧ (x.toNat % 64 = 0 → 0x100000 ≤ x.toNat → exec (.vldd g v a k) s = .next (s.trapNow (mkTrap 6 1 x)))
    ∧ (x.toNat % 64 = 0 → x.toNat < 0x100000 →
      s.owns s.core (x.toNat / 65536) s.core.th.task.part s.core.th.task.slot s.core.th.tid = true →
      (fmtValid (d x.toNat % 256) = false → exec (.vldd g v a k) s = .next (s.trapNow (mkTrap 0x10 1 x)))
      ∧ (fmtValid (d x.toNat % 256) = true → 4096 ≤ d x.toNat → exec (.vldd g v a k) s = .next (s.trapNow (mkTrap 0x10 2 x)))
      ∧ (fmtValid (d x.toNat % 256) = true → d x.toNat < 4096 → w = 0 → exec (.vldd g v a k) s = .next (s.trapNow (mkTrap 0x10 3 x)))
      ∧ (w ≠ 0 → d x.toNat < 4096 → 0x100000 < x.toNat + 8 * w → exec (.vldd g v a k) s = .next (s.trapNow (mkTrap 6 2 x)))
      ∧ (w ≠ 0 → x.toNat + 8 * w ≤ 0x100000 → s.core.th.task.spad * 65536 < x.toNat + 8 * w →
        (∀ n, x.toNat ≤ n → n < x.toNat + 8 * w → fmtWidth (d n % 256) = w ∧ d n < 4096) →
        exec (.vldd g v a k) s = .next (s.trapNow { cause := 0x0E, sub := 1, val := 0, fva := x.toNat })))

/-- A vector store whose active lanes pass their checks and are served, in a scratchpad in canonical form, writes each active
lane to its address, a lane over the lower ones where addresses coincide, and no other byte; descriptors stay (R58, R142). A
contiguous store of all sixteen words of a block clears its poison. vstf waits until all its words are empty, fills them, and
clears poison likewise (R143, R361). vstd writes the scaled encode of each active element to its place in the run at X(A),
with the descriptor X(B)[15:0] for each block with an active element, its flags raised at once, and no other byte (R59, R64,
R146); it uses the scale table of the bundle before the last (log entry 25) and clears the poison of those blocks (log entry
101), the model's choices. Where a store is presented at issue with nothing else in its way, the lowest active lane that fails
a check decides: ALIGN, SPRANGE 1 or BUDGET 1 with its address; vstd traps ALIGN, SPRANGE 1, BADDESC, SPRANGE 2 and BUDGET 1
in this order (R125, R142, R146). -/
def Obligations.VectorStoreResults : Prop := ∀ (g v a b : Nat) (k : Int),
  let x0 := fun (o : Opnds) l => o.xa + BitVec.ofInt 32 (k * 256) + BitVec.ofNat 32 (4 * l)
  let wrote := fun (u : State) (o : Opnds) (x : Opnds → Nat → Word) => ∀ l ∈ activeLanes o.g,
    (∀ j ∈ activeLanes o.g, l < j → x o j ≠ x o l) → leGet u.core.spad.mem (x o l).toNat 4 = (lane o.vd l).toNat
  let at_ := fun (o : Opnds) (x : Opnds → Nat → Word) (n : Nat) => ∃ l ∈ activeLanes o.g, n / 4 = (x o l).toNat / 4
  (∀ r ∈ [(Instr.vsts g v a b, fun (o : Opnds) l => o.xa + BitVec.ofNat 32 l * o.xb), (.vstx g v a b, fun o l => o.xa + lane o.vb l)],
    ∀ s o t, ActsOn r.1 s ((activeLanes o.g).map fun l => (l, (r.2 o l).toNat)) o t →
      (∀ l ∈ activeLanes o.g, reaches s (r.2 o l) 4 ∧ joined s (r.2 o l).toNat) → swf 0 s.core.spad.mem = true →
      ∃ u, exec r.1 s = .next u ∧ wrote u o r.2 ∧ StoresOnly t u (at_ o r.2))
  ∧ (∀ s o t, ActsOn (.vst g v a k) s ((activeLanes o.g).map fun l => (l, (x0 o l).toNat)) o t → (x0 o 0).toNat % 256 = 0 →
    (∀ l ∈ activeLanes o.g, reaches s (x0 o l) 4 ∧ joined s (x0 o l).toNat) → swf 0 s.core.spad.mem = true →
    swf false s.core.spad.poison = true →
    ∃ u q, exec (.vst g v a k) s = .next (u.updCore fun c => { c with spad := { c.spad with poison := q } })
      ∧ wrote u o x0 ∧ StoresOnly t u (at_ o x0)
      ∧ ∀ n, sget false q n = (sget false t.core.spad.poison n
        && !(List.range 4).any fun b => (x0 o (16 * b)).toNat / 64 = n && (List.range 16).all fun i => o.g.getLsbD (16 * b + i)))
  ∧ (∀ s o t, ActsOn (.vstf g v a k) s ((activeLanes o.g).map fun l => (l, (x0 o l).toNat)) o t → (x0 o 0).toNat % 256 = 0 →
    (∀ l ∈ activeLanes o.g, reaches s (x0 o l) 4 ∧ joined s (x0 o l).toNat ∧ s.core.spad.full (x0 o l).toNat = false) →
    swf 0 s.core.spad.mem = true → swf false s.core.spad.fe = true → swf false s.core.spad.poison = true →
    ∃ u f q, exec (.vstf g v a k) s = .next ((u.withFull f).updCore fun c => { c with spad := { c.spad with poison := q } })
      ∧ wrote u o x0 ∧ StoresOnly t u (at_ o x0)
      ∧ (∀ n, sget false q n = (sget false t.core.spad.poison n
        && !(List.range 4).any fun b => (x0 o (16 * b)).toNat / 64 = n && (List.range 16).all fun i => o.g.getLsbD (16 * b + i)))
      ∧ ∀ n, sget false f n = (sget false t.core.spad.fe n || (activeLanes o.g).any fun l => (x0 o l).toNat / 4 = n))
  ∧ (∀ r ∈ [(Instr.vst g v a k, true, x0), (.vstf g v a k, true, x0),
      (.vsts g v a b, false, fun o l => o.xa + BitVec.ofNat 32 l * o.xb), (.vstx g v a b, false, fun o l => o.xa + lane o.vb l)],
    ∀ s, clearToAct r.1 s = true → let x := r.2.2 (s.opnds r.1)
      let al := fun l => if r.2.1 then (x 0).toNat % 256 = 0 else (x l).toNat % 4 = 0
      let most := s.core.th.task.spad * 65536
      ∀ l ∈ activeLanes (s.opnds r.1).g,
        (∀ j ∈ activeLanes (s.opnds r.1).g, j < l → al j ∧ (x j).toNat < 0x100000 ∧ (x j).toNat + 4 ≤ most) →
        (¬ al l → exec r.1 s = .next (s.trapNow (mkTrap 7 0 (x l))))
        ∧ (al l → 0x100000 ≤ (x l).toNat → exec r.1 s = .next (s.trapNow (mkTrap 6 1 (x l))))
        ∧ (al l → (x l).toNat < 0x100000 → most < (x l).toNat + 4 →
          exec r.1 s = .next (s.trapNow { cause := 0x0E, sub := 1, val := 0, fva := (x l).toNat })))
  ∧ (∀ s, clearToAct (.vstd g v a b) s = true → let o := s.opnds (.vstd g v a b)
    let d := o.xb.toNat % 65536
    let w := fmtWidth (d % 256)
    let traps := fun t => exec (.vstd g v a b) s = .next (s.trapNow t)
    (o.xa.toNat % 64 ≠ 0 → traps (mkTrap 7 0 o.xa))
    ∧ (o.xa.toNat % 64 = 0 → 0x100000 ≤ o.xa.toNat → traps (mkTrap 6 1 o.xa))
    ∧ (o.xa.toNat % 64 = 0 → o.xa.toNat < 0x100000 →
      (fmtValid (d % 256) = false → traps (mkTrap 0x10 1 o.xa))
      ∧ (fmtValid (d % 256) = true → 4096 ≤ d → traps (mkTrap 0x10 2 o.xa))
      ∧ (fmtValid (d % 256) = true → d < 4096 → w = 0 ∨ fmtKeep (d % 256) ≠ 0 → traps (mkTrap 0x10 3 o.xa))
      ∧ (w ≠ 0 → d < 4096 → fmtKeep (d % 256) = 0 → 0x100000 < o.xa.toNat + 8 * w → traps (mkTrap 6 2 o.xa))
      ∧ (w ≠ 0 → d < 4096 → fmtKeep (d % 256) = 0 → o.xa.toNat + 8 * w ≤ 0x100000 → s.core.th.task.spad * 65536 < o.xa.toNat + 8 * w →
        traps { cause := 0x0E, sub := 1, val := 0, fva := o.xa.toNat })))
  ∧ ∀ s o t, let d := o.xb.toNat % 65536
    let w := fmtWidth (d % 256)
    let e := fun j => scaledEncode d (lane o.vd j) (t.packScale (o.xb.toNat / 65536 % 16))
    ActsOn (.vstd g v a b) s (((activeLanes o.g).map fun j => (o.xa.toNat + j * w / 8) / 4 * 4).eraseDups.map fun n => (0, n)) o t →
    o.xa.toNat % 64 = 0 → w ≠ 0 → fmtKeep (d % 256) = 0 → d < 4096 → o.xa.toNat + 8 * w ≤ 0x100000 →
    o.xa.toNat + 8 * w ≤ s.core.th.task.spad * 65536 →
    (∀ n, o.xa.toNat ≤ n → n < o.xa.toNat + 8 * w → joined s n
      ∧ s.owns s.core (n / 65536) s.core.th.task.part s.core.th.task.slot s.core.th.tid = true) →
    swf 0 s.core.spad.mem = true → swf 0 s.core.spad.desc = true → swf false s.core.spad.poison = true →
    ∃ (u : State) (ds : Sparse Desc) (q : Sparse Bool), exec (.vstd g v a b) s = .next ((u.updCore fun c =>
        { c with spad := { c.spad with desc := ds, poison := q } }).updTh fun h =>
          { h with csr := { h.csr with vflags := h.csr.vflags ||| laneFlags o.g ((List.range 64).map fun j => ((0 : Word), (e j).2)) } })
      ∧ (∀ j ∈ activeLanes o.g, leGet u.core.spad.mem (o.xa.toNat + j * w / 8) (w / 8) = (e j).1)
      ∧ StoresOnly t u (fun n => ∃ j ∈ activeLanes o.g, o.xa.toNat + j * w / 8 ≤ n ∧ n < o.xa.toNat + (j + 1) * w / 8)
      ∧ (∀ n, sget 0 ds n = if ∃ j ∈ activeLanes o.g, (o.xa.toNat + j * w / 8) / 64 = n then BitVec.ofNat 16 d else sget 0 t.core.spad.desc n)
      ∧ ∀ n, sget false q n = (sget false t.core.spad.poison n && !(activeLanes o.g).any fun j => (o.xa.toNat + j * w / 8) / 64 = n)

/-- A queued operation whose pair holds a 48-bit address, aligned for its size, that translates, at its issue, to a place it
may write where it writes, and for which lq, vq or qs has room, puts its access on its way to the place with its operands, and
reserves the next entry of lq, or of vq with the blocks that hold an active lane (R131 to R139, R144); nothing else of the
core changes, and the counter of free choices moves only where the micro-TLB and the tables differ. In a foldable task an
atomic is held, and its issue reads the word (R138). A high half above 16 bits traps XLATE 3, a misaligned address ALIGN, an
address that does not translate XLATE with its subcause, a write to a read-only place PERM 3, a lock operation of a foldable
task PERM 4; the checks of an atomic, lock or wait are made at issue also while its operand X(B) is pending, and so is XLATE 3
of a load or store whose offset is pending, with an open value in EVAL (the model's choice, log entry 119). -/
def Obligations.QueuedOperationsEnterTheQueue : Prop := ∀ (g d a b v : Nat) (k : Int),
  let loads := [(Instr.qldW g a b, 4, true, 0), (.qldH g a b, 2, true, 0), (.qldB g a b, 1, true, 0), (.waita g a b, 4, false, 0),
    (.waitc g a b, 4, false, 0), (.amoAdd g a b, 4, false, 1), (.amoAnd g a b, 4, false, 1), (.amoOr g a b, 4, false, 1),
    (.amoXor g a b, 4, false, 1), (.amoMin g a b, 4, false, 1), (.amoMax g a b, 4, false, 1), (.amoMinu g a b, 4, false, 1),
    (.amoMaxu g a b, 4, false, 1), (.amoSwap g a b, 4, false, 1), (.amoCas g d a b, 4, false, 1), (.rwlRd g a, 4, false, 2),
    (.rwlWr g a, 4, false, 2), (.rwlRu g a, 4, false, 2), (.rwlWu g a, 4, false, 2)]
  (∀ r ∈ loads, (∀ s o t va p, va = queuedVa o (if r.2.2.1 then o.xb.toInt else 0) → Acts r.1 s o t → o.xa1.toNat < 65536 →
      va % r.2.1 = 0 → placeIs s va p → (r.2.2.2 ≠ 0 → p.readOnly = false ∧ s.core.th.task.foldable = false) → lqRoom s →
      exec r.1 s = .next ((t.located va).queued (t.qacc r.1 va p o o.xb []) [{ id := t.core.th.qid, val := none }] []))
    ∧ (∀ s o t va p, va = queuedVa o 0 → r.2.2.2 = 1 → Acts r.1 s o t → o.xa1.toNat < 65536 → va % 4 = 0 → placeIs s va p →
      p.readOnly = false → s.core.th.task.foldable = true → s.noHold = false → lqRoom s →
      exec r.1 s = .next (((t.located va).hold (.amo r.1 va o.xb o.xd false t.core.env.pc)).queued
        (t.qacc (.qldW 0 2 0) va p o o.xb []) [{ id := t.core.th.qid, val := none }] []))
    ∧ ∀ s o va, o = s.opnds r.1 → va = queuedVa o (if r.2.2.1 then o.xb.toInt else 0) → clearToAct r.1 s = true →
      (65536 ≤ o.xa1.toNat → exec r.1 s = .next (s.trapNow (vaTrap 8 3 va)))
      ∧ (o.xa1.toNat < 65536 → va % r.2.1 ≠ 0 →
        exec r.1 s = .next (s.trapNow { cause := 7, sub := 0, val := BitVec.ofNat 32 va, fva := va }))
      ∧ (o.xa1.toNat < 65536 → va % r.2.1 = 0 → (∀ e, s.locate va = .bad e → exec r.1 s = .next (s.trapNow (vaTrap 8 e va)))
        ∧ ∀ p, s.locate va = .found p →
          (r.2.2.2 ≠ 0 → p.readOnly = true → exec r.1 s = .next (s.trapNow (vaTrap 9 3 va)))
          ∧ (r.2.2.2 = 2 → p.readOnly = false → s.core.th.task.foldable = true → exec r.1 s = .next (s.trapNow (vaTrap 9 4 va)))))
  ∧ (∀ r ∈ [(Instr.qstW g d a b, 4), (.qstH g d a b, 2), (.qstB g d a b, 1)], ∀ s o t va p, va = queuedVa o o.xb.toInt →
    Acts r.1 s o t → o.xa1.toNat < 65536 → va % r.2 = 0 → placeIs s va p → p.readOnly = false → s.qs < 32 →
    exec r.1 s = .next ((t.located va).queued (t.qacc r.1 va p o o.xd []) [] []))
  ∧ (∀ r ∈ [(Instr.qstW g d a b, 4, (fun (o : Opnds) => o.xb.toInt), true), (.qstH g d a b, 2, fun o => o.xb.toInt, true),
      (.qstB g d a b, 1, fun o => o.xb.toInt, true), (.vqld g a k, 256, fun _ => k * 256, false), (.vqst g v a k, 256, fun _ => k * 256, true)],
    ∀ s o va, o = s.opnds r.1 → va = queuedVa o (r.2.2.1 o) → clearToAct r.1 s = true →
      (65536 ≤ o.xa1.toNat → exec r.1 s = .next (s.trapNow (vaTrap 8 3 va)))
      ∧ (o.xa1.toNat < 65536 → va % r.2.1 ≠ 0 →
        exec r.1 s = .next (s.trapNow { cause := 7, sub := 0, val := BitVec.ofNat 32 va, fva := va }))
      ∧ (o.xa1.toNat < 65536 → va % r.2.1 = 0 → (∀ e, s.locate va = .bad e → exec r.1 s = .next (s.trapNow (vaTrap 8 e va)))
        ∧ ∀ p, s.locate va = .found p → r.2.2.2 = true → p.readOnly = true → exec r.1 s = .next (s.trapNow (vaTrap 9 3 va))))
  ∧ (∀ (i : Instr) (s : State), s.core.env.served = none → forbiddenIn s.core.th.mode i = false → suppressedBy i (s.srcP (shape i).g) = false →
    s.portTrap i = none → s.portStall i = false → s.pendSrcs i ≠ [] → (∀ r ∈ s.pendSrcs i, r = .b) →
    let o := s.opnds i
    (i ∈ [Instr.qldW g a b, .qldH g a b, .qldB g a b, .qstW g d a b, .qstH g d a b, .qstB g d a b] → 65536 ≤ o.xa1.toNat →
      ∃ e, exec i s = .next (s.trapNow { cause := 8, sub := 3, val := e, fva := o.xa.toNat + o.xa1.toNat % 65536 * 2 ^ 32 }))
    ∧ (i ∈ (loads.filter fun r => !r.2.2.1).map (·.1) →
      (65536 ≤ o.xa1.toNat → exec i s = .next (s.trapNow (vaTrap 8 3 (queuedVa o 0))))
      ∧ (o.xa1.toNat < 65536 → queuedVa o 0 % 4 ≠ 0 →
        exec i s = .next (s.trapNow { cause := 7, sub := 0, val := BitVec.ofNat 32 (queuedVa o 0), fva := queuedVa o 0 }))
      ∧ (o.xa1.toNat < 65536 → queuedVa o 0 % 4 = 0 → ∀ e, s.locate (queuedVa o 0) = .bad e →
        exec i s = .next (s.trapNow (vaTrap 8 e (queuedVa o 0))))))
  ∧ ∀ s o t va p bs, va = queuedVa o (k * 256) → bs = (List.range 4).filter (fun n => (List.range 16).any fun i => o.g.getLsbD (16 * n + i)) →
    o.xa1.toNat < 65536 → va % 256 = 0 → placeIs s va p →
    (Acts (.vqld g a k) s o t → s.thBefore.vq.length + s.core.th.vqPend.length < 4 → s.core.th.ql < 32 →
      exec (.vqld g a k) s = .next ((t.located va).queued (t.qacc (.vqld g a k) va p o o.xb bs) []
        [{ id := t.core.th.qid, val := 0, left := bs.length }]))
    ∧ (Acts (.vqst g v a k) s o t → p.readOnly = false → s.qs < 32 →
      exec (.vqst g v a k) s = .next ((t.located va).queued (t.qacc (.vqst g v a k) va p o o.xb bs) [] []))

/-- A fabric operation whose pod-global address names a rank of the gang with bits 53 to 48 of the address zero, word-aligned,
with room in lq or qs (R193): on the own rank it puts its access at the place its VA translates to on its way, and on another
a request to that rank, READ for fld, WRITE for fst and ATOMIC with its operation for the atomics, which stands in the queue
until the accesses before it have been performed (R251). A load or an atomic reserves the next entry of lq. In a foldable task
an atomic is held and reads the word in its place. An address with bits 53 to 48 set traps XLATE 3, a rank outside the gang
XLATE 5, and a misaligned address ALIGN. That a READ carries its length in ARG is the model's choice (log entry 13). -/
def Obligations.FabricOperationsReachTheirRank : Prop := ∀ g a b : Nat,
  ∀ r ∈ [(Instr.fld g a, RemKind.load, fun (_ : Opnds) => ({ kind := 2, arg := 4 } : Packet)),
      (.fst g a b, .store, fun o => { kind := 1, payload := leBytes o.xb.toNat 4 }),
      (.famoAdd g a b, .load, fun o => { kind := 4, arg := o.xb, atop := 1 }), (.famoMax g a b, .load, fun o => { kind := 4, arg := o.xb, atop := 2 }),
      (.famoOr g a b, .load, fun o => { kind := 4, arg := o.xb, atop := 3 }), (.famoSwap g a b, .load, fun o => { kind := 4, arg := o.xb, atop := 4 })],
    let rank := fun (o : Opnds) => o.xa1.toNat / 2 ^ 22
    let lead := fun (o : Opnds) => o.xa.toNat + o.xa1.toNat * 2 ^ 32
    let res := fun (t : State) => if r.2.1 = .store then ([] : List QRes) else [{ id := t.core.th.qid, val := none }]
    (∀ s o t d va, Acts r.1 s o t → bits o.xa1.toNat 21 16 = 0 → o.xa.toNat % 4 = 0 → va = o.xa.toNat + o.xa1.toNat % 65536 * 2 ^ 32 →
      s.taskCtx s.core.th.task = some d → rank o < d.gangsz →
      (if r.2.1 = .store then s.qs < 32 else lqRoom s) →
      (s.core.th.task.foldable = false ∨ r.1 = .fld g a ∨ r.1 = .fst g a b →
        (∀ p, rank o = d.rank → placeIs s va p → (r.1 = .fld g a ∨ p.readOnly = false) →
          exec r.1 s = .next ((t.located va).queued (t.qacc r.1 va p o o.xb []) (res t) []))
        ∧ (rank o ≠ d.rank → exec r.1 s = .next (t.queued
            { t.qacc r.1 va (.mem 0 0) o o.xb [] with sends := some (.request (lead o) r.2.1 (r.2.2 o)) } (res t) [])))
      ∧ (s.core.th.task.foldable = true → r.1 ≠ .fld g a → r.1 ≠ .fst g a b → s.noHold = false →
        (∀ p, rank o = d.rank → placeIs s va p → p.readOnly = false →
          exec r.1 s = .next (((t.located va).hold (.amo r.1 va o.xb 0 false t.core.env.pc)).queued (t.qacc (.fld 0 2) va p o o.xb []) (res t) []))
        ∧ (rank o ≠ d.rank → exec r.1 s = .next ((t.hold (.amo r.1 (lead o) o.xb 0 true t.core.env.pc)).queued
            { t.qacc (.fld 0 2) va (.mem 0 0) o o.xb [] with sends := some (.request (lead o) .load { kind := 2, arg := 4 }) } (res t) []))))
    ∧ ∀ s o d, o = s.opnds r.1 → clearToAct r.1 s = true → s.taskCtx s.core.th.task = some d →
      (bits o.xa1.toNat 21 16 ≠ 0 → exec r.1 s = .next (s.trapNow { cause := 8, sub := 3, val := BitVec.ofNat 32 (o.xa1.toNat / 65536), fva := lead o }))
      ∧ (bits o.xa1.toNat 21 16 = 0 → d.gangsz ≤ rank o →
        exec r.1 s = .next (s.trapNow { cause := 8, sub := 5, val := BitVec.ofNat 32 (o.xa1.toNat / 65536), fva := lead o }))
      ∧ (bits o.xa1.toNat 21 16 = 0 → rank o < d.gangsz → o.xa.toNat % 4 ≠ 0 →
        exec r.1 s = .next (s.trapNow { cause := 7, sub := 0, val := o.xa, fva := o.xa.toNat + o.xa1.toNat % 65536 * 2 ^ 32 }))

/-- chbind of a declared channel of no collective, of type raw and count 1, puts the binding of its link port in flight, and
chbind without a channel its end (R191); csnd with a credit sends the elements of its channel, each in its type, and in a
foldable task holds them; crcv takes the oldest message, joins what was performed before its sending, and gives V(D) its
elements, a BF16 one as its FP32 value, +0 in the lanes beyond; crad combines them into the lanes of V(D) and keeps the others
(R192). Without a credit or a message they slip with code 5. An undeclared channel traps PORTDEAD 3, one that no port may be
bound to 2, one of the wrong kind 4, and the wrong role of a pipe 5 (R190, R286). -/
def Obligations.ChannelOperationResults : Prop := ∀ g d c a : Nat,
  (∀ s o t, Acts (.chbind g d c) s o t → (s.myChan c).kind ≠ 0 → (s.myChan c).kind ≠ 3 → (s.myChan c).ty = 3 → (s.myChan c).count = 1 →
    ((s.myChan c).kind = 2 → s.core.th.task.role ≠ none) → exec (.chbind g d c) s = .next (t.result 1 0 (.bind (d - 57) (some c))))
  ∧ Gives (.chbindUnbind g d) (fun _ t => t.result 1 0 (.bind (d - 57) none))
  ∧ (∀ s o t, Acts (.csnd g c a) s o t → (s.myChan c).kind ≠ 0 → (s.myChan c).kind ≠ 3 → s.pipeRole c true = false →
    let l := (List.range (s.myChan c).count).flatMap fun k =>
      if (s.myChan c).ty = 2 then leBytes (encodeBin 8 7 (f32 (lane o.va k))).1 2 else leBytes (lane o.va k).toNat 4
    (s.core.th.task.foldable = false → s.hasCredit c = true → exec (.csnd g c a) s = .next (t.sendMsg c l))
    ∧ (s.core.th.task.foldable = true → s.noHold = false → exec (.csnd g c a) s = .next (t.hold (.message c l))))
  ∧ (∀ (s : State) (h : Held), (s.core.th.holdq.contains (.reserved s.core.env.seq) = false →
      s.hold h = s.updTh fun x => { x with holdq := x.holdq ++ [h] })
    ∧ (s.core.th.holdq.contains (.reserved s.core.env.seq) = true →
      s.hold h = s.updTh fun x => { x with holdq := x.holdq.map fun y => if y = .reserved s.core.env.seq then h else y }))
  ∧ (∀ (s : State) m, s.headMsg c = some m → (s.dropMsg c).core.th = { s.core.th with csr := { s.core.th.csr with pts := max s.core.th.csr.pts m.ts } })
  ∧ (∀ s o t m, s.headMsg c = some m → (s.myChan c).kind ≠ 0 → (s.myChan c).kind ≠ 3 → s.pipeRole c false = false →
    let w := if (s.myChan c).ty = 2 then 2 else 4
    let e := fun k => if (s.myChan c).ty = 2 then (rne32 (decodeBin 8 7 (leNat ((m.payload.drop (w * k)).take w)))).1
      else BitVec.ofNat 32 (leNat ((m.payload.drop (w * k)).take w))
    (Acts (.crcv g d c) s o t → ∃ v : VReg, (∀ k, k < 64 → lane v k = if k < (s.myChan c).count then e k else 0)
      ∧ exec (.crcv g d c) s = .next ((t.dropMsg c).putV 6 d v (-1) 0))
    ∧ (Acts (.crad g d c) s o t → (s.myChan c).op ≠ 0 → (s.myChan c).op ≠ 4 → (s.myChan c).ty ≠ 3 →
      ∃ v : VReg, (∀ k, k < 64 → lane v k = if k < (s.myChan c).count
          then comb (if (s.myChan c).ty = 1 then 1 else 0) (s.myChan c).op (lane o.vd k) (e k) else lane o.vd k)
        ∧ exec (.crad g d c) s = .next ((t.dropMsg c).putV 10 d v (-1) 0)))
  ∧ ∀ s, let tr := fun n => Host.Outcome.next (s.trapNow (mkTrap 0x0B n (BitVec.ofNat 32 c)))
    ((s.myChan c).kind = 0 → ∀ i ∈ [Instr.chbind g d c, .csnd g c a, .crcv g d c, .crad g d c], clearToAct i s = true → exec i s = tr 3)
    ∧ (clearToAct (.chbind g d c) s = true → (s.myChan c).kind ≠ 0 →
      ((s.myChan c).kind = 3 ∨ (s.myChan c).ty ≠ 3 ∨ (s.myChan c).count ≠ 1) → exec (.chbind g d c) s = tr 2)
    ∧ (clearToAct (.chbind g d c) s = true → (s.myChan c).kind = 2 → (s.myChan c).ty = 3 → (s.myChan c).count = 1 →
      s.core.th.task.role = none → exec (.chbind g d c) s = tr 5)
    ∧ ((s.myChan c).kind = 3 → ∀ i ∈ [Instr.csnd g c a, .crcv g d c, .crad g d c], clearToAct i s = true → exec i s = tr 4)
    ∧ ((s.myChan c).kind ≠ 0 → (s.myChan c).kind ≠ 3 →
      (clearToAct (.csnd g c a) s = true → s.pipeRole c true = true → exec (.csnd g c a) s = tr 5)
      ∧ (clearToAct (.crcv g d c) s = true → s.pipeRole c false = true → exec (.crcv g d c) s = tr 5)
      ∧ (clearToAct (.crcv g d c) s = true → s.pipeRole c false = false → s.headMsg c = none →
        exec (.crcv g d c) s = .next (s.slip (.crcv g d c) (s.opnds (.crcv g d c)) 5 [] true [] none))
      ∧ (clearToAct (.csnd g c a) s = true → s.pipeRole c true = false → s.core.th.task.foldable = false → s.hasCredit c = false →
        exec (.csnd g c a) s = .next (s.slip (.csnd g c a) (s.opnds (.csnd g c a)) 5 [] true [] none)))

/-- cseq xA writes the shadow cell-operation sequence from X(A): wherever it acts, exec answers a next state whose shadow
sequence has entry j, for j from 0 to 7, at bits 2j+1 and 2j of X(A), whose length is X(A)[18:16] + 1, and which does not
depend on X(A)[31:19]; entry codes 0 to 3 are the steps MAC, ADA, MAXP and MINP. The sequence of reset has length 1 and entry
0 MAC, which is MAC mode. ngo and tmma, where they act with room in the queue and tiles in the grant, capture the shadow
sequence as it stands at their issue, also where they slip (R70, R160, R162, R170). That MAC mode looks at the first L entries
alone is the model's choice (log entry 46). -/
def Obligations.CellSequenceConfiguration : Prop :=
  (∀ g a s o t, Acts (.cseq g a) s o t → ∃ w : Word, (∀ j, j < 8 → w.toNat / 2 ^ (2 * j) % 4 = o.xa.toNat / 2 ^ (2 * j) % 4)
    ∧ seqLen w = o.xa.toNat / 2 ^ 16 % 8 + 1 ∧ (∀ x : Word, x.toNat % 2 ^ 19 = o.xa.toNat % 2 ^ 19 → w = x &&& 0x7FFFF)
    ∧ exec (.cseq g a) s = .next (t.updTh fun h => { h with shadow := { h.shadow with cellseq := w } }))
  ∧ (seqLen State.reset.core.th.shadow.cellseq = 1 ∧ seqOp State.reset.core.th.shadow.cellseq 0 = 0
    ∧ macMode State.reset.core.th.shadow.cellseq = true)
  ∧ (∀ w : Word, macMode w = true ↔ ∀ j, j < seqLen w → seqOp w j = 0)
  ∧ (∀ c a b : Word, cellStep 0 c a b = (fmaN (f32 a) (f32 b) (f32 c)).1
    ∧ cellStep 1 c a b = (rne32 ((f32 c).add (let d := ((f32 a).add (f32 b).neg).1; if d.sign then d.neg else d)).1).1
    ∧ cellStep 2 c a b = (minmaxF true c (finish32 ((f32 a).add (f32 b))).1).1
    ∧ cellStep 3 c a b = (minmaxF false c (finish32 ((f32 a).add (f32 b))).1).1)
  ∧ (∀ (s : State) (i : Instr), (s.core.env.served = none → (s.early i).shadow = s.thBefore.shadow)
    ∧ (s.core.env.served.isSome = true → s.early i = s.core.env.early))
  ∧ ∀ g t b a s o u, (s.core.th.mq.length < 4 → s.core.th.mq.countP (fun m => isNest m.instr) < 2 →
      accTrap s (s.early (.ngo g)).shadow.tiles = none → Acts (.ngo g) s o u →
      ∃ m : MOp, m.instr = .ngo g ∧ m.cfg.cellseq = (u.early (.ngo g)).shadow.cellseq
        ∧ exec (.ngo g) s = .next (u.updTh fun h => { h with mq := h.mq ++ [m] }))
    ∧ (s.core.th.mq.length < 4 → t < 4 * s.core.th.task.accr → Acts (.tmma g t b a) s o u →
      ∃ m : MOp, m.instr = .tmma g t b a ∧ m.cfg.cellseq = (u.early (.tmma g t b a)).shadow.cellseq
        ∧ exec (.tmma g t b a) s = .next (u.updTh fun h => { h with mq := h.mq ++ [m] }))

/-- nset and nseti write a selector of the shadow configuration and no other, COUNT keeping bits 15:0 and MODE its two bits
(R157, R158). mscl loads the scale table from the sixteen words at X(A), where they are aligned, in the grant, in a region
that may be touched, unpoisoned and unmixed (R161). Every other M operation enters the queue of M work where it holds fewer
than four, and fewer than two nests for ngo, with its operands, the shadow configuration and the scale table as they stood at
its issue, before its bundle, and the pts; a tile outside the grant traps BUDGET 2 at issue (R151 to R154, R162, R168, R170 to
R172, R275). With all of tl in use they slip with code 4. nstop ends the first counted nest, after its pass in progress or at
once, and leaves one that completes already as it is (R165). That an M operation captures nothing of an nset, cseq or mscl
still held in a slip entry is the model's choice (log entry 126). -/
def Obligations.MatrixConfigurationAndQueue : Prop :=
  (∀ g n a k, Gives (.nset g n a) (fun o u => u.updTh fun h => { h with shadow := h.shadow.set n o.xa })
    ∧ Gives (.nseti g n k) (fun _ u => u.updTh fun h => { h with shadow := h.shadow.set n (BitVec.ofInt 32 k) }))
  ∧ (∀ (m : MCfg) n v j, (m.sel.map (·.1)).Pairwise (· < ·) → (m.set n v).cellseq = m.cellseq ∧ (m.set n v).get j =
    (if j ≠ n then m.get j else if 8 ≤ n ∧ n % 4 = 0 then v &&& 0xFFFF else if n = 4 then v &&& 3 else v))
  ∧ (∀ g a s o t, Acts (.mscl g a) s o t → o.xa.toNat % 64 = 0 → reaches s o.xa 1 → s.seen.bad o.xa.toNat = false →
    (∀ j, j < 16 → joined s (o.xa.toNat + 4 * j)) →
    ∃ u, StoresOnly t u (fun _ => False) ∧ exec (.mscl g a) s = .next (u.updTh fun h =>
      { h with scale := (List.range 16).map fun j => BitVec.ofNat 32 (leGet s.seen.mem (o.xa.toNat + 4 * j) 4) }))
  ∧ (∀ g t b a n m c x, ∀ r ∈ [(Instr.ngo g, fun (s : State) => (s.early (.ngo g)).shadow.tiles), (.tzero g t n m, fun _ => some (t, (t : Int) + n - 1)),
      (.tout g t a b, fun _ => some (t, t)), (.tin g t a b, fun _ => some (t, t)), (.tacc g t a b, fun _ => some (t, t)),
      (.tmov g t x, fun _ => some ((min t x : Nat), (max t x : Nat))), (.wprn24 g b c, fun _ => none), (.wprn48 g b c, fun _ => none),
      (.wbld g b a x, fun _ => none)],
    (∀ s o u, Acts r.1 s o u → (∀ p, r.2 s = some p → 0 ≤ p.1 ∧ p.2 < 4 * s.core.th.task.accr) → s.core.th.mq.length < 4 →
      (r.1 = .ngo g → s.core.th.mq.countP (fun m => isNest m.instr) < 2) →
      exec r.1 s = .next (u.updTh fun h => { h with mq := h.mq ++ [
        { instr := r.1, seq := u.core.env.seq, slot := u.core.env.slot, sword := u.core.env.sword, baddr := u.core.env.pc,
          xa := o.xa, xb := o.xb, cfg := (u.early r.1).shadow, scale := (u.early r.1).scale, pts := h.csr.pts
          after := h.qid, behind := u.outstanding u.core.num h.tid }] }))
    ∧ ∀ s, clearToAct r.1 s = true →
      (∀ p, r.2 s = some p → p.1 < 0 ∨ 4 * s.core.th.task.accr ≤ p.2 → exec r.1 s = .next (s.trapNow (mkTrap 0x0E 2 0)))
      ∧ ((∀ p, r.2 s = some p → 0 ≤ p.1 ∧ p.2 < 4 * s.core.th.task.accr) → 4 ≤ s.core.th.mq.length →
        exec r.1 s = .next (s.slip r.1 (s.opnds r.1) 4 [] true [] none)))
  ∧ (∀ g t b a s o u, Acts (.tmma g t b a) s o u → t < 4 * s.core.th.task.accr → s.core.th.mq.length < 4 →
    ∃ m : MOp, m.instr = .tmma g t b a ∧ m.cfg.get 0 = o.xa ∧ m.cfg.get 1 = (u.early (.tmma g t b a)).shadow.get 1 ∧ m.cfg.get 2 = BitVec.ofNat 32 b
      ∧ m.cfg.get 3 = BitVec.ofNat 32 t ∧ m.cfg.get 4 = (u.early (.tmma g t b a)).shadow.get 4 &&& 3
      ∧ m.scale = (u.early (.tmma g t b a)).scale
      ∧ exec (.tmma g t b a) s = .next (u.updTh fun h => { h with mq := h.mq ++ [m] }))
  ∧ (∀ g all s o u pre m rest, Acts (.nstop g all) s o u → u.core.th.mq = pre ++ m :: rest → isNest m.instr = true → m.doneAt = none →
    (∀ e ∈ pre, e.stoppable u.pkg.time = false) → (all % 2 = 0 ∨ ∀ e ∈ rest, isNest e.instr = false) →
    exec (.nstop g all) s = .next (u.updTh fun h => { h with mq := pre ++
      (if m.pass.isSome then { m with last := true } else { m with doneAt := some u.pkg.time }) :: rest }))
  ∧ (∀ g s o u pre m rest k, Acts (.nstop g 0) s o u → u.core.th.mq = pre ++ m :: rest → isNest m.instr = true → m.started.isSome = true →
    m.doneAt = some k → u.pkg.time < k → (∀ e ∈ pre, e.stoppable u.pkg.time = false) → exec (.nstop g 0) s = .next u)
  ∧ (∀ g s o u pre m mid n rest, Acts (.nstop g 1) s o u → u.core.th.mq = pre ++ m :: (mid ++ n :: rest) → isNest m.instr = true →
    m.doneAt = none → m.pass.isSome = true → isNest n.instr = true → n.doneAt = none → n.started = none → n.pass = none →
    (∀ e ∈ pre ++ mid, e.stoppable u.pkg.time = false) →
    exec (.nstop g 1) s = .next (u.updTh fun h => { h with mq :=
      pre ++ { m with last := true } :: (mid ++ { n with doneAt := some u.pkg.time } :: rest) }))
  ∧ ∀ (m : MOp) (now : Nat), m.stoppable now = true ↔
    isNest m.instr = true ∧ (m.doneAt = none ∨ ∃ k, m.doneAt = some k ∧ m.started.isSome = true ∧ now < k)

/-- A copy command or collective whose parameter block is aligned, in the grant, in a region that may be touched, unpoisoned
and unmixed, whose banks serve its sixteen words, and which finds fewer than 32 commands in the class counter, enters the copy
buffer with the words of the block from before the bundle, its token, its flags, and its due time, X(B) or now for x0 (R176 to
R179), in a foldable task with its signal in the hold queue (R186); a collective takes the next number of its channel (R195).
Nothing else changes but the tag and timestamps of the read. A misaligned block traps ALIGN, one beyond the scratchpad SPRANGE
1, one beyond the grant BUDGET 1, a collective of a foldable task PERM 5, and its cred PERM 6. EVAL of the last two (log entry
41), and that no cache of blocks is kept (log entry 36), are the model's choices. -/
def Obligations.CommandsEnterTheirBuffer : Prop := ∀ g tk fl a b : Nat,
  (∀ i ∈ [Instr.ccp g tk fl a b, .cnd g tk fl a b, .cgat g tk fl a b, .csct g tk fl a b, .cwb g tk fl a b, .cfill g tk fl a b,
      .cred g tk fl a b, .csig g tk fl a b, .xar g tk fl a b, .xrs g tk fl a b, .xag g tk fl a b, .xbc g tk fl a b, .xmrg g tk fl a b,
      .xred g tk fl a b, .xbar g tk fl a b],
    (∀ s o t, ActsOn i s ((List.range 16).map fun k => (0, o.xa.toNat + 4 * k)) o t → o.xa.toNat % 64 = 0 → reaches s o.xa 1 →
      s.seen.bad o.xa.toNat = false → (∀ j, j < 16 → joined s (o.xa.toNat + 4 * j)) → s.cp < 32 →
      (s.core.th.task.foldable = true → isColl i = false ∧ isCred i = false ∧ s.noHold = false) →
      ∃ (u : State) (c : Cmd), StoresOnly t u (fun _ => False)
        ∧ c.instr = i ∧ c.tid = t.core.th.tid ∧ c.ref = t.core.th.cref ∧ c.task = t.core.th.task ∧ c.own = t.core.num ∧ c.tok = tk ∧ c.fl = fl
        ∧ c.due = (if b = 0 then BitVec.ofNat 32 t.pkg.time else o.xb) ∧ c.after = t.core.th.qid
        ∧ c.held = (s.core.th.task.foldable && c.signals) ∧ c.behind = t.outstanding t.core.num t.core.th.tid
        ∧ c.blk = (List.range 16).map (fun j => BitVec.ofNat 32 (leGet s.seen.mem (o.xa.toNat + 4 * j) 4))
        ∧ (isColl i = false → let w := u.updTh fun h => { h with cbuf := h.cbuf ++ [c], cref := h.cref + 1 }
          exec i s = .next (if c.held then w.hold (.signal c.sig (BitVec.ofNat 32 c.sigval) c.sigop c.baddr c.ref) else w))
        ∧ (isColl i = true → c.chn = sget 0 (t.getCtx t.core.th.task.part t.core.th.task.slot).chn c.chan
          ∧ exec i s = .next ((u.updCtx t.core.th.task.part t.core.th.task.slot fun x =>
            { x with chn := sset 0 x.chn c.chan (sget 0 x.chn c.chan + 1) }).updTh fun h => { h with cbuf := h.cbuf ++ [c], cref := h.cref + 1 })))
    ∧ ∀ s x, x = (s.opnds i).xa → clearToAct i s = true →
      (x.toNat % 64 ≠ 0 → exec i s = .next (s.trapNow (mkTrap 7 0 x)))
      ∧ (x.toNat % 64 = 0 → 0x100000 ≤ x.toNat → exec i s = .next (s.trapNow (mkTrap 6 1 x)))
      ∧ (x.toNat % 64 = 0 → x.toNat < 0x100000 → s.core.th.task.spad * 65536 ≤ x.toNat →
        exec i s = .next (s.trapNow { cause := 0x0E, sub := 1, val := 0, fva := x.toNat }))
      ∧ (x.toNat % 64 = 0 → reaches s x 1 → s.core.th.task.foldable = true → isColl i = true →
        exec i s = .next (s.trapNow { cause := 9, sub := 5, val := BitVec.ofNat 32 (x.toNat / 65536), fva := x.toNat }))
      ∧ (x.toNat % 64 = 0 → reaches s x 1 → s.core.th.task.foldable = true → isCred i = true →
        exec i s = .next (s.trapNow { cause := 9, sub := 6, val := BitVec.ofNat 32 (x.toNat / 65536), fva := x.toNat }))
      ∧ (x.toNat % 64 = 0 → reaches s x 1 → s.seen.bad x.toNat = false → s.core.th.task.foldable = false → 32 ≤ s.cp →
        exec i s = .next (s.slip i (s.opnds i) 4 [] true [] none)))

/-- The results of a core that are due land and leave the slip entries that waited for them (R204, R207); an entry that would
read a poisoned register among them ends the task (R361). A slip entry that nothing holds is served with the operands it
captured, and leaves its buffer with the hold entry it reserved; one that is held notes why, and a vector access whose banks
serve it is served the words of the cycle (R126, R208). The first pending fault of a core in task mode without a bubble is
taken as an asynchronous trap (R215); ESTAT.HOLD falls when its count has run out (R89); a spent allowance is BUDGET CYCLES
(R275). The unit of the die answers a micro-TLB miss with the leaf that the tables give, which both caches keep, or with the
fault (R132, R241). An overlay that the fetch waits for is filled with the words of the text in place of the one used longest
ago, and a flush untags every overlay of a partition (R292). A gsync episode of a context that holds the rota takes the least
free line; a full episode restarts its members 8 or 40 cycles on and ends (R95). A rebase pauses the partition; its end lowers
its timestamps by 2^30, to 0 at least, those in saved scratchpad images too, drops its COH copies and keeps all else of each
core's registers and scratchpad (R250). That images in save areas are lowered (log entry 67) and that a restart of gsync joins
the members' timestamps (log entry 21) are the model's choices. -/
def Obligations.CoreStepsBetweenBundles : Prop :=
  (∀ s : State, exec .resultLanding s = .next (s.giveBack s.at_.land)
    ∧ let waited := fun (e : Slip) (r : Role × Nat × Nat) =>
      r ∈ srcRegs e.rrb e.instr ∧ r.1 ∈ e.pend ∧ s.landDue.core.th.pending e.seq r.2 = false ∧ r.2 ∈ s.landDue.core.th.rpoison
    (∀ e l r, s.landDue.core.th.slips = e :: l → waited e r → s.land = s.landDue.endFaulted 0x0A0A e.baddr.toNat 0)
    ∧ ((∀ e ∈ s.landDue.core.th.slips, ∀ r, ¬ waited e r) → s.land = s.landDue.updTh (fun h => { h with slips := s.land.core.th.slips })
    ∧ ∀ (k : Nat) (e : Slip), s.landDue.core.th.slips[k]? = some e → ∃ e' : Slip, s.land.core.th.slips[k]? = some e' ∧ e'.seq = e.seq
      ∧ e'.instr = e.instr ∧ ∀ r ∈ e.pend, r ∈ e'.pend ↔
        ∀ q, (r, q) ∈ srcRegs e.rrb e.instr → s.landDue.core.th.pending e.seq q = true))
  ∧ (∀ (s : State) (e : Slip) (f : Opnds → State → State), s.at_.core.th.slips[s.ev.k]? = some e → s.at_.slipHeld e = none → Gives e.instr f →
    slotOp e.instr = true →
    (isDirect e.instr = false ∨ (s.at_.core.qacc = [] ∧ ∀ w ∈ s.at_.pkg.waiters, w.acc.tid ≠ s.at_.core.th.tid)) →
    e.lanes = [] → suppressedBy e.instr e.ops.g = false →
    let v := s.at_.updCore fun c => { c with env := e.env }
    v.pushHold e.instr e.ops = none → (f e.ops (v.mark .issued)).core.issue = .issued →
    exec .slipService s = .next (s.giveBack (((f e.ops (v.mark .issued)).updCore fun c =>
      { c with env := { seq := e.seq }, xreq := none, xans := [],
               th := { c.th with slips := c.th.slips.filter (·.seq ≠ e.seq), holdq := c.th.holdq.filter (· ≠ .reserved e.seq) } }))))
  ∧ (∀ (s : State) (e : Slip), s.at_.core.th.slips[s.ev.k]? = some e → s.at_.slipHeld e = none → registerOp e.instr = true →
    suppressedBy e.instr e.ops.g = false → e.lanes = [] → (s.at_.core.th.task.foldable = false ∨ (shape e.instr).pushes = []) →
    ∃ l : List Landing, exec .slipService s = .next (s.giveBack (s.at_.updCore fun c =>
        { c with issue := .issued, env := { seq := e.seq }, xreq := none, xans := [],
                 th := { c.th with inflight := c.th.inflight ++ l, slips := c.th.slips.filter (·.seq ≠ e.seq)
                                   holdq := c.th.holdq.filter (· ≠ .reserved e.seq) } }))
      ∧ (∀ r ∈ l, r.seq = e.seq ∧ r.pend = true ∧ (r.dest = .flags ∨ (∃ k w, r.dest = .push k w ∧ k + 57 ∈ (shape e.instr).xd)
        ∨ ∃ q ∈ destRegs e.rrb e.instr, r.dest.reg = some q))
      ∧ ∀ g d a b, e.instr = .add g d a b → d ≠ 0 → d < 57 →
        l = [{ remain := 1, seq := e.seq, flg := 0, pend := true, dest := .x (physX e.rrb d) (e.ops.xa + e.ops.xb) }])
  ∧ (∀ (s : State) (e : Slip), s.at_.core.th.slips[s.ev.k]? = some e →
    (∀ k, s.at_.slipHeld e = some k → exec .slipService s = .next (s.giveBack (s.at_.slipWhy e.seq k)))
    ∧ (s.at_.slipHeld e = none → progressive e.instr = true → e.why = 0 → e.lanes ≠ [] → s.at_.core.qacc = [] →
      (∀ w ∈ s.at_.pkg.waiters, w.acc.tid ≠ s.at_.core.th.tid) →
      exec .slipService s = .next (s.giveBack (s.at_.bankStep e.seq 0))))
  ∧ (∀ (s : State) (f : AsyncFault) (l : List AsyncFault), s.at_.core.phase = .run → s.at_.core.th.mode = .task → s.at_.core.th.bubble = 0 →
    s.at_.core.th.pendF = f :: l → exec .asyncFaultDelivery s = .next (s.giveBack ((s.at_.updTh fun h => { h with pendF := l }).takeTrap
      { cause := f.cause, sub := f.sub, val := f.val, fva := f.val.toNat } true s.at_.core.th.pc 0)))
  ∧ (∀ s : State, s.at_.core.th.csr.estat.getLsbD 1 = true → s.at_.core.th.holdCnt = 0 →
    exec .holdExpiry s = .next (s.giveBack (s.at_.updTh fun h => { h with csr := { h.csr with estat := h.csr.estat &&& 1 } })))
  ∧ (∀ s : State, s.at_.core.phase = .run → s.at_.core.th.limited = true → s.at_.core.th.spent = false → s.at_.core.th.begun = true →
    s.at_.core.th.left = 0 → exec .cycleAllowanceExpiry s = .next (s.giveBack ((s.at_.updTh fun h => { h with spent := true }).takeTrap
      { cause := 0x0E, sub := 3, val := 0, fva := 0 } false s.at_.core.th.pc 0)))
  ∧ (∀ (s : State) (va : Nat) (d : CtxDesc), s.at_.core.xreq = some va → s.at_.taskCtx s.at_.core.th.task = some d →
    let cached := findEnt ((s.pkg.dtlb.filter fun x => x.1 = s.at_.core.num / 256).map (·.2)) d.asid va
    (∀ e, s.at_.walk d va = .leaf e → (∀ c, cached = some c → c = e) → ∃ (l : List (Nat × TlbEnt)) (m : List TlbEnt),
      exec .translationAnswer s = .next (s.giveBack ((s.at_.updPkg fun k => { k with dtlb := l }).updCore fun c => { c with xreq := none, utlb := m }))
      ∧ (s.at_.core.num / 256, e) ∈ l ∧ (∀ x ∈ l, x ∈ s.at_.pkg.dtlb ∨ x = (s.at_.core.num / 256, e))
      ∧ e ∈ m ∧ ∀ x ∈ m, x ∈ s.at_.core.utlb ∨ x = e)
    ∧ ∀ k, s.at_.walk d va = .fault k → cached = none →
      exec .translationAnswer s = .next (s.giveBack (s.at_.updCore fun c => { c with xreq := none, xans := c.xans ++ [(va, k)] })))
  ∧ (∀ (s : State) (page n : Nat) (d : CtxDesc) (i : Image), s.at_.overlayWanted s.at_.core = some page →
    s.at_.taskCtx s.at_.core.th.task = some d →
    (s.at_.images s.at_.core.th.task.part).find? (fun i => i.id = s.at_.core.th.task.image) = some i →
    n = min 4096 ((i.textLen - page * 16384) / 4) →
    (∀ k, k < n → ∃ e, s.at_.walk d (i.textVa + page * 16384 + 4 * k) = .leaf e ∧ attrNx e.attr = false ∧
      ∀ c, findEnt ((s.at_.pkg.dtlb.filter fun x => x.1 = s.at_.core.num / 256).map (·.2)) d.asid (i.textVa + page * 16384 + 4 * k) = some c → c = e) →
    ∃ m : Sparse Word, exec .overlayFill s = .next (s.giveBack (s.at_.updCore fun c =>
        { c with overlays := { image := i.id, page, words := m } :: c.overlays.take 7 }))
      ∧ ∀ k e, k < n → s.at_.walk d (i.textVa + page * 16384 + 4 * k) = .leaf e →
        sget 0 m k = s.at_.pkg.hbm.word (e.pa + (i.textVa + page * 16384 + 4 * k - e.base)))
  ∧ (∀ s : State, ∃ t, exec .ovlflush s = .next t ∧ t.pkg = s.pkg ∧ ∀ n, t.getCore n =
    if n ∈ (s.getPart s.ev.p).cores then { s.getCore n with overlays := [] } else s.getCore n)
  ∧ (∀ s : State, (s.holdsRota s.ev.p s.ev.s = false → exec .gsyncLineGrant s = .next s)
    ∧ (s.holdsRota s.ev.p s.ev.s = true →
      exec .gsyncLineGrant s = .next (s.updCtx s.ev.p s.ev.s fun x => { x with episodes := x.episodes.map fun (e : Episode) =>
        if e.grp = s.ev.n ∧ e.line = none then { e with line := s.freeLine e.die } else e }))
    ∧ ∀ die, let lines := if die = none then 8 else 16
      (s.freeLine die = none ↔ ∀ k, k < lines → k ∈ s.linesUsed die)
      ∧ ∀ k, s.freeLine die = some k → k < lines ∧ k ∉ s.linesUsed die ∧ ∀ j, j < k → j ∈ s.linesUsed die)
  ∧ (∀ (s : State) (e : Episode), (s.getCtx s.ev.p s.ev.s).episodes.find? (fun e => e.grp = s.ev.n) = some e → e.line ≠ none →
    (∀ h ∈ s.groupMembers s.ev.p s.ev.s e.grp, h.tid ∈ e.arrived) →
    exec .gsyncEpisodeComplete s = .next ((e.arrived.foldl (fun u tid => u.updThread tid fun h =>
        if h.waitG = some e.grp ∧ h.arrived = true then
          { h with waitG := none, arrived := false, restartAt := s.pkg.time + (if e.die = none then 40 else 8)
                   csr := { h.csr with pts := max h.csr.pts e.pts } } else h) s).updCtx s.ev.p s.ev.s
      fun x => { x with episodes := x.episodes.filter (·.grp ≠ e.grp) }))
  ∧ (∀ s : State, s.rebaseDue s.ev.p = true → exec .rebase s = .next (s.updPart s.ev.p fun q => { q with rebasing := true }))
  ∧ ∀ s : State, (s.getPart s.ev.p).rebasing = true → swf 0 s.pkg.hbm.wts = true → swf 0 s.pkg.hbm.rts = true → swf {} s.pkg.parts = true →
    (s.getPart s.ev.p).cores.Nodup →
    ∃ t, exec .rebaseDone s = .next t ∧ (t.getPart s.ev.p).rebasing = false ∧ t.pkg.hbm.mem = (s.imagesOf s.ev.p).foldl lowerImage s.pkg.hbm.mem ∧ t.pkg.hbm.fe = s.pkg.hbm.fe
      ∧ (∀ (m : Memory) (at_ : Nat), m.wf = true →
        (∀ k, k < 2048 → leGet (lowerImage m at_) (at_ + 0x11000 + 4 * k) 4 = leGet m (at_ + 0x11000 + 4 * k) 4 - 2 ^ 30)
        ∧ ∀ b, b < at_ + 0x11000 ∨ at_ + 0x13000 ≤ b → sget 0 (lowerImage m at_) b = sget 0 m b)
      ∧ (∀ l, let low := if sget 0 s.pkg.lineOf l = s.ev.p + 1 then 2 ^ 30 else 0
        sget 0 t.pkg.hbm.wts l = sget 0 s.pkg.hbm.wts l - low ∧ sget 0 t.pkg.hbm.rts l = sget 0 s.pkg.hbm.rts l - low)
      ∧ ∀ n, (n ∉ (s.getPart s.ev.p).cores → t.getCore n = s.getCore n)
        ∧ (n ∈ (s.getPart s.ev.p).cores → ∃ (cb : List Cmd) (mq : List MOp) (w r : Sparse Nat), t.getCore n =
          { s.getCore n with
            l1 := (s.getCore n).l1.filter (fun l => l.cls ≠ 2), spad := { (s.getCore n).spad with wts := w, rts := r }
            th := { (s.getCore n).th with
              csr := { (s.getCore n).th.csr with pts := (s.getCore n).th.csr.pts - 2 ^ 30 }, cbuf := cb, mq } })

/-- The oldest queued access of a task on a core, of those that no waiting operation before it holds back, is performed once
its region may be touched; a place in HBM may be touched at once (R133, R247, R348). A fabric request leaves for its rank with
a tag of its own, and a message with its timestamp (R251, R255). At a scratchpad word that no access in the other view left
open, and that is not poisoned: a load reads the word, halfword or byte, sign-extended, stamps it, and answers the entry of lq
it reserved; a store writes its bytes and awaits its acknowledgement; an atomic, and a lock operation that is granted, writes
the new word and answers the old one as one step, and a release that changes nothing is a load (R246); a lock operation that
is not granted, or a wait not satisfied, is registered in order of arrival, a first rwl.wr counted in WW (R135 to R139). A
block of vqld gives the active words of its 16 lanes (R144). A COH word that the L1 does not hold is read at its home. A
registered wait whose word satisfies it is answered, another stays after a load. The oldest result enters lq or vq once it is
there, and a performed store leaves qs (R134). A registered wait whose word is poisoned leaves with ENGFAULT POISON and 0
(R361). The model's choices: a handler's accesses pass an operation of its task that waits (log entry 34); a request or
message leaves only while its context holds the rota and its gang runs or is stopping (log entry 117); all fabric timestamps
of the partition take in the sender's (log entry 108); the layout of TAG (log entry 132). -/
def Obligations.QueuedAccessesAtTheirHome : Prop :=
  (∀ (s : State) (q : QAcc) (u : State), s.ev.n ≠ 1 → s.paused s.ev.c = false →
    (s.headsQ s.ev.c).find? (fun q => q.tid = s.ev.w) = some q → (if q.blocks = [] then s.ev.j = 0 else s.ev.j ∈ q.blocks) →
    (q.sends = none → s.touchPlace q.task.part q.task.slot (q.place.plus (64 * s.ev.j)) = (true, u) →
      exec .queuedAccessAtHome s = .next ((u.performQ s.ev.c q s.ev.j).keepJoined u q))
    ∧ (∀ addr kind k d, q.sends = some (.request addr kind k) → s.taskCtx q.task = some d → ∃ v : State,
      let own := s.podId d d.rank
      let tag := s.newTag q.task.part d.gang
      exec .queuedAccessAtHome s = .next (v.inject s.ev.c { k with
        drank := s.podId d (addr / 2 ^ 54), srank := own, part := q.task.part, addr, tag, gang := d.gang } own)
      ∧ v.pkg.tagNo = s.pkg.tagNo + 1 ∧ tag / 2 ^ 15 = d.gang % 65536
      ∧ (s.pkg.rem.length < 2 ^ 15 → ∀ r ∈ s.pkg.rem, r.part = q.task.part → r.tag ≠ tag)
      ∧ v.pkg.rem = s.pkg.rem ++ [{ tag, core := s.ev.c, tid := q.tid, addr, kind, acc := { q with sends := none }, part := q.task.part, slot := d.slot }]
      ∧ (swf {} s.pkg.parts = true → swf 0 (s.getPart q.task.part).fts = true →
        ∀ n, n < 4 → sget 0 (v.getPart q.task.part).fts n = max (sget 0 (s.getPart q.task.part).fts n) (s.ptsOf q.tid)))
    ∧ ∀ dest k, q.sends = some (.message dest k) → exec .queuedAccessAtHome s = .next
      ((s.dropQ s.ev.c q).putMsg s.ev.c dest { k with ts := s.ptsOf q.tid } q.task.part))
  ∧ (∀ (s : State) (c : Nat) (q : QAcc), q ∈ s.headsQ c ↔ q ∈ (s.getCore c).qacc
    ∧ (q.hdl = true ∨ ∀ w ∈ s.pkg.waiters, w.acc.tid = q.tid → q.id ≤ w.acc.id)
    ∧ (let v := (s.getPart q.task.part).vote.pst
      q.sends = none ∨ s.holdsRota q.task.part q.task.slot = true ∧ (v = .run ∨ v = .stopping))
    ∧ ∀ x ∈ (s.getCore c).qacc, x.tid = q.tid → x.id < q.id → x.hdl = false ∧ ∃ w ∈ s.pkg.waiters, w.acc.tid = x.tid ∧ w.acc.id < x.id)
  ∧ (∀ (s : State) p c a t, s.touchPlace p c (.mem a t) = (true, s))
  ∧ (∀ (s : State) (core k : Nat) (q : QAcc) (c o : Nat), q.place = .spad c o → unseen (sget [] (s.getCore c).swzOld (o / 4)) core = [] →
    (s.getCore c).spad.bad o = false →
    let w := (s.getCore c).spad.word (o / 4 * 4)
    let read := (s.dropQ core q).stampLoadAt (.task q.tid) (.spad c (o / 4 * 4))
    let written := fun (s : State) (n v : Nat) => ((s.updCoreN c fun x =>
      { x with linOld := sset [] x.linOld (o / 4) (sget [] x.linOld (o / 4) ++ [{ old := x.spad.word (o / 4 * 4) }]), spad := x.spad.put o v n }).stampWriteAt
        (.task q.tid) (.spad c o)).sink q.task.part q.task.slot
    let waits := fun (s : State) (counted : Bool) => 
      let r : Waiter := { core, acc := q, counted }
      s.updPkg fun g => { g with waiters := g.waiters ++ [{ r with seen := s.waitWord r }] }
    ∀ g d a b : Nat,
    (∀ r ∈ [(Instr.qldW g a b, 4), (.qldH g a b, 2), (.qldB g a b, 1), (.fld g a, 4)], q.instr = r.1 → q.va % r.2 = 0 → o % 4 = q.va % 4 →
      s.performQ core q k = read.answer q ((BitVec.ofNat (8 * r.2) (leGet (s.getCore c).spad.mem o r.2)).signExtend 32))
    ∧ (∀ r ∈ [(Instr.qstW g d a b, 4), (.qstH g d a b, 2), (.qstB g d a b, 1), (.fst g a b, 4)], q.instr = r.1 →
      s.performQ core q k = ((written s r.2 (q.b.toNat % 2 ^ (8 * r.2))).dropQ core q).ackQ core q)
    ∧ (∀ r ∈ [(Instr.amoAdd g a b, true, w + q.b), (.famoAdd g a b, true, w + q.b), (.amoAnd g a b, true, w &&& q.b),
        (.amoOr g a b, true, w ||| q.b), (.famoOr g a b, true, w ||| q.b), (.amoXor g a b, true, w ^^^ q.b),
        (.amoMin g a b, true, if w.slt q.b then w else q.b), (.amoMax g a b, true, if w.slt q.b then q.b else w),
        (.famoMax g a b, true, if w.slt q.b then q.b else w),
        (.amoMinu g a b, true, if w.ult q.b then w else q.b), (.amoMaxu g a b, true, if w.ult q.b then q.b else w),
        (.amoSwap g a b, true, q.b), (.famoSwap g a b, true, q.b), (.amoCas g d a b, true, if w = q.c then q.b else w),
        (.rwlRd g a, !w.getLsbD 31 && decide (w.toNat % 2 ^ 16 < 0xFFFF) && !(w.getLsbD 30 && decide (w.toNat / 2 ^ 16 % 2 ^ 14 ≠ 0)), w + 1),
        (.rwlWr g a, !w.getLsbD 31 && decide (w.toNat % 2 ^ 16 = 0), w ||| 0x80000000),
        (.rwlRu g a, decide (w.toNat % 2 ^ 16 ≠ 0), w - 1), (.rwlWu g a, w.getLsbD 31, w &&& 0x7FFFFFFF)], q.instr = r.1 → r.2.1 = true → o % 4 = 0 →
      s.performQ core q k = (written (s.dropQ core q) 4 (r.2.2.toNat % 2 ^ 32)).answer q w)
    ∧ (∀ r ∈ [(Instr.waita g a b, decide (w ≠ q.b)), (.waitc g a b, !w.slt q.b)], q.instr = r.1 → o % 4 = 0 →
      s.performQ core q k = if r.2 then read.answer q w else waits read false)
    ∧ (∀ r ∈ [(Instr.rwlRu g a, decide (w.toNat % 2 ^ 16 = 0)), (.rwlWu g a, !w.getLsbD 31)], q.instr = r.1 → r.2 = true → o % 4 = 0 →
      s.performQ core q k = read.answer q w)
    ∧ (q.instr = .rwlRd g a → o % 4 = 0 → (w.getLsbD 31 ∨ w.toNat % 2 ^ 16 = 0xFFFF ∨ (w.getLsbD 30 ∧ w.toNat / 2 ^ 16 % 2 ^ 14 ≠ 0)) →
      s.performQ core q k = waits read false)
    ∧ (q.instr = .rwlWr g a → o % 4 = 0 → (w.getLsbD 31 ∨ w.toNat % 2 ^ 16 ≠ 0) → w.toNat / 2 ^ 16 % 2 ^ 14 < 0x3FFF →
      s.performQ core q k = waits (written (s.dropQ core q) 4 ((w + 0x10000).toNat % 2 ^ 32)) true))
  ∧ (∀ (s : State) (core k : Nat) (q : QAcc) (g a : Nat) (n : Int) (c o : Nat), q.instr = .vqld g a n → q.place = .spad c o → k < 4 → o % 256 = 0 →
    (s.getCore c).spad.bad (o + 64 * k) = false → (∀ i, i < 16 → unseen (sget [] (s.getCore c).swzOld (o / 4 + 16 * k + i)) core = []) →
    ∃ (v : VReg) (u : State), (∀ i, i < 64 → lane v i = if i / 16 = k ∧ q.g.getLsbD i then (s.getCore c).spad.word (o + 4 * i) else 0)
      ∧ (∀ j, (u.getCore j).spad.mem = (s.getCore j).spad.mem) ∧ u.pkg.hbm.mem = s.pkg.hbm.mem
      ∧ s.performQ core q k = u.updThread q.tid fun t =>
        { t with vqPend := lmapIf (fun e => e.id = q.id) (fun (x : VRes) => { x with val := x.val ||| v, left := x.left - 1 }) t.vqPend })
  ∧ (∀ (s : State) (core k : Nat) (q : QAcc) (g a b pa t : Nat), q.instr = .qldW g a b → q.place = .mem pa t → t % 4 = 2 → q.va % 4 = 0 → pa % 4 = 0 →
    s.pkg.hbm.bad pa = false → (s.getCore core).line (s.asidOf q.task) q.va pa 2 = none →
    ∃ u : State, s.performQ core q k = u.answer q (s.pkg.hbm.word pa))
  ∧ (∀ (s : State) (w : Waiter) (g a b c o : Nat), s.ev.n = 1 → s.pkg.waiters[s.ev.k]? = some w → w.acc.instr = .waita g a b →
    w.acc.place = .spad c o → o % 4 = 0 → unseen (sget [] (s.getCore c).swzOld (o / 4)) w.core = [] →
    ((s.getCore c).spad.bad o = true → exec .queuedAccessAtHome s = .next ((s.poisonedQ w.acc).updPkg fun g => { g with waiters := ldel g.waiters s.ev.k })) ∧
    ((s.getCore c).spad.bad o = false →
    let u := s.stampLoadAt (.task w.acc.tid) (.spad c o)
    ((s.getCore c).spad.word o ≠ w.acc.b → exec .queuedAccessAtHome s = .next ((u.answer w.acc ((s.getCore c).spad.word o)).updPkg
      fun g => { g with waiters := ldel g.waiters s.ev.k }))
    ∧ ((s.getCore c).spad.word o = w.acc.b → exec .queuedAccessAtHome s = .next (u.updPkg
      fun g => { g with waiters := lset g.waiters s.ev.k { w with seen := u.waitWord w } }))))
  ∧ (∀ s : State, ∃ f : Thread → Thread, exec .queuedResultReturn s = .next (s.updThread s.ev.w f)
    ∧ (∀ (t : Thread) (r : QRes) (l : List QRes) (w : Word), s.ev.n ≠ 1 → t.lqPend = r :: l → r.val = some w →
      f t = { t with lq := t.lq ++ [w], lqPend := l })
    ∧ ∀ (t : Thread) (r : VRes) (l : List VRes), s.ev.n = 1 → t.vqPend = r :: l → r.left = 0 →
      f t = { t with vq := t.vq ++ [r.val], vqPend := l })
  ∧ ∀ s : State, exec .queuedStorePerformed s = .next (s.updCoreN s.ev.c fun c => { c with qack := c.qack.erase s.ev.w })

/-- Where an M operation's step is the one due (R151 to R155): one whose regions may be touched and whose start checks pass
starts now, from its timestamp at the fork, or the task's where queued accesses were outstanding then (R249, R251), with its
completion at its fixed latency: wprn 16 cycles, tzero 2 + 8n, tout, tin and tacc 70, tmov 68, wbld 24 (R151); a failed check
ends it with its fault. A pass whose tile, slab and A blocks are in range, whose regions may be touched and whose checks pass
takes the slab and the A chunk (R162, R166). A pass lands as one write of the tile, every other tile unchanged (R163): in MAC
mode on an FP32 tile by groups of four and block partials, with GSUM the exact sum (R67, R68); in the other modes, and on an
INT32 tile, by one step of CELLSEQ per logical position, pruned ones giving none (R70); of dense INT8 operands in MAC mode on
an INT32 tile each cell gains the wrapped sum of 64 products (R69). A tile of tzero becomes zero in the named mode, a row of
tmov is read, and written 4 cycles later, a row of tout is encoded to its run with DESC, and a row of tin is decoded to the
tile, of tacc added, in either view (R167 to R169). An operation completes by leaving tl with its timestamp joined; wprn then
has written its slab by the pruning rule (R172), and a wbld of dense unpoisoned columns the 64 blocks at its address with
their descriptors (R171), its timestamp raised by each read. The model's choices: a pass reads its chunk and slab at its
start, wbld its blocks at its completion (log entry 37), and an operation's timestamp joins the task's at its completion (log
entry 35). -/
def Obligations.MatrixUnitSteps : Prop :=
  let dueAs := fun (s : State) (m : MOp) (i : Instr) =>
    s.at_.core.th.mq.find? (·.seq = s.ev.n) = some m ∧ (m.due s.at_ s.at_.core).map (·.2) = some i
  (∀ (s u : State) (m : MOp), dueAs s m .mOpStart →
    s.at_.touchList s.at_.core.th.task.part s.at_.core.th.task.slot m.regions = (true, u) →
    (∀ f : MFault, u.startChecks m = some f → exec .mOpStart s =
      .next (s.giveBack ((u.updM m.seq fun e => { e with started := some s.at_.pkg.time }).faultM m f)))
    ∧ ∀ v, u.startChecks m = none → u.touchList s.at_.core.th.task.part s.at_.core.th.task.slot m.spadRegions = (true, v) →
    (isNest m.instr = true → m.cfg.tiles.isSome = true) →
    ∃ (done : Option Nat) (from_ : Nat), from_ = (if m.behind then max m.pts s.at_.core.th.csr.pts else m.pts)
      ∧ exec .mOpStart s = .next (s.giveBack (v.updM m.seq fun e =>
        { e with started := some s.at_.pkg.time, nextAt := s.at_.pkg.time + 2, fork := from_, pts := max from_ e.pts, doneAt := done }))
      ∧ ∀ g t b n k a c : Nat, ∀ r ∈ [(Instr.wprn24 g b c, some 16), (.wprn48 g b c, some 16), (.tzero g t n k, some (2 + 8 * n)), (.tout g t a b, some 70),
          (.tin g t a b, some 70), (.tacc g t a b, some 70), (.tmov g t b, some 68), (.wbld g b a c, some 24), (.ngo g, none), (.tmma g t b a, none)],
        m.instr = r.1 → done = r.2.map (s.at_.pkg.time + ·))
  ∧ (∀ (s u : State) (m : MOp) (t b : Nat), dueAs s m .passStart → m.tileNo = t → m.slabNo = b → t < 96 → b < 64 →
    s.at_.touchList s.at_.core.th.task.part s.at_.core.th.task.slot [16 + t / 4, 40 + b / 16] = (true, u) →
    let as_ := m.aBlocks (if (u.core.slab b).any (fun e => fmtKeep e.fmt ≠ 0) then 2 else 1)
    (∀ a ∈ as_, a % 64 = 0 ∧ a < 0x100000) → ∀ v, u.touchList s.at_.core.th.task.part s.at_.core.th.task.slot (as_.map spadRegion).eraseDups = (true, v) →
    let r := v.readA m.fork m.pts as_
    (∀ f : MFault, checkRead u.core m r.1 (u.core.slab b) = some f → exec .passStart s = .next (s.giveBack ((v.flushCells m).faultM m f)))
    ∧ (checkRead u.core m r.1 (u.core.slab b) = none → u.passBad m as_ = false →
    exec .passStart s = .next (s.giveBack (r.2.2.updM m.seq fun e =>
      { e with pass := some u.pkg.time, passTile := t, passA := r.1.map (·.2), passS := u.core.slab b, pts := r.2.1 }))))
  ∧ (∀ (s : State) (m : MOp), dueAs s m .passLanding → m.cells = none → m.sbk = false → m.int = true → macMode m.cfg.cellseq = true →
    m.passA.length = 64 → m.passS.length = 64 → (∀ e ∈ m.passA, e.fmt = 2) → (∀ e ∈ m.passS, e.fmt = 2) → swf 0 s.at_.core.acc = true →
    ∃ acc : Sparse Word, exec .passLanding s = .next (s.giveBack ((s.at_.updCore fun c => { c with acc := acc }).updM m.seq fun e =>
        { e with pass := none, passA := [], passS := [], cells := none, idx := (nextIdx m.cfg 0 m.idx).getD m.idx, nextAt := s.at_.pkg.time
                 doneAt := if nextIdx m.cfg 0 m.idx = none ∨ m.last = true then some s.at_.pkg.time else none }))
      ∧ (∀ j, j < 4096 * m.passTile ∨ 4096 * m.passTile + 4096 ≤ j → sget 0 acc j = sget 0 s.at_.core.acc j)
      ∧ ∀ (r n : Nat) (a b : DBlock), m.passA[r]? = some a → m.passS[n]? = some b →
        let j := 4096 * m.passTile + 64 * r + n
        let e := fun (x : DBlock) k => (x.data.extractLsb' (8 * k) 8).toInt
        sget 0 acc j = sget 0 s.at_.core.acc j + BitVec.ofInt 32 ((List.range 64).map fun k => e a k * e b k).sum)
  ∧ (∀ (s : State) (m : MOp) (J w : Nat), dueAs s m .passLanding → m.cells = none → m.sbk = false → (J = 1 ∨ J = 2) → (w = 8 ∨ w = 16) →
    m.passA.length = 64 * J → m.passS.length = 64 → (∀ a ∈ m.passA, a.width = w) →
    (∀ c ∈ m.passS, c.width = w ∧ (fmtKeep c.fmt = 0 ↔ J = 1)) → swf 0 s.at_.core.acc = true →
    ∃ acc : Sparse Word, exec .passLanding s = .next (s.giveBack ((s.at_.updCore fun c => { c with acc := acc }).updM m.seq fun e =>
        { e with pass := none, passA := [], passS := [], cells := none, idx := (nextIdx m.cfg 0 m.idx).getD m.idx, nextAt := s.at_.pkg.time
                 doneAt := if nextIdx m.cfg 0 m.idx = none ∨ m.last = true then some s.at_.pkg.time else none }))
      ∧ (∀ j, j < 4096 * m.passTile ∨ 4096 * m.passTile + 4096 ≤ j → sget 0 acc j = sget 0 s.at_.core.acc j)
      ∧ ∀ (r n : Nat) (col : DBlock), r < 64 → m.passS[n]? = some col →
        let old := sget 0 s.at_.core.acc (4096 * m.passTile + 64 * r + n)
        let e := 512 / w
        let blk := fun k => lget zeroBlock m.passA (J * r + k)
        let a := fun j => (blk (j / e)).elem w (j % e)
        let b := fun j => if J = 1 then some (col.elem w j)
          else if col.mask.getLsbD j then some (col.elem w ((List.range j).countP fun i => col.mask.getLsbD i)) else none
        let scale := fun (x : DBlock) => scaleAt m.scale (x.desc.toNat / 256 % 16)
        let prod := fun k i => match b (e * k + i) with
          | none => Num.fin false 0 1
          | some y => ((arrVal (blk k).fmt (a (e * k + i))).mul (arrVal col.fmt y)).1
        let partial_ := fun k => (List.range (e / 4)).foldl (fun p g => (rne32 ((f32 p).add
          (f32 (rne32 (gsum ((List.range 4).map fun i => prod k (4 * g + i)))).1)).1).1) (0 : Word)
        let part := fun k => let p := partial_ k
          if (f32 p).isZero then p else (rne32 ((f32 p).mul ((f32 (scale (blk k))).mul (f32 (scale col))).1).1).1
        let op := fun j => m.cfg.cellseq.toNat / 4 ^ (j % (m.cfg.cellseq.toNat / 2 ^ 16 % 8 + 1)) % 4
        let stepF := fun j (c x y : Word) =>
          if op j = 0 then (fmaN (f32 x) (f32 y) (f32 c)).1
          else if op j = 1 then (rne32 ((f32 c).add (match ((f32 x).add (f32 y).neg).1 with
            | .fin _ p q => .fin false p q | .inf _ => .inf false | z => z)).1).1
          else (minmaxF (op j = 2) c (addF x y).1).1
        let stepI := fun j (c : Word) (x y : Int) =>
          if op j = 0 then c + BitVec.ofInt 32 (x * y) else if op j = 1 then c + BitVec.ofInt 32 |x - y|
          else if op j = 2 then (if c.toInt ≤ x + y then BitVec.ofInt 32 (x + y) else c)
          else if x + y ≤ c.toInt then BitVec.ofInt 32 (x + y) else c
        let decoded := fun (x : DBlock) v => (scaledDecode x.fmt v (scale x)).1
        sget 0 acc (4096 * m.passTile + 64 * r + n) =
          if m.int = false ∧ macMode m.cfg.cellseq = true then (List.range J).foldl (fun c k => (addF c (part k)).1) old
          else (List.range (J * e)).foldl (fun c j => match b j with
            | none => c
            | some y => if m.int then stepI j c (sextNat (a j) 8) (sextNat y 8) else stepF j c (decoded (blk (j / e)) (a j)) (decoded col y)) old)
  ∧ (∀ ps : List Machine.Num, ps.length = 4 →
    ((∃ x ∈ ps, x.isNan = true) ∨ (.inf true ∈ ps ∧ .inf false ∈ ps) → (rne32 (gsum ps)).1 = 0x7FC00000)
    ∧ (∀ b, (∀ x ∈ ps, x.isNan = false) → .inf b ∈ ps → .inf (!b) ∉ ps → gsum ps = .inf b)
    ∧ ∀ (sg : Nat → Bool) (p q : Nat → Nat), (∀ i, i < 4 → ps[i]? = some (.fin (sg i) (p i) (q i)) ∧ 0 < q i) →
      let value := fun (b : Bool) (u v : Nat) => ((if b then -1 else 1 : ℚ) * u / v)
      let x := ((List.range 4).map fun i => value (sg i) (p i) (q i)).sum
      ∃ b u v, gsum ps = .fin b u v ∧ 0 < v ∧ value b u v = x ∧ (x = 0 → b = false))
  ∧ (∀ (s : State) (m : MOp) (g t a b : Nat), dueAs s m .tileRowTransfer → swf 0 s.at_.core.acc = true → swf 0 s.at_.core.spad.mem = true →
    swf 0 s.at_.core.spad.desc = true →
    let sp := s.at_.core.spad
    let sw := m.xb.getLsbD 31
    let ad := m.xa.toNat + m.row * (m.xb.toNat / 2 ^ 20 % 2 ^ 11 * 64)
    let other := if sw then s.at_.core.linOld else s.at_.core.swzOld
    let int := m.xb.getLsbD 16
    ad % 64 = 0 →
    (m.instr = .tout g t a b → sget false s.at_.core.tpoison t = false → let d := m.xb.toNat % 65536
      let w := fmtWidth (d % 256)
      descSub true d = none → ad + 8 * w ≤ 0x100000 →
      (∀ k, k < 2 * w → unseen (sget [] other (viewAddr sw (ad + 4 * k) / 4)) s.at_.core.num = []) →
      ∃ (mem : Memory) (desc : Sparse Desc) (poison : Sparse Bool) (wts rts : Sparse Nat) (lin swzd : Sparse (List Mark)) (pts : Nat),
        exec .tileRowTransfer s = .next (s.giveBack ((s.at_.updCore fun c =>
          { c with linOld := lin, swzOld := swzd, spad := { c.spad with mem, desc, poison, wts, rts } }).updM m.seq fun e =>
          { e with pts := pts, row := m.row + 1 }))
        ∧ (∀ n, n < 64 → let v := sget 0 s.at_.core.acc (4096 * t + 64 * m.row + n)
          let sc := scaleAt m.scale (m.xb.toNat / 2 ^ 16 % 16)
          leGet mem (viewAddr sw (ad + n * w / 32 * 4)) 4 / 2 ^ (n * w % 32) % 2 ^ w =
            if sget false s.at_.core.tmode t then (convTo (d % 256) (scaleMul (ofInt v.toInt) sc).1).1 else (scaledEncode (d % 256) v sc).1)
        ∧ (∀ k, k < w / 8 → sget 0 desc (viewBlock sw (ad + 64 * k) / 64) = BitVec.ofNat 16 d)
        ∧ ∀ y, (∀ k, k < 2 * w → y / 4 * 4 ≠ viewAddr sw (ad + 4 * k)) → sget 0 mem y = sget 0 sp.mem y)
    ∧ ∀ add : Bool, m.instr = (if add then .tacc g t a b else .tin g t a b) → let first := (sp.descAt (viewBlock sw ad)).toNat
      let w := fmtWidth (first % 256)
      descSub true first = none → ad + 8 * w ≤ 0x100000 → (add = true → sget false s.at_.core.tpoison t = false) →
      (s.at_.touchList s.at_.core.th.task.part s.at_.core.th.task.slot (runOf ad (8 * w))).1 = true →
      (∀ k, k < w / 8 → let d := (sp.descAt (viewBlock sw (ad + 64 * k))).toNat
        descSub true d = none ∧ fmtWidth (d % 256) = w ∧ (int = true → d % 16 = 2 ∨ d % 16 = 6) ∧ sp.bad (viewBlock sw (ad + 64 * k)) = false) →
      (∀ k, k < 2 * w → unseen (sget [] other (viewAddr sw (ad + 4 * k) / 4)) s.at_.core.num = []) →
      ∃ (acc : Sparse Word) (own : Sparse Owner) (rts : Sparse Nat) (pts : Nat),
        exec .tileRowTransfer s = .next (s.giveBack ((s.at_.updCore fun c =>
          { c with acc := acc, owner := own, spad := { c.spad with rts }
                   tmode := if m.row = 0 ∧ add = false then sset false c.tmode t int else c.tmode }).updM m.seq fun e =>
          { e with pts := pts, row := m.row + 1 }))
        ∧ (∀ j, j / 64 ≠ 64 * t + m.row → sget 0 acc j = sget 0 s.at_.core.acc j)
        ∧ ∀ n, n < 64 → let d := (sp.descAt (viewBlock sw (ad + n * w / 512 * 64))).toNat
          let e := (sp.word (viewAddr sw (ad + n * w / 32 * 4))).toNat / 2 ^ (n * w % 32) % 2 ^ w
          let v := if int then BitVec.ofInt 32 (sextNat e w) else (scaledDecode (d % 256) e (scaleAt m.scale (d / 256 % 16))).1
          let old := sget 0 s.at_.core.acc (4096 * t + 64 * m.row + n)
          sget 0 acc (4096 * t + 64 * m.row + n) = if add then (if int then old + v else (addF old v).1) else v)
  ∧ (∀ (s : State) (m : MOp) (g t n k u : Nat), dueAs s m .tileRowTransfer → swf 0 s.at_.core.acc = true →
    ∃ (acc : Sparse Word) (modes poison : Sparse Bool),
      (m.instr = .tzero g t n k → exec .tileRowTransfer s = .next (s.giveBack ((s.at_.updCore fun c =>
          { c with acc := acc, tmode := modes, tpoison := poison }).updM m.seq fun e => { e with row := m.row + 1 }))
        ∧ modes = sset false s.at_.core.tmode (t + m.row) (k % 2 = 1)
        ∧ ∀ j, sget 0 acc j = if j / 4096 = t + m.row then 0 else sget 0 s.at_.core.acc j)
      ∧ (m.instr = .tmov g t u → m.reads s.at_.pkg.time = true → sget false s.at_.core.tpoison u = false → ∃ l : List Word,
        (∀ j, j < 64 → l[j]? = some (sget 0 s.at_.core.acc (4096 * u + 64 * m.row + j))) ∧ l.length = 64
        ∧ exec .tileRowTransfer s = .next (s.giveBack (s.at_.updM m.seq fun e =>
          { e with rows := e.rows ++ [(m.started.getD 0 + m.row + 4, m.row, l)], row := m.row + 1 })))
      ∧ ∀ at_ r l rest, m.instr = .tmov g t u → m.reads s.at_.pkg.time = false → m.rows = (at_, r, l) :: rest → l.length = 64 →
        exec .tileRowTransfer s = .next (s.giveBack ((s.at_.updCore fun c =>
          { c with acc := acc, tmode := modes }).updM m.seq fun e => { e with rows := rest }))
        ∧ modes = (if r = 0 then sset false s.at_.core.tmode t (sget false s.at_.core.tmode u) else s.at_.core.tmode)
        ∧ ∀ j, sget 0 acc j = if j / 64 = 64 * t + r then lget 0 l (j % 64) else sget 0 s.at_.core.acc j)
  ∧ (∀ (s : State) (m : MOp) (g t u : Nat), m.instr = .tmov g t u → (m.reads s.pkg.time = true ↔ m.row < 64 ∧ m.started.getD 0 + m.row ≤ s.pkg.time))
  ∧ ∀ (s : State) (m : MOp), dueAs s m .mOpComplete → m.failed = false → m.cells = none → ∃ (u : State) (pts : Nat),
    exec .mOpComplete s = .next (s.giveBack (u.updTh fun h =>
      { h with mq := h.mq.filter (·.seq ≠ m.seq), csr := { h.csr with pts := max h.csr.pts pts } }))
    ∧ ((∀ g b a x, m.instr ≠ .wbld g b a x) → pts = m.pts)
    ∧ ∀ g t b n k c x : Nat,
      ((m.instr = .ngo g ∨ m.instr = .tmma g t b x ∨ m.instr = .tzero g t n k ∨ m.instr = .tout g t x b ∨ m.instr = .tin g t x b
        ∨ m.instr = .tacc g t x b ∨ m.instr = .tmov g t x) → u = s.at_)
      ∧ (∀ w ∈ [(Instr.wprn24 g b c, 4), (.wprn48 g b c, 8)], m.instr = w.1 → u = s.at_.updCore fun k =>
        k.setSlab b (((k.slab c).zip (k.slab (c + 1))).map fun e => pruneCol w.2 e.1 e.2))
      ∧ (m.instr = .wbld g b x 0 → m.xa.toNat % 64 = 0 → swf zeroBlock s.at_.core.wb = true →
        (∀ j, j < 64 → s.at_.core.spad.bad (m.xa.toNat + 64 * j) = false ∧ fmtKeep ((s.at_.core.spad.descAt (m.xa.toNat + 64 * j)).toNat % 256) = 0) →
        (∀ j, j < 1024 → unseen (sget [] s.at_.core.swzOld (m.xa.toNat / 4 + j)) s.at_.core.num = []) →
        pts = (List.range 64).foldl (fun n j => max n (max m.fork (sget 0 s.at_.core.spad.wts (m.xa.toNat / 64 + j)))) m.pts
        ∧ ∀ j, j < 64 → sget zeroBlock u.core.wb (64 * b + j) =
          { data := blockGet s.at_.core.spad.mem (m.xa.toNat + 64 * j), desc := s.at_.core.spad.descAt (m.xa.toNat + 64 * j), mask := 0 })

/-- The first startable command of a buffer is one that is due, with the least due time of those startable (R179, R180); an
idle engine takes one of its group of four (R188). A started copy command leaves its buffer and is on the engine with at most
32 steps at hand, the first of them at the beginning, its accesses from its issuer's timestamp (R249, R251); a failed start
check ends it with ENGFAULT (R187). The steps of a started command between unpoisoned runs of the own scratchpad, in either
view, write and set full exactly the words of their destination: ccp, cnd, cgat and csct the source as it was, with its
descriptor under DH, cfill the pattern, cred the combination of both; cwb writes one column of a slab, with its mask where it
is compressed; a source or destination on another rank is asked for or sent (R182, R185, R186). cgat and csct read their index
list at their start. A step of a collective sends a header, or the elements of its source, to its first home where a place
there is free, or to every rank where nothing is combined (R195, R316). A command whose writes are made makes its signal, a
store of SIGVAL at SIG on the own rank, after the largest timestamp that it reached, and leaves the engine (R181, R182, R249);
one of a task that has ended leaves at once (R189). A message enters its context's buffer with what was performed before its
sending, or is dropped where the partition was torn down, and a returned credit is counted back, one of a collective's home to
the command (R192, R255, R315). After END a message held leaves with its credit, a held atomic changes its word, and after the
last the task is over (R276); its core is then free (R287). The model's choices: how places at a home are counted and given
back (log entry 45), that a thief's context is that of its own task (log entry 50), a due time at exactly 2^31 cycles (log
entry 113), the timestamp of what other ranks send (log entry 108). -/
def Obligations.EngineAndChannelSteps : Prop :=
  (∀ (s : State) (c : Cmd), s.firstStart s.ev.c (fun _ => true) = some c →
    let at_ := fun (m : Cmd) => (m.due - BitVec.ofNat 32 s.pkg.time).toInt
    c ∈ (s.getCore s.ev.c).th.cbuf ∧ at_ c ≤ 0 ∧ s.startable c (s.buffer s.ev.c) = true
    ∧ ∀ m ∈ (s.getCore s.ev.c).th.cbuf, s.startable m (s.buffer s.ev.c) = true → at_ c ≤ at_ m)
  ∧ (∀ (s : State) (c : Cmd), s.stealPick s.ev.c = some c → c.nosteal = false ∧ isColl c.instr = false ∧ isCwb c.instr = false
    ∧ isCsig c.instr = false ∧ (s.getCore s.ev.c).th.task.ctx = c.task.ctx
    ∧ ∃ v, v / 4 = s.ev.c / 4 ∧ v ≠ s.ev.c ∧ c ∈ (s.getCore v).th.cbuf ∧ s.startable c (s.buffer v) = true)
  ∧ (∀ (s : State) (c : Cmd) (d : CtxDesc), s.cmdCtx c = some d → isColl c.instr = false → s.findCmd c.tid c.ref = none → c.next = [] → ∀ r ∈ [(Instr.commandStart, s.engineBusy s.ev.c = false ∧ s.firstStart s.ev.c (fun _ => true) = some c),
      (.workSteal, s.stealPick s.ev.c = some c)], r.2 →
    (c.startFault d.rank d.gangsz = none → isCgat c.instr = false → isCsct c.instr = false → ∃ m : Cmd, exec r.1 s = .next ((s.unbuffer c).updPkg fun k => { k with cmds := k.cmds ++ [m] })
      ∧ m = { c with eng := some s.ev.c, idx := [], pts := m.pts, fork := m.fork, next := m.next, cur := m.cur } ∧ m.next.length ≤ 32
      ∧ m.fork = (if c.behind then max c.pts (s.ptsOf c.tid) else c.pts) ∧ m.pts = max m.fork c.pts
      ∧ (∀ k, c.first = some k → m.next.head? = some (c.stepAt d.rank k).1) ∧ (c.first = none → m.next = [] ∧ m.cur = none))
    ∧ (c.startFault d.rank d.gangsz = none → isCgat c.instr = true ∨ isCsct c.instr = true → 0 < c.rows → 0 < c.rowlen →
      gaVa c.arg1 + 4 * c.rows ≤ 0x100000 → gaVa c.arg1 % 4 = 0 →
      swf Owner.none (s.getCore c.own).owner = true →
      (∀ i, i < c.rows → let y := gaVa c.arg1 + 4 * i
        (s.getCore c.own).spad.bad y = false ∧ unseen (sget [] (s.getCore c.own).swzOld (y / 4)) c.own = []
        ∧ (s.remoteTouch c.own (y / 65536) c.task.part c.task.slot).1 = true) →
      ∃ (v : State) (m : Cmd), exec r.1 s = .next ((v.unbuffer c).updPkg fun k => { k with cmds := s.pkg.cmds ++ [m] })
        ∧ (∀ n, (v.getCore n).spad.mem = (s.getCore n).spad.mem) ∧ v.pkg.hbm.mem = s.pkg.hbm.mem
        ∧ m.eng = some s.ev.c ∧ c.pts ≤ m.pts ∧ m.idx.length = c.rows
        ∧ ∀ i, i < c.rows → m.idx[i]? = some ((s.getCore c.own).spad.word (gaVa c.arg1 + 4 * i)))
    ∧ ∀ sub a, c.startFault d.rank d.gangsz = some (sub, a) → exec r.1 s = .next ((s.unbuffer c).failCmd c 0x0A sub a 0))
  ∧ (∀ (s : State) (c : Cmd) (d : CtxDesc) (k : Seg), s.findCmd s.ev.w s.ev.k = some c → s.paused c.own = false →
    c.stopped = false → c.next[s.ev.j]? = some k → s.cmdCtx c = some d →
    let o := s.getCore c.own
    let i32 := fun (w : Nat) => sextNat w 32
    let va := fun (base : Nat) (plane row : Int) => (((gaVa base : Int) + k.plane * plane + row + k.pos) % (2 ^ 48 : Int)).toNat
    let src := va c.src (if isCnd c.instr then i32 (c.w 14) else 0)
      ((if isCgat c.instr then (lget 0 c.idx k.row).toNat else k.row : Nat) * i32 (c.w 6))
    let dst := va c.dst (if isCnd c.instr then i32 (c.w 15) else 0)
      ((if isCsct c.instr then (lget 0 c.idx k.row).toNat else k.row : Nat) * i32 (c.w 7))
    let free := fun (sw : Bool) (y : Nat) => unseen (sget [] (if sw then o.linOld else o.swzOld) (viewAddr sw y / 4)) c.own = []
      ∧ (s.remoteTouch c.own (y / 65536) c.task.part c.task.slot).1 = true
    let reads := fun (sw : Bool) (a n : Nat) => a % 4 = 0 ∧ a + n ≤ 0x100000 ∧ ∀ i, i < n → o.spad.bad (viewAddr sw (a + i)) = false ∧ free sw (a + i)
    let writes := fun (sw : Bool) (a n : Nat) => a % 4 = 0 ∧ a + n ≤ 0x100000 ∧ ∀ i, i < n → free sw (a + i)
    -- what a step at the own scratchpad leaves: word `i` of the destination is `f i`, its full bit set under FE, and its block has descriptor `t`
    let stored := fun (f : Nat → Nat) (t : Option Desc) => ∃ u : State, exec .commandBlockStep s = .next (u.stepMade c d s.ev.j)
      ∧ u.pkg.hbm.mem = s.pkg.hbm.mem
      ∧ (∀ i, i < k.n / 4 → leGet (u.getCore c.own).spad.mem (viewAddr c.dswz (dst + 4 * i)) 4 = f i
        ∧ (u.getCore c.own).spad.full (viewAddr c.dswz (dst + 4 * i)) = (c.fe || o.spad.full (viewAddr c.dswz (dst + 4 * i))))
      ∧ (∀ y, (∀ i, i < k.n / 4 → y / 4 * 4 ≠ viewAddr c.dswz (dst + 4 * i)) →
        sget 0 (u.getCore c.own).spad.mem y = sget 0 o.spad.mem y ∧ (u.getCore c.own).spad.full y = o.spad.full y)
      ∧ ∀ b, sget 0 (u.getCore c.own).spad.desc b = match t with
        | none => sget 0 o.spad.desc b
        | some x => if b = viewBlock c.dswz dst / 64 then x else sget 0 o.spad.desc b
    0 < k.n → k.n % 4 = 0 → swf 0 o.spad.mem = true → swf 0 o.spad.desc = true → swf false o.spad.fe = true →
    swf Owner.none o.owner = true →
    (gaRank c.dst = d.rank → k.n ≤ 64 → writes c.dswz dst k.n → (c.dh = true → k.n = 64 ∧ dst % 64 = 0) →
      (isCfill c.instr = true → stored (fun _ => c.arg0) (if c.dh then some (BitVec.ofNat 16 c.arg1) else none))
      ∧ (gaRank c.src = d.rank → reads c.sswz src k.n → (c.dh = true → src % 64 = 0) →
        (usesSrc c.instr = true ∧ isCwb c.instr = false ∧ isCred c.instr = false →
          stored (fun i => leGet o.spad.mem (viewAddr c.sswz (src + 4 * i)) 4) (if c.dh then some (o.spad.descAt (viewBlock c.sswz src)) else none))
        ∧ (isCred c.instr = true → c.dh = false → (∀ i, i < k.n → o.spad.bad (viewAddr c.dswz (dst + i)) = false) → stored (fun i =>
          (comb (c.ctl / 16 % 16) (c.ctl / 256 % 16) (o.spad.word (viewAddr c.dswz (dst + 4 * i))) (o.spad.word (viewAddr c.sswz (src + 4 * i)))).toNat) none)))
    ∧ (isCwb c.instr = true → gaRank c.src = d.rank → let from_ := gaVa c.src + 4096 * k.row + 64 * k.pos
      let slab := c.arg0 % 64 + k.row
      let masks := gaVa c.arg1 + 1024 * k.row + 16 * k.pos
      let desc := o.spad.descAt (viewBlock c.sswz from_)
      let masked : Bool := c.arg1 ≠ 0 && fmtKeep (desc.toNat % 256) ≠ 0
      k.n = 64 → k.pos < 64 → slab < 64 → from_ % 64 = 0 → reads c.sswz from_ 64 → swf ⟨0, 0, 0⟩ o.wb = true →
      (masked = true → gaRank c.arg1 = d.rank ∧ masks % 16 = 0 ∧ reads false masks 16) →
      (s.remoteTouch c.own (40 + slab / 16) c.task.part c.task.slot).1 = true →
      ∃ u : State, exec .commandBlockStep s = .next (u.stepMade c d s.ev.j) ∧ u.pkg.hbm.mem = s.pkg.hbm.mem ∧ (u.getCore c.own).spad.mem = o.spad.mem
        ∧ ∃ x : DBlock, x.desc = desc ∧ (∀ i, i < 16 → x.data.extractLsb' (32 * i) 32 = o.spad.word (viewAddr c.sswz (from_ + 4 * i)))
          ∧ x.mask = (if masked then BitVec.ofNat 128 (leGet o.spad.mem masks 16) else 0)
          ∧ ∀ b, sget ⟨0, 0, 0⟩ (u.getCore c.own).wb b = if b = 64 * slab + k.pos then x else sget ⟨0, 0, 0⟩ o.wb b)
    ∧ (usesSrc c.instr = true → gaRank c.src ≠ d.rank → exec .commandBlockStep s = .next ((s.cmdSend c d
        (c.src / 2 ^ 54 * 2 ^ 54 + if isCwb c.instr then (gaVa c.src + 4096 * k.row + 64 * k.pos) % 2 ^ 48 else src) (.read c.ref k) {}
        { kind := 2, arg := BitVec.ofNat 32 (k.n + if c.dh || isCwb c.instr then 512 else 0) }).stepMade c d s.ev.j))
    ∧ (gaRank c.dst ≠ d.rank → k.n ≤ 256 → let addr := c.dst / 2 ^ 54 * 2 ^ 54 + dst
      let desc := fun (f : Nat → Desc) => if c.dh then (List.range (k.n / 64)).map f else []
      let put := fun (l : List Byte) (t : List Desc) (v : State) => exec .commandBlockStep s = .next ((v.cmdSend c d addr (.write c.ref k) {}
        (if isCred c.instr then { kind := 4, payload := l, arg := BitVec.ofNat 32 (c.ctl / 16 % 16 + 16 * (c.ctl / 256 % 16)) }
          else { kind := 1, payload := l, desc := t, wfl := (if c.fe then 1 else 0) + if t = [] then 0 else 2 })).stepMade c d s.ev.j)
      (isCfill c.instr = true → put ((List.range k.n).map fun i => BitVec.ofNat 8 (c.arg0 / 256 ^ (i % 4))) (desc fun _ => BitVec.ofNat 16 c.arg1) s)
      ∧ (usesSrc c.instr = true → isCwb c.instr = false → gaRank c.src = d.rank → reads c.sswz src k.n → (c.dh = true → src % 64 = 0 ∧ k.n % 64 = 0) →
        ∃ v : State, (∀ n, (v.getCore n).spad.mem = (s.getCore n).spad.mem) ∧ v.pkg.hbm.mem = s.pkg.hbm.mem
          ∧ put ((List.range k.n).map fun i => sget 0 o.spad.mem (viewAddr c.sswz (src + i)))
            (desc fun j => o.spad.descAt (viewBlock c.sswz (src + 64 * j))) v)))
  ∧ (∀ (s : State) (c : Cmd) (d : CtxDesc) (k : Seg), s.findCmd s.ev.w s.ev.k = some c → s.paused c.own = false →
    c.stopped = false → c.next[s.ev.j]? = some k → s.cmdCtx c = some d → isColl c.instr = true →
    let o := s.getCore c.own
    let none_ := collOp c.instr = 0x0C ∨ collOp c.instr = 0x0D ∨ collOp c.instr = 0x10
    let head : Packet := { srank := 0, part := c.task.part, kind := 9, posChan := c.w 5 / 256 % 64, posSeq := c.chn % 2 ^ 14, posOff := k.pos
                           share := k.plane, opc := collOp c.instr, top := c.w 5 % 16 + 16 * (c.w 5 / 16 % 16) + 128 * (c.w 5 / 2 ^ 14 % 2)
                           count := c.w 4, rows := c.w 7, root := c.w 6 % 1024, gsz := d.gangsz, gang := d.gang }
    let width := if c.w 5 % 16 = 2 then 2 else 4
    let from_ := (gaVa c.src + if collOp c.instr = 0x0E then k.row * c.w 8 + (k.pos - k.row * (c.w 4 + 2)) * 4
      else ((if collOp c.instr = 0x0B then k.plane * c.w 4 else 0) + k.pos) * width) % 2 ^ 48
    let home := d.rank / 2 * 2
    let give := fun (v : State) (p : Packet) => ((v.collSend c d home { p with posLeft := home }).updCmd c.tid c.ref fun m => { m with lent := m.lent + 1 })
    ((¬ none_ ∨ k.n = 0) → s.hasPlace c = false → exec .commandBlockStep s = .next s)
    ∧ (none_ → k.n = 0 → s.hasPlace c = true → exec .commandBlockStep s = .next ((give s head).stepMade c d s.ev.j))
    ∧ ((none_ → 0 < k.n) → (¬ none_ → s.hasPlace c = true) → 0 < k.n → from_ + k.n * width ≤ 0x100000 → swf Owner.none o.owner = true →
      (∀ i, i < k.n * width → let y := from_ + i
        o.spad.bad (viewAddr c.sswz y) = false ∧ unseen (sget [] (if c.sswz then o.linOld else o.swzOld) (viewAddr c.sswz y / 4)) c.own = []
        ∧ (s.remoteTouch c.own (y / 65536) c.task.part c.task.slot).1 = true) →
      let p : Packet := { head with payload := (List.range (k.n * width)).map fun i => sget 0 o.spad.mem (viewAddr c.sswz (from_ + i)) }
      ∃ v : State, (∀ n, (v.getCore n).spad.mem = (s.getCore n).spad.mem) ∧ v.pkg.hbm.mem = s.pkg.hbm.mem
        ∧ (¬ none_ → exec .commandBlockStep s = .next ((give v p).stepMade c d s.ev.j))
        ∧ (none_ → exec .commandBlockStep s = .next (((List.range d.gangsz).foldl (fun v r => v.collSend c d r { p with kind := 10 }) v).stepMade c d s.ev.j))))
  ∧ (∀ (s : State) (c : Cmd), s.findCmd s.ev.w s.ev.k = some c → s.paused c.own = false → c.stopped = true →
    exec .commandBlockStep s = .next (s.dropCmd c) ∧ (s.dropCmd c).pkg.cmds = s.pkg.cmds.filter fun m => !(m.tid = c.tid && m.ref = c.ref))
  ∧ (∀ (s : State) (c : Cmd) (d : CtxDesc), s.findCmd s.ev.w s.ev.k = some c → s.paused c.own = false → c.stopped = false →
    s.written c = true → s.cmdCtx c = some d → isColl c.instr = false →
    ((c.signals = false ∨ c.held = true ∨ c.signalled = true) → exec .commandComplete s = .next ((s.flagNv c).dropCmd c))
    ∧ (c.signals = true → c.held = false → c.signalled = false → gaRank c.sig = d.rank → gaVa c.sig < 0x100000 → gaVa c.sig % 4 = 0 →
      c.sigop = 0 → unseen (sget [] (s.getCore c.own).swzOld (gaVa c.sig / 4)) c.own = [] → swf 0 (s.getCore c.own).spad.mem = true →
      (s.remoteTouch c.own (gaVa c.sig / 65536) c.task.part c.task.slot).1 = true →
      ∃ u : State, exec .commandComplete s = .next ((u.flagNv c).dropCmd c)
        ∧ (u.getCore c.own).spad.word (gaVa c.sig) = BitVec.ofNat 32 c.sigval
        ∧ (swf 0 (s.getCore c.own).spad.wts = true → c.pts ≤ sget 0 (u.getCore c.own).spad.wts (gaVa c.sig / 64))))
  ∧ (∀ s : State, (s.ev.k = 0 → s.takeIn = some (s.ev.m, s))
    ∧ ∀ x, s.ev.k ≠ 0 → s.pkg.inq[s.ev.k - 1]? = some x →
      s.takeIn = some (x.pkt, (s.updPkg fun g => { g with inq := ldel g.inq (s.ev.k - 1) }).moveIn x.vc 32))
  ∧ (∀ (s u : State) (k : Packet) (d : CtxDesc), s.takeIn = some (k, u) → u.gangCtx k.part k.gang = some d →
    ((u.getPart k.part).torn = true → exec .channelMessageArrival s = .next u)
    ∧ ((u.getPart k.part).torn = false → exec .channelMessageArrival s = .next ((u.sink k.part d.slot).updCtx k.part d.slot fun x =>
      { x with msgs := x.msgs ++ [{ core := k.dcore, ch := k.chan, num := k.posOff, src := k.score, payload := k.payload,
                                      ts := if k.srank = k.drank then k.ts else u.importTs k.part }]
               msgRecv := x.msgRecv + 1 })))
  ∧ (∀ s : State, let key := 64 * s.ev.c + s.ev.k
    (s.ev.n = 1 → exec .channelCreditReturn s = .next (s.updCtx s.ev.p s.ev.s fun x =>
      { x with used := sset 0 x.used key (sget 0 x.used key - 1) }))
    ∧ (s.ev.n = 2 → exec .channelCreditReturn s = .next (s.updPkg fun g =>
      { g with cmds := lmapIf (fun c => c.inColl s.ev.p s.ev.s s.ev.k s.ev.v) (fun (c : Cmd) => { c with lent := c.lent - 1 }) g.cmds }))
    ∧ (s.ev.n ≠ 1 → s.ev.n ≠ 2 → 0 < sget 0 (s.getCtx s.ev.p s.ev.s).back key → exec .channelCreditReturn s = .next (s.updCtx s.ev.p s.ev.s fun x =>
      { x with used := sset 0 x.used key (sget 0 x.used key - 1), back := sset 0 x.back key (sget 0 x.back key - 1) })))
  ∧ (∀ (s : State) (d : CtxDesc), let u := s.at_
    let part := u.core.th.task.part
    let slot := u.core.th.task.slot
    u.core.phase = .ending → u.settled u.core.num = true → u.core.th.pendF = [] → u.taskCtx u.core.th.task = some d →
    (u.core.th.holdq = [] → exec .heldRelease s = .next (s.giveBack (u.leaveAll.updCore fun c => { c with phase := .released })))
    ∧ (∀ ch l rest, u.core.th.holdq = .message ch l :: rest → u.hasCredit ch = true →
      exec .heldRelease s = .next (s.giveBack ((u.sendMsg ch l).updTh fun h => { h with holdq := rest })))
    ∧ ∀ i va b c w pc rest, u.core.th.holdq = .amo i va b c false pc :: rest → va < 0x100000 → va % 4 = 0 →
      (u.remoteTouch u.core.num (va / 65536) part slot).1 = true → u.core.spad.bad va = false → unseen (sget [] u.core.swzOld (va / 4)) u.core.num = [] →
      swf 0 u.core.spad.mem = true → amoNew i (u.core.spad.word va) b c = some w →
      ∃ v : State, exec .heldRelease s = .next (s.giveBack (v.updTh fun h => { h with holdq := rest })) ∧ v.core.spad.word va = w)
  ∧ (∀ s : State, (s.getCore s.ev.c).phase = .released → s.settled s.ev.c = true →
    exec .coreFreed s = .next ((s.finishTask (s.getCore s.ev.c).th.task).freeUp s.ev.c))
  ∧ ∀ (s : State) n, ((s.freeUp n).getCore n).phase = .idle ∧ ((s.freeUp n).getCore n).th = {} ∧ ((s.freeUp n).getCore n).l1 = []
    ∧ ((s.freeUp n).getCore n).spad = (s.getCore n).spad

/-- An arm of a free mailbox slot is noted, of an armed or unknown slot logged (R265). The first acceptable slot is freed and
its record captured: an invalid record, an unknown gang or image is refused, a bad calendar and an allocation of reductions
that does not fit too, one whose DONE or SIG cannot be written is logged, and otherwise the launch is live with an arrival at
its entry (R266, R267, R302). An arrival at a malformed node is BADNODE, at an END node it ends the path, at a JOIN it counts,
at a branch a word selects the successor, and at a TASK node a new instance enters the ready queue, one task for each seed
(R268 to R272, R278). A split divides a dimension in two parts that are not empty at a multiple of the grain (R277). The first
entry of the scan that has a core is placed in its start state (R274, R280). An entry ages behind those that aged before
(R280). A pre-empted task at rest is parked with its regions and re-enters its queue, a bound set with its last (R282). A
folding task's dirty lines go back to HBM before it becomes, with a halvable dimension, two at the head of the queue, and one
without is MINGRAIN and gone (R279); its scratchpad regions are zero when its core is free. A launch whose two samples agree
completes, and one whose watchdog runs out ends HANG with every task abandoned, a task that is gone without an entry in the
report (R288 to R291). The model's choices: deleted contexts are noticed at an acceptance (log entry 116), an image's mask is
not checked there (log entry 62), a parked task is kept in Package.parked without a place in memory (log entry 114), and a
pre-emption does not wait for accesses that a registered lock or wait holds back (log entry 59). -/
def Obligations.LaunchesAndTasks : Prop :=
  (∀ s : State, let armed := (s.getPart s.ev.p).regs.armed
    (s.ev.v < 16 → s.ev.v ∉ armed →
      exec .arm s = .next (s.updPart s.ev.p fun q => { q with regs := { q.regs with armed := q.regs.armed ++ [s.ev.v] } }))
    ∧ (16 ≤ s.ev.v → exec .arm s = .next (s.logErr s.ev.p 0 (2 ^ 28 + s.ev.n) 4 (s.ev.v % 65536)))
    ∧ (s.ev.v < 16 → s.ev.v ∈ armed → exec .arm s = .next (s.logErr s.ev.p 0 (2 ^ 28 + s.ev.n) 4 s.ev.v)))
  ∧ (∀ (s : State) (k : Nat), s.acceptable s.ev.p = some k →
    let p := s.ev.p
    let l := s.captureLaunch p k
    let u := (s.sweep p).updPart p fun q => { q with regs := { q.regs with armed := q.regs.armed.erase k } }
    let img := fun d => u.gangCtx p l.gang = d ∧ l.invalid = false
    (l.invalid = true ∨ u.gangCtx p l.gang = none ∨ (u.images p).find? (fun i => i.id = l.image && i.valid) = none →
      exec .launchAccept s = .next (u.refuseLaunch p (u.gangCtx p l.gang) l 0x51 k l.graph))
    ∧ ∀ (d : CtxDesc) (i : Image), img (some d) → (u.images p).find? (fun i => i.id = l.image && i.valid) = some i →
      let bad := fun (host : Bool) (a n : Nat) => if host then (if u.hostOk p a n then none else some a) else u.unwritable p d a n
      let dbad := bad l.dhost l.done (64 + 16 * d.ncore)
      let full := chanOver (sget 0 u.pkg.regs.rallow p * 1024 - ((u.getPart p).launches.map (·.reserve)).foldl (· + ·) 0)
        (sortBy (fun a b => a.1 < b.1) i.channels)
      (∀ a, dbad = some a ∨ dbad = none ∧ bad l.shost l.sig 4 = some a → exec .launchAccept s = .next (u.logErr p a (2 ^ 28 * 5) 5 0))
      ∧ (dbad = none → bad l.shost l.sig 4 = none →
      (4096 < i.calendar.length → exec .launchAccept s = .next (u.refuseLaunch p (some d) l 0x55 0xFFFFFFFF 0))
      ∧ (i.calendar.length ≤ 4096 →
      (∀ n sub, u.calFault p 0 [] i.calendar = some (n, sub) → exec .launchAccept s = .next (u.refuseLaunch p (some d) l sub n 0))
      ∧ (u.calFault p 0 [] i.calendar = none →
        (∀ c, full = some c → exec .launchAccept s = .next (u.refuseLaunch p (some d) l 0x56 c 0))
        ∧ (full = none → exec .launchAccept s = .next (((u.updPart p fun q =>
            { q with launches := q.launches ++ [
              { l with
                slot := d.slot, arrivals := [l.entry], instNo := (u.getPart p).nextInst
                reserve := (i.channels.map fun e => chanNeed e.2.1).foldl (· + ·) 0 }] }).updCtx p d.slot
          fun x => { x with calendar := i.calendar, wdog := 0, lmap := u.readMap d x.lmap }).putChannels p d.slot i.channels))))))
  ∧ (∀ (s u : State) (l : Launch) (d : CtxDesc) (i : Nat) (rest : List Nat) (w : List Word),
    let p := s.ev.p
    s.getLaunch p s.ev.s = some l → s.ctxDesc p s.ev.s = some d → l.arrivals = i :: rest → s.onRota p l.slot = true →
    let va := l.graph + 64 * i
    (s.updLaunch p l.slot fun l => { l with arrivals := rest }).look p d va 16 = .words w u →
    let kind := (lget 0 w 0).toNat % 16
    let lo := (lget 0 w 1).toNat % 65536
    let next := (lget 0 w 1).toNat / 65536
    let tasks := nodeTaskOf p { l with arrivals := rest } i w (u.getPart p).nextInst
    (badNode w = true → exec .nodeArrival s =
      .next (u.launchFaultBy (5 * 2 ^ 28) p l.slot (0x50 * 256 + 0x0A) (BitVec.ofNat 32 (i % 4096 * 2 ^ 20 + 0xFFFFF)) i va))
    ∧ (badNode w = false →
      (kind = 0 → exec .nodeArrival s = .next (u.updLaunch p l.slot fun l => { l with endReached := true }))
      ∧ (kind = 1 → exec .nodeArrival s = .next (u.startInst p { l with arrivals := rest } i next va (u.isJoin p d (l.graph + 64 * next)) false
        (tasks.seeds ((lget 0 w 0).toNat / 2 ^ 22 % 16))))
      ∧ (kind = 2 → exec .nodeArrival s = .next (u.startInst p { l with arrivals := rest } i next va false true
        (bsetTasks p { l with arrivals := rest } i w (u.getPart p).nextInst)))
      ∧ (∀ x v, kind = 3 ∨ kind = 4 → u.look p d ((lget 0 w 2).toNat + (lget 0 w 3).toNat * 2 ^ 32) 1 = .words [x] v →
        exec .nodeArrival s = .next (v.arrival p l.slot (if x ≠ 0 then lo else next)))
      ∧ (kind = 5 → sget 0 l.joins i + 1 < lo → exec .nodeArrival s = .next (u.updLaunch p l.slot fun n =>
        { n with joins := sset 0 n.joins i (sget 0 l.joins i + 1) }))
      ∧ (kind = 5 → sget 0 l.joins i + 1 = lo → exec .nodeArrival s = .next ((u.updLaunch p l.slot fun n =>
        { n with joins := sset 0 n.joins i 0 }).arrival p l.slot next))))
  ∧ (∀ (s : State) (p i next va : Nat) (l : Launch) (each : Bool) (all : List Task), swf {} s.pkg.parts = true → all ≠ [] → all.length ≤ l.room →
    ((s.startInst p l i next va each false all).getPart p).ready = (s.getPart p).ready ++ (all.zip (List.range all.length)).map fun e =>
      { tasks := [{ e.1 with serial := l.serial + e.2, sub := e.2 }], tid := none, cls := (all.headD {}).cls, since := s.pkg.time, aged := false })
  ∧ (∀ t a b : Task, t.split = some (a, b) → (∀ x ∈ t.dims, 0 < x.2.2) → ∃ k lo m hi g, lget (0, 1, 1) t.dims k = (lo, hi, g) ∧ lo < m ∧ m < hi
    ∧ (m - lo) % g = 0 ∧ a = { t with dims := lset t.dims k (lo, m, g) } ∧ b = { t with dims := lset t.dims k (m, hi, g) })
  ∧ (∀ (s : State) (t : Task) (since lc c : Nat) (aged : Bool) (cls : Nat) (l : List ReadyEnt), (s.getPart s.ev.p).nextDispatch ≤ s.pkg.time →
    let e : ReadyEnt := { tasks := [t], tid := none, cls, since, aged }
    s.scanOrder s.ev.p = e :: l → s.placeFor s.ev.p e = some [(lc, c)] → t.role = none →
    ∃ (u : State) (sc : List Word), exec .taskDispatch s = .next u ∧ (u.getCore c).phase = .run ∧ (u.getCore c).l1 = []
      ∧ (u.getCore c).spad = (s.getCore c).spad ∧ (u.getCore c).acc = (s.getCore c).acc ∧ (u.getCore c).th =
        { tid := s.pkg.tidNo, core := c, task := t, pc := t.entry, scale := sc, scaleV := sc, left := t.cycles, limited := decide (t.cycles ≠ 0)
          x := sset 0 (sset 0 [] 2 (BitVec.ofNat 32 t.args.toNat)) 3 (BitVec.ofNat 32 (t.args.toNat / 2 ^ 32 % 2 ^ 16)) })
  ∧ (∀ (s : State) (e : ReadyEnt), (s.getPart s.ev.p).ready[s.ev.k]? = some e → e.aged = false → 2 ^ 20 < s.pkg.time - e.since →
    exec .taskAging s = .next (s.updPart s.ev.p fun q =>
      { q with
        ready := (ldel (s.getPart s.ev.p).ready s.ev.k).filter (·.aged) ++ [{ e with aged := true }]
        ++ (ldel (s.getPart s.ev.p).ready s.ev.k).filter fun x => !x.aged }))
  ∧ (∀ s : State, let c := s.getCore s.ev.c
    let t := c.th.task
    c.phase = .stopped 1 → c.mQuiet = true → (∀ q ∈ c.qacc, q.tid = c.th.tid → s.heldBack q = true) → swf {} s.pkg.parts = true →
    (t.role = none ∨ ∀ k ∈ s.allCores, k.num = s.ev.c ∨ ¬ (k.phase = .stopped 1 ∧ k.th.task.ctx = t.ctx ∧ k.th.task.bound = t.bound)) →
    ∃ (u : State) (h : Thread), exec .preemptionSaved s = .next u ∧ (u.getCore s.ev.c).phase = .idle ∧ (u.getCore s.ev.c).th = {}
      ∧ u.pkg.parked = s.pkg.parked ++ [h] ∧ h.tid = c.th.tid ∧ h.core = s.ev.c ∧ h.task = t ∧ h.pc = c.th.pc ∧ h.x = c.th.x ∧ h.v = c.th.v
      ∧ h.p = c.th.p ∧ h.csr = c.th.csr ∧ h.snap = c.th.snap
      ∧ (u.getPart t.part).ready = (s.getPart t.part).ready ++ [{ tasks := [t], tid := some h.tid, cls := t.cls, since := s.pkg.time, aged := false }]
      ∧ ∀ r, sget Owner.none (u.getCore s.ev.c).owner r =
        if sget Owner.none c.owner r = .ctx t.part t.slot ∧ r ∈ t.parks then .parked t.part t.slot h.tid else sget Owner.none c.owner r)
  ∧ (∀ s : State, let c := s.getCore s.ev.c
    let cleaning := fun (u : State) => u.updCoreN s.ev.c fun k => { k with phase := .cleaning }
    let u := s.flushL1 s.ev.c fun _ => true
    s.drained s.ev.c c.th.tid = true →
    ((u.getCore s.ev.c).l1 = [] ∧ u.pkg.hbm = c.l1.foldl Store.writeBack s.pkg.hbm)
    ∧ (c.phase = .folding false → exec .foldComplete s = .next (cleaning (u.onCore s.ev.c fun v => v.foldTask c.th.task c.th.csr.epc)))
    ∧ (c.phase = .folding true → exec .foldComplete s = .next (cleaning (u.putChildren c.th.task [c.th.task] false)))
    ∧ (c.phase = .dropping → exec .foldComplete s = .next (cleaning u)))
  ∧ (∀ (s : State) (t : Task) (epc : Word) (l : Launch), s.getLaunch t.part t.slot = some l →
    (∀ a b, t.split = some (a, b) → 2 ≤ l.room → s.foldTask t epc = s.putChildren t [{ a with depth := t.depth + 1 }, { b with depth := t.depth + 1 }] true)
    ∧ (t.split = none → s.foldTask t epc = (s.launchFault t.part t.slot 0x0F t.id epc.toNat 0).finishTask t)
    ∧ ∀ a b, swf {} s.pkg.parts = true → ((s.putChildren t [a, b] true).getPart t.part).ready = (s.getPart t.part).ready.filter (·.aged)
      ++ [{ tasks := [{ a with serial := l.serial }], tid := none, cls := a.cls, since := s.pkg.time, aged := false },
          { tasks := [{ b with serial := l.serial + 1 }], tid := none, cls := b.cls, since := s.pkg.time, aged := false }]
      ++ (s.getPart t.part).ready.filter fun e => !e.aged)
  ∧ (∀ s : State, let c := s.getCore s.ev.c
    c.phase = .cleaning → (∀ r ∈ c.th.task.regions, (s.remoteTouch s.ev.c r c.th.task.part c.th.task.slot).1 = true) →
    ∃ u : State, exec .foldCleanupDone s = .next u ∧ (u.getCore s.ev.c).phase = .idle ∧ (u.getCore s.ev.c).th = {}
      ∧ (∀ a, a / 65536 ∈ c.th.task.regions → a / 65536 < 16 → sget 0 (u.getCore s.ev.c).spad.mem a = 0)
      ∧ ∀ j, j / 16384 + 16 ∈ c.th.task.regions → j / 16384 < 24 → sget 0 (u.getCore s.ev.c).acc j = 0)
  ∧ (∀ (s : State) (l : Launch), s.getLaunch s.ev.p s.ev.s = some l → s.endable s.ev.p l = true → l.sampleAt.getD 0 ≤ s.pkg.time →
    let now := if s.ctxIdle s.ev.p l.slot then some ((s.getCtx s.ev.p l.slot).msgSent, (s.getCtx s.ev.p l.slot).msgRecv) else none
    (l.sampleAt ≠ none → now ≠ none → now = l.sample → exec .endDetectionSample s = .next (s.completeLaunch s.ev.p l.slot []))
    ∧ (l.sampleAt = none ∨ now = none ∨ now ≠ l.sample → exec .endDetectionSample s = .next (s.updLaunch s.ev.p l.slot fun l =>
      { l with sample := now, sampleAt := some (s.pkg.time + 256) })))
  ∧ (∀ (s : State) (p k c : Nat) (d : CtxDesc), s.physCore d k = some c → ((s.getCore c).phase = .cleaning ∨ (s.getCore c).phase = .released) →
    (∀ t ∈ s.pkg.parked, t.core ≠ c) →
    s.hangEntry p d k = leBytes 0 8 ++ leBytes 0xFFFFFFFF 4 ++ leBytes (s.pkg.time % 2 ^ 32) 4)
  ∧ ∀ (s : State) (l : Launch) (d : CtxDesc), s.getLaunch s.ev.p s.ev.s = some l → (s.getPart s.ev.p).regs.wdi ≤ (s.getCtx s.ev.p l.slot).wdog →
    s.ctxDesc s.ev.p l.slot = some d → l.dhost = false →
    let report := (List.range d.ncore).flatMap (s.hangEntry s.ev.p d)
    s.unwritable s.ev.p d (l.done + 64) report.length = none →
    exec .hangWatchdogExpiry s = .next ((((s.abandonAll s.ev.p l.slot).updLaunch s.ev.p l.slot fun l => l.raise 2).updCtx s.ev.p l.slot
      fun x => { x with wdog := 0 }).completeLaunch s.ev.p l.slot report)

/-- The default pattern feeds each output of a router from an input that is not its own, no two from one (R299). A flit that
its slot carries moves to the next router, the adapter of its die, or its core (R297, R300); a written ownership takes effect
at slot 0 and clears the entries of slots that change owner (R298, R301); an adapter serves the partitions in turn, each in
the order of its packets' VCs, and takes what the hub brings for the cores of its die, requests to them included (R300, R325);
a packet that waits at the hub enters the switch once its VC has room (R306). While the switch is ready (R367), a packet
received with the expected number is accepted and passed to the switch, with an ACK at the sixteenth, a flit of VC 64; an
older one is dropped, a later or damaged one draws a NAK unless one is outstanding (R303, R307). A sender replays first, else
sends its next packet under the next number with its credits (R306, R308); an acknowledgement frees what it covers, a NAK or
3,600 cycles of silence start the replay, and 461 cycles after the first accepted packet an ACK goes out. A failed or excluded
lane leaves GOOD, and the link retrains where it was in use; a retrain or a retry brings up the widest aligned group of
working lanes, an excluded one not again (R309, R310). Returned credits count to 32 at most (R306). A route entry of the idle
bank is written, a flip starts the new generation and reports the old packets that the switch holds, and later each change of
their number, the pod's count ends the old one (R312), and the time base notes its correction (R313). The model's choices:
which bit tells a NAK from an ACK (log entry 68), that RETR counts at the end of a retrain (71), the links' times in cycles
(72), which numbers of old packets are told and to whom (73), and that one link that is UP suffices for the time base (130).
-/
def Obligations.MeshAndLinkSteps : Prop :=
  (∀ slot a b : Nat, a < 5 → b < 5 → inputOf none slot a ≠ some a ∧ (inputOf none slot a = inputOf none slot b → a = b))
  ∧ (∀ (s : State) (f : MeshFlit), s.pkg.mesh[s.ev.k]? = some f → s.flitGoes s.ev.k = true →
    let rest := (ldel s.pkg.mesh s.ev.k).map fun (g : MeshFlit) => if g.sameQueue f then { g with at_ := s.pkg.time + 1 } else g
    let u := s.updPkg fun g => { g with mesh := rest }
    (f.next = 4 → (∀ p, f.pkt = some p → exec .meshFlitHop s = .next (u.toSelf p)) ∧ (f.pkt = none → exec .meshFlitHop s = .next u))
    ∧ (f.next = 0 → f.router < 16 → exec .meshFlitHop s = .next (u.updPkg fun g => { g with adapter := g.adapter ++ [(f.die, f)] }))
    ∧ (∀ r ∈ [(0, f.router - 16, 2), (1, f.router + 1, 3), (2, f.router + 16, 0), (3, f.router - 1, 1)], f.next = r.1 → (r.1 ≠ 0 ∨ 16 ≤ f.router) →
      exec .meshFlitHop s = .next (u.updPkg fun g =>
        { g with mesh := g.mesh ++ [{ f with router := r.2.1, port := r.2.2, at_ := s.pkg.time + 1 }] })))
  ∧ (∀ (s : State) (w : Sparse Nat), s.pkg.regs.calownW = some w → s.pkg.time % 256 = 0 → s.pkg.regs.calownAt ≤ s.pkg.time →
    ∃ u : State, exec .calendarOwnershipChange s = .next u ∧ u.pkg.regs.calown = w ∧ u.pkg.regs.calownW = none
      ∧ ∀ p c, (u.getCtx p c).calendar = (s.getCtx p c).calendar.filter fun e =>
        u.slotOwner (e.1.toNat % 256) = s.slotOwner (e.1.toNat % 256))
  ∧ (∀ (s : State) (p j : Nat) (e : Nat × MeshFlit), s.ev.n ≠ 1 → s.ev.n ≠ 2 → s.adapterPick s.ev.l = some p →
    s.adapterNext s.ev.l p = some j → s.pkg.adapter[j]? = some e →
    let u := s.updPkg fun g => { g with adapter := ldel g.adapter j, adapterRr := sset 7 g.adapterRr s.ev.l p }
    (∃ i, i < 8 ∧ p = (sget 7 s.pkg.adapterRr s.ev.l + 1 + i) % 8
      ∧ ∀ j, j < i → s.adapterNext s.ev.l ((sget 7 s.pkg.adapterRr s.ev.l + 1 + j) % 8) = none)
    ∧ (e.1 = s.ev.l ∧ e.2.part = p ∧ s.adapterGoes e.2 = true
      ∧ ∀ i x, i < j → s.pkg.adapter[i]? = some x → x.1 = s.ev.l → x.2.sameVc e.2 = false)
    ∧ (∀ c, e.2.dest = some c → exec .ucieAdapterForward s = .next (u.updPkg fun g =>
      { g with mesh := g.mesh ++ [{ e.2 with die := c / 256, router := c % 16, port := 0, at_ := s.pkg.time + 1 }] }))
    ∧ (e.2.dest = none → (∀ k, e.2.pkt = some k → exec .ucieAdapterForward s = .next (u.endpoint k k.srank))
      ∧ (e.2.pkt = none → exec .ucieAdapterForward s = .next u)))
  ∧ (∀ (s u : State) (k : Packet), s.ev.n = 1 → s.takeIn = some (k, u) →
    (∀ c, s.coreFor k = some c →
      let f : Option Packet → Nat × MeshFlit := fun o => (c / 256, { die := c / 256, router := c % 16, port := 0, part := k.part, dest := some c, pkt := o })
      exec .ucieAdapterForward s = .next (u.updPkg fun g =>
        { g with adapter := g.adapter ++ List.replicate (pktFlits k - 1) (f none) ++ [f (some k)] }))
    ∧ (s.coreFor k = none → exec .ucieAdapterForward s = .next (u.toSelf k)))
  ∧ (∀ (s : State) (j : Nat) (e : Packet × Nat), s.ev.n = 2 → s.hubNext = some j → s.pkg.hubq[j]? = some e →
    (s.hubFree e.1 = true ∧ ∀ i x, i < j → s.pkg.hubq[i]? = some x → vcOf x.1 0 ≠ vcOf e.1 0)
    ∧ exec .ucieAdapterForward s = .next ((s.updPkg fun g => { g with hubq := ldel g.hubq j }).enterSwitch e.1))
  ∧ (∀ (s : State) (k : Packet) (own : Nat), (k.drank = own → s.endpoint k own = s.toSelf k)
    ∧ (k.drank ≠ own → (s.hubRoom k = true → s.endpoint k own = s.enterSwitch k)
      ∧ (s.hubRoom k = false → s.endpoint k own = s.updPkg fun g => { g with hubq := g.hubq ++ [(k, own)] })))
  ∧ (∀ (nak : Bool) (n : Nat), n < 65536 → flitGood (ctlFlit nak n) = true ∧ flitVc (ctlFlit nak n) = 64 ∧ flitSeq (ctlFlit nak n) = n
    ∧ isNakFlit (ctlFlit nak n) = nak)
  ∧ (∀ s : State, let l := s.ev.l
    let k := s.getLink l
    let f := s.ev.fs.headD ⟨[], 0⟩
    let whole := s.ev.fs.all fun g => flitGood g && flitSeq g = flitSeq f && flitVc g = flitVc f
    let ack := fun (u : State) (nak : Bool) => u.updPkg fun g => { g with out := g.out ++ [.flit l (ctlFlit nak (((u.getLink l).expect + 65535) % 65536))] }
    let refused := if k.nakOut then s else (ack s true).updLink l fun k => { k with nakOut := true }
    s.switchReady = true → k.up = true → k.train = false → l < 8 → s.ev.fs ≠ [] →
    (flitGood f = true → flitVc f = 64 → exec .linkPacketReceive s = .next (s.updLink l fun k =>
      let u := k.free (flitSeq f) s.pkg.time
      if isNakFlit f then { u with resend := u.replay.length } else u))
    ∧ ((flitGood f = false ∨ flitVc f ≠ 64) → ((whole = false ∨ parsePacket s.ev.fs = none) → exec .linkPacketReceive s = .next refused)
    ∧ ∀ pkt, whole = true → parsePacket s.ev.fs = some pkt →
      (seqDiff (flitSeq f) k.expect < 0 → exec .linkPacketReceive s = .next s)
      ∧ (0 < seqDiff (flitSeq f) k.expect → exec .linkPacketReceive s = .next refused)
      ∧ (seqDiff (flitSeq f) k.expect = 0 →
        let u := s.updLink l fun k =>
          { k with expect := (k.expect + 1) % 65536, nakOut := false, accepted := k.accepted + 1,
                   firstAt := if k.accepted = 0 then s.pkg.time else k.firstAt }
        let v := if k.accepted = 15 then (ack u false).updLink l fun k => { k with accepted := 0 } else u
        exec .linkPacketReceive s = .next (v.switchIn { vc := flitVc f, gen := flitGen f, pkt, port := l, vcIn := flitVc f }))))
  ∧ (∀ (s : State) (t : TxPkt), let l := s.ev.l
    let k := s.getLink l
    let sent := fun (u : State) (seq : Nat) => u.updPkg fun g => { g with out := g.out ++ (flitsOf t.pkt seq t.vc t.gen).map (Out.flit l) }
    k.up = true → k.train = false →
    (∀ j, 0 < k.resend → j = k.replay.length - k.resend → k.replay[j]? = some t →
      exec .linkPacketSend s = .next ((sent s ((k.acked + 1 + j) % 65536)).updLink l fun k => { k with resend := k.resend - 1 }))
    ∧ ∀ j, k.resend = 0 → k.replay.length < 1024 → k.pick = some j → k.sendq[j]? = some t →
      exec .linkPacketSend s = .next ((sent (s.freed t) k.seqNo).updLink l (fun k =>
        { k with sendq := ldel k.sendq j, seqNo := (k.seqNo + 1) % 65536, replay := k.replay ++ [t],
                 lastAck := if k.replay = [] then s.pkg.time else k.lastAck, rr := if t.vc < 64 then t.vc else k.rr,
                 credits := sset 32 k.credits t.vc (sget 32 k.credits t.vc - pktFlits t.pkt) })))
  ∧ (∀ s : State, (s.getLink s.ev.l).up = true → (s.getLink s.ev.l).train = false →
    exec .ack s = .next (s.updLink s.ev.l fun k => k.free s.ev.n s.pkg.time)
    ∧ exec .nak s = .next (s.updLink s.ev.l fun k => { k.free s.ev.n s.pkg.time with resend := (k.free s.ev.n s.pkg.time).replay.length }))
  ∧ (∀ (k : Link) (n d now : Nat), k.acked < 65536 → 0 < d → d ≤ k.replay.length → d ≤ 1024 → n = (k.acked + d) % 65536 →
    k.free n now = { k with acked := n, replay := k.replay.drop d, resend := min k.resend (k.replay.length - d), lastAck := now })
  ∧ (∀ s : State, let l := s.ev.l
    let k := s.getLink l
    let event := fun (u : State) (n : Nat) => u.linkEvent l n
    (0 < k.accepted → k.up = true → k.train = false → k.firstAt + 461 ≤ s.pkg.time → exec .ackTimerExpiry s = .next ((s.updPkg fun g =>
      { g with out := g.out ++ [.flit l (ctlFlit false ((k.expect + 65535) % 65536))] }).updLink l fun k => { k with accepted := 0 }))
    ∧ (k.up = true → k.train = false → k.replay ≠ [] → k.resend < k.replay.length → k.lastAck + 3600 ≤ s.pkg.time →
      exec .replayTimeout s = .next (event (s.updLink l fun k => { k with resend := k.replay.length, lastAck := s.pkg.time }) 5))
    ∧ (∀ v : Nat, s.ev.v = v → v < 16 → k.lanes.getLsbD v = true → l < 8 → (s.ev.n = 0 ∨ 0 < k.lthresh.toNat % 65536 ∧ k.lthresh.toNat % 65536 < s.ev.n) →
      exec .laneFailure s = .next (event (s.updLink l fun k =>
        let k1 := { k with good := k.good &&& ~~~BitVec.ofNat 16 (2 ^ v), lanes := k.lanes &&& ~~~BitVec.ofNat 16 (2 ^ v) }
        if k.first ≤ v ∧ v < k.first + k.width ∧ k.up = true ∧ k.train = false then
          { k1 with up := false, train := true, retrainAt := s.pkg.time + 7200 } else k1) 1))
    ∧ (l < 8 → ∃ hit : Bool, (hit = true ↔ k.up = true ∧ k.train = false ∧
        ∃ i, i < 16 ∧ k.lanes.getLsbD i = true ∧ s.ev.v.testBit i = true ∧ k.first ≤ i ∧ i < k.first + k.width)
      ∧ exec .lstatGoodWrite s = .next ((s.updLink l fun k =>
        let k1 := { k with good := k.good &&& ~~~BitVec.ofNat 16 s.ev.v, lanes := k.lanes &&& ~~~BitVec.ofNat 16 s.ev.v }
        if hit then { k1 with up := false, train := true, retrainAt := s.pkg.time + 7200 } else k1).updLink l fun k =>
        { k with barred := k.barred ||| BitVec.ofNat 16 s.ev.v }))
    ∧ (∀ g : Nat × Nat, k.train = true → k.retrainAt ≤ s.pkg.time → laneGroup k.lanes.toNat = some g → exec .retrainDone s =
      .next (event (s.updLink l fun k =>
        { k with up := true, train := false, width := g.1, first := g.2, resend := k.replay.length, lastAck := s.pkg.time, accepted := 0, retr := min 15 (k.retr + 1) }) 2))
    ∧ (∀ g : Nat × Nat, k.up = false → k.train = false → k.retryAt ≠ 0 → k.retryAt ≤ s.pkg.time →
      let back := BitVec.ofNat 16 s.ev.v &&& ~~~k.barred
      (laneGroup back.toNat = some g → exec .trainingRetry s = .next (event (s.updLink l fun k =>
        { k with
          up := true, train := false, width := g.1, first := g.2, resend := k.replay.length, lastAck := s.pkg.time, accepted := 0, lanes := back }) 4))
      ∧ (laneGroup back.toNat = none → exec .trainingRetry s = .next (s.updLink l fun k =>
        { k with up := false, train := false, width := 0, first := 0, retryAt := s.pkg.time + 1800000 })))
    ∧ exec .vcCreditReturn s = .next (s.updLink l fun k => { k with credits := sset 32 k.credits s.ev.v (min 32 (sget 32 k.credits s.ev.v + s.ev.n)) }))
  ∧ (∀ m w f : Nat, laneGroup m = some (w, f) → w ∈ [1, 2, 4, 8, 16] ∧ f % w = 0 ∧ f + w ≤ 16 ∧ (∀ i, i < w → m.testBit (f + i) = true)
    ∧ ∀ w' f', w' ∈ [1, 2, 4, 8, 16] → w < w' → f' % w' = 0 → f' + w' ≤ 16 → ∃ i, i < w' ∧ m.testBit (f' + i) = false)
  ∧ (∀ s : State, s.pkg.regs.oldLeft = false → s.ev.k < 1024 → s.ev.n < 2 → s.ev.n ≠ (if s.pkg.regs.rgen then 1 else 0) →
    exec .routeTableWrite s = .next (s.updPkg fun g => 
      { g with
        regs := if s.ev.n = 0 then { g.regs with route0 := sset 0x000F g.regs.route0 s.ev.k (s.ev.v % 65536) }
          else { g.regs with route1 := sset 0x000F g.regs.route1 s.ev.k (s.ev.v % 65536) } }))
  ∧ ∀ (s u : State) (k : Packet), s.takeIn = some (k, u) →
    (k.argq.testBit 0 ≠ u.pkg.regs.rgen →
      let n := (u.updPkg fun g => { g with regs := { g.regs with rgen := k.argq.testBit 0, oldLeft := true } }).oldHeld
      let v := u.updPkg fun g =>
        { g with regs :=
          { g.regs with rgen := k.argq.testBit 0, oldLeft := true, gencnt := n, oldTo := some (k.drank, k.srank), oldTold := n } }
      (k.srank = k.drank → exec .generationFlip s = .next v)
      ∧ (k.srank ≠ k.drank → exec .generationFlip s = .next (v.endpoint
        { drank := k.srank, srank := k.drank, kind := 11, msg := 17, argq := n } k.drank)))
    ∧ ((∀ me dest, s.pkg.regs.oldTo = some (me, dest) → s.oldHeld ≠ s.pkg.regs.oldTold → s.oldDue = some (.oldGenerationCount, { n := 1 }))
      ∧ ∀ me dest, s.pkg.regs.oldTo = some (me, dest) → s.ev.n = 1 →
        let v := s.updPkg fun g => { g with regs := { g.regs with oldTold := s.oldHeld } }
        (me = dest → exec .oldGenerationCount s = .next (v.updPkg fun g => { g with regs := { g.regs with gencnt := s.oldHeld } }))
        ∧ (me ≠ dest → exec .oldGenerationCount s = .next (v.endpoint
          { drank := dest, srank := me, kind := 11, msg := 17, argq := s.oldHeld } me)))
    ∧ (s.ev.n ≠ 1 → exec .oldGenerationCount s = .next (u.updPkg fun g =>
      { g with regs :=
        { g.regs with
          gencnt := k.argq % 2 ^ 32, oldLeft := decide (k.argq % 2 ^ 32 ≠ 0),
          oldTo := if k.argq % 2 ^ 32 = 0 then none else g.regs.oldTo } }))
    ∧ (∀ e ∈ u.pkg.links, e.2.up = true → ∃ r : List Nat, exec .time s = .next (u.updPkg fun g =>
        { g with corr := (k.argq : Int) - u.pkg.time, regs := { g.regs with funcready := r } })
      ∧ if k.argq ≤ u.pkg.time + 2 ∧ u.pkg.time ≤ k.argq + 2 then 32 * 32 + 22 ∈ r ∧ ∀ x ∈ u.pkg.regs.funcready, x ∈ r
        else r = u.pkg.regs.funcready)

/-- A request of another rank reaches the scratchpad never and memory only through an XDEV page, writable where it writes
(R183, R187, R234); one for no context, or refused, draws a negative acknowledgement with its subcause (R305, R352). A write
stores its bytes at their home and answers (R325); a read answers the bytes there, each block translated on its own (R240), an
atomic the old word as it writes the new one (R193). A response answers the entry of lq, or goes to the step of its command,
and an acknowledgement counts it (R193, R325), with what was performed before it (R252). A negative acknowledgement is
ENGFAULT with its subcause, of the operation, with 0 for a load, or of the command, or a fault of the launch for a released
effect (R187). A contribution leaves against a place at its home, which is given back (R315), in packets of at most 256 bytes
(R316). One that is the whole tree's goes out as results; the parts of a row meet; one without its sibling waits at the home;
one that differs in a compared field draws notices to every rank; with its sibling it is combined, the left operand that of
the lower ranks, and goes on (R316 to R320). One held at the switch for 2,048 cycles goes on unreduced (R317). A result waits
for the command that it agrees with; a notice ends the collective there or at its start (R196, R320). A refused request of
another rank is logged (R358), and one from a link enters the mesh beside its home (R300). The model's choices: the length,
the descriptor bit and the descriptors of a read in its packets (log entry 13), how a place at a home is given back (45), the
two parts of a long row (47), gates of collectives that combine nothing (15), the timestamps that answers and results bring
(108), the cause of a refused request's log entry (133), and an answer's way through the mesh (53). -/
def Obligations.RemotePacketsAndCollectives : Prop :=
  (∀ (s : State) (d : CtxDesc) (va : Nat) (wr : Bool), (va < 0x100000 → s.foreign d va wr = (.refuse 5, s))
    ∧ (0xFF0000000000 ≤ va → va < 0xFF0040000000 → s.foreign d va wr = (.refuse 3, s))
    ∧ ∀ e, 0x100000 ≤ va → va < 0xFF0000000000 → s.walk d va = .leaf e →
      (∀ c, findEnt ((s.pkg.dtlb.filter fun x => x.1 = 0).map (·.2)) d.asid va = some c → c = e) →
      (s.foreign d va wr).1 = if e.attr.testBit 3 = false then .refuse 3
        else if wr = true ∧ (e.attr % 4 = 1 ∨ e.attr.testBit 4 = true) then .refuse 2 else .at_ (e.pa + (va - e.base)) e.attr)
  ∧ (∀ (s u : State) (k : Packet), s.takeIn = some (k, u) →
    (∀ r ∈ [(Instr.remoteWrite, true), (.readRequest, false), (.atomicRequest, true)],
      (u.target k = none → exec r.1 s = .next (u.refuse k 0x0B))
      ∧ ∀ d e v, u.target k = some d → (r.2 = true ∨ 0 < k.arg.toNat % 512) → u.foreign d (k.addr % 2 ^ 48) r.2 = (.refuse e, v) →
        exec r.1 s = .next (v.refuse k e))
    ∧ (∀ d pa attr v, u.target k = some d → u.foreign d (k.addr % 2 ^ 48) true = (.at_ pa attr, v) → swf 0 v.pkg.hbm.mem = true →
      (attr % 4 ≠ 0 ∨ ∀ c ∈ v.allCores, ∀ x ∈ c.l1, x.cls ≠ 0) →
      (∃ w : State, exec .remoteWrite s = .next ((w.sink k.part d.slot).reply k pa { kind := 6 })
        ∧ ∀ b, sget 0 w.pkg.hbm.mem b = if pa ≤ b ∧ b < pa + k.payload.length then k.payload.getD (b - pa) 0 else sget 0 v.pkg.hbm.mem b)
      ∧ (v.runBad pa (max 4 k.payload.length) = false → k.payload = [] → 1 ≤ k.atop → k.atop ≤ 4 → ∃ w : State, w.pkg.hbm.word pa =
          (let x := v.pkg.hbm.word pa
          if k.atop = 1 then x + k.arg else if k.atop = 2 then (if x.slt k.arg then k.arg else x) else if k.atop = 3 then x ||| k.arg else k.arg)
        ∧ exec .atomicRequest s = .next (w.reply k pa { kind := 5, payload := leBytes (v.pkg.hbm.word pa).toNat 4 })))
    ∧ (∀ d, u.target k = some d →
      let va := k.addr % 2 ^ 48
      let n := min (k.arg.toNat % 512) 256
      (∀ e v, u.homeBlocks k.part d va (blockCuts va n) = (.refuse e, v) → exec .readRequest s = .next (v.refuse k e))
      ∧ (∀ pa ws ds v, u.homeBlocks k.part d va (blockCuts va n) = (.got pa ws ds, v) → exec .readRequest s =
        .next (v.reply k pa { kind := 3, payload := leBytes (wordsNat ws) n, desc := if k.arg.getLsbD 9 then ds else [] }))
      ∧ ∀ pa attr v, 0 < n → va % 64 + n ≤ 64 → u.foreign d va false = (.at_ pa attr, v) → v.runBad pa n = false →
        (attr % 4 ≠ 0 ∨ ∀ c ∈ v.allCores, ∀ x ∈ c.l1, x.cls ≠ 0) →
        ∃ (w : State) (l : List Byte), w.pkg.hbm.mem = v.pkg.hbm.mem ∧ l.length = n ∧ (∀ i, i < n → l.getD i 0 = sget 0 v.pkg.hbm.mem (pa + i))
          ∧ exec .readRequest s = .next (w.reply k pa { kind := 3, payload := l, desc := if k.arg.getLsbD 9 then [v.pkg.hbm.descAt pa] else [] })))
  ∧ (∀ (s : State) (k : Packet) (sub : Nat), let nak : Packet :=
      { drank := k.srank, srank := k.drank, part := k.part, kind := 7, nkind := k.kind, arg := BitVec.ofNat 32 sub, tag := k.tag, gang := k.gang }
    (k.srank = k.drank → s.refuse k sub = s.endpoint nak k.drank)
    ∧ (k.srank ≠ k.drank → s.refuse k sub = (s.logErr k.part k.addr (4 * 2 ^ 28 + k.srank % 2 ^ 28) 0x10 (sub * 256 + 0x0A)).endpoint nak k.drank)
    ∧ ∀ d pa attr v, k.kind = 1 ∨ k.kind = 2 ∨ k.kind = 4 → s.target k = some d →
      s.foreign d (k.addr % 2 ^ 48) (decide (k.kind ≠ 2)) = (.at_ pa attr, v) →
      s.coreFor k = some (pa / 2 ^ 12 % 8 / 2 * 256 + Config.bank pa % 256))
  ∧ (∀ va n : Nat, (∀ e ∈ blockCuts va n, 0 < n → 0 < e.2 ∧ e.1 + e.2 ≤ n ∧ (va + e.1) % 64 + e.2 ≤ 64)
    ∧ ∀ i, i < n → ∃ e ∈ blockCuts va n, e.1 ≤ i ∧ i < e.1 + e.2)
  ∧ (∀ (s u v : State) (k : Packet) (r : RemOp), s.takeIn = some (k, u) → u.takeRem k = some (r, v) →
    let met := fun (ref : Nat) => v.updCmd r.tid ref fun m => { m with wait := m.wait - 1, pts := max m.pts (v.importTs m.task.part) }
    let joined := v.joinTs r.tid (v.importTs r.part)
    let nak := fun (u : State) => (k.nkind ≠ 3 ∧ k.nkind ≠ 5 ∧ k.nkind ≠ 6 ∧ k.tag < 2 ^ 31) → exec .negativeAcknowledgement s = .next u
    let sub := k.arg.toNat % 256
    (r.kind = .load → exec .readResponse s = .next (joined.answer r.acc ((bytesWords k.payload).headD 0))
      ∧ exec .atomicResponse s = .next (joined.answer r.acc (BitVec.ofNat 32 (leNat k.payload)))
      ∧ nak ((v.engineFault r.tid r.acc.task (r.acc.fault sub r.addr)).answer r.acc 0))
    ∧ (r.kind = .store → exec .writeDone s = .next joined ∧ nak (v.engineFault r.tid r.acc.task (r.acc.fault sub r.addr)))
    ∧ (r.kind = .release → nak (v.launchFaultBy (2 * 2 ^ 28 + r.core) r.part r.slot (sub * 256 + 0x0A) r.acc.task.id r.acc.baddr.toNat r.addr))
    ∧ (∀ ref, r.kind = .signal ref ∨ (∃ g, r.kind = .write ref g) → exec .writeDone s = .next (met ref) ∧ exec .atomicResponse s = .next (met ref))
    ∧ (∀ ref g c, r.kind = .read ref g ∨ r.kind = .write ref g → v.findCmd r.tid ref = some c → nak (v.failCmd c 0x0A sub r.addr (c.stepNo g 0)))
    ∧ (∀ ref c, r.kind = .signal ref ∨ r.kind = .contrib ref → v.findCmd r.tid ref = some c → nak (v.failCmd c 0x0A sub r.addr 0))
    ∧ ∀ ref g c d w, r.kind = .read ref g → v.findCmd r.tid ref = some c → isCwb c.instr = false →
      (c.stopped = true → exec .readResponse s = .next (met ref))
      ∧ (c.stopped = false → v.cmdCtx c = some d → (met ref).putStep c d g (bytesWords k.payload) (if c.dh then k.desc else []) = .made w →
        exec .readResponse s = .next w))
  ∧ (∀ (s u : State) (k : Packet), s.takeIn = some (k, u) →
    (u.target k = none → exec .collectiveContribution s = .next (u.refuse k 0x0B) ∧ (s.ev.n ≠ 1 → exec .collectiveResult s = .next (u.refuse k 0x0B)))
    ∧ ∀ d, u.target k = some d → exec .collectiveContribution s = .next (u.contribute k.part d k 12)
      ∧ (s.ev.n ≠ 1 → (∀ e ∈ (u.getCtx k.part d.slot).ended, e.1 ≠ k.posChan ∨ e.2.1 ≠ k.posSeq) →
        let put := fun (f : List Packet → List Packet) => Host.Outcome.next (u.updCtx k.part d.slot fun x => { x with results := f x.results })
        let other := (u.getCtx k.part d.slot).results.find? (otherPart k)
        ((isPart k = false ∨ other = none) → exec .collectiveResult s = put fun l => l ++ [k])
        ∧ ∀ q, isPart k = true → other = some q → exec .collectiveResult s = put fun l => l.filter (· ≠ q) ++ [joinParts k q]))
  ∧ (∀ (s u : State) (k : Packet) (c : Cmd), s.takeIn = some (k, u) → 2 ^ 31 ≤ k.tag → k.nkind = 9 ∨ k.nkind = 10 →
    u.pkg.cmds.find? (fun c => c.inColl k.part (bits k.tag 25 20) (bits k.tag 5 0) (bits k.tag 19 6)) = some c →
    exec .negativeAcknowledgement s = .next (u.failCmd c 0x0A (k.arg.toNat % 256) 0 0))
  ∧ (∀ p : Packet, (inPackets p).flatMap (·.payload) = p.payload ∧ ∀ k ∈ inPackets p, k.payload.length ≤ 256)
  ∧ (∀ (c : Cmd) (rank gsz : Nat) (k : Seg), (gated c.opc && k.n = 0) = false → (c.collStepAt rank gsz k).1.n * c.ewidth ≤ 256)
  ∧ (∀ (s : State) (c : Cmd) (d : CtxDesc) (k : Seg), gated c.opc = false → (s.hasPlace c = false → s.collStep c d k = .wait s)
    ∧ ∀ l u, s.hasPlace c = true → s.collRead c d (c.collSrc k) (k.n * c.ewidth) = .got l u →
      s.collStep c d k = .made ((u.collSend c d (d.rank / 2 * 2) { c.collPkt d k with posLeft := d.rank / 2 * 2, payload := l }).updCmd c.tid c.ref
        fun m => { m with lent := m.lent + 1 }))
  ∧ (∀ (s : State) (d : CtxDesc) (p : Packet), (p.posLevel ≠ 0 → s.placeBack d p = s)
    ∧ (p.posLevel = 0 → p.srank = s.podId d d.rank → s.placeBack d p = s.updPkg fun g =>
      { g with cmds := lmapIf (fun c => c.inColl p.part d.slot p.posChan p.posSeq) (fun (c : Cmd) => { c with lent := c.lent - 1 }) g.cmds })
    ∧ (p.posLevel = 0 → p.srank ≠ s.podId d d.rank → s.placeBack d p = s.updPkg fun g =>
      { g with out := g.out ++ [.homeCredit p.srank p.part p.gang p.posChan p.posSeq] }))
  ∧ (∀ (s : State) (part n : Nat) (d : CtxDesc) (p : Packet), let x := s.getCtx part d.slot
    let root := p.posLeft = 0 ∧ p.gsz ≤ 2 ^ p.posLevel
    let off := fun (h : HomeHold) => s.updCtx part d.slot fun x => { x with holds := x.holds.filter (· ≠ h) }
    let held := (∀ h, x.holds.find? (fun h => sameColl h.pkt p && collDiff h.pkt p ≠ 0) = some h → s.contribute part d p (n + 1) =
        (s.updCtx part d.slot fun x => { x with holds := x.holds.filter fun h => !sameColl h.pkt p }).sendNotices d p (collDiff h.pkt p))
      ∧ (x.holds.find? (fun h => sameColl h.pkt p && collDiff h.pkt p ≠ 0) = none →
        s.contribute part d p (n + 1) = s.updCtx part d.slot fun x => { x with holds := x.holds ++ [⟨p⟩] })
    let on := fun (u : State) (v : List Byte) =>
      let up := { p with posLevel := p.posLevel + 1, posLeft := p.posLeft / 2 ^ (p.posLevel + 2) * 2 ^ (p.posLevel + 2), payload := v
                         srank := u.podId d d.rank }
      s.contribute part d p (n + 1) = if up.posLeft = d.rank ∨ (up.posLeft = 0 ∧ up.gsz ≤ 2 ^ up.posLevel) then u.contribute part d up n
        else u.sendPlain d up.posLeft up
    let now := ∀ e ∈ x.ended, e.1 ≠ p.posChan ∨ e.2.1 ≠ p.posSeq
    (isPart p = true ↔ p.opc = 0x0E ∧ p.payload ≠ [] ∧ p.payload.length ≠ 4 * (p.count + 2))
    ∧ (isPart p = true → now → (∀ h, x.holds.find? (fun h => otherPart p h.pkt) = some h →
        s.contribute part d p (n + 1) = (off h).contribute part d (joinParts p h.pkt) n)
      ∧ (x.holds.find? (fun h => otherPart p h.pkt) = none → held))
    ∧ (isPart p = false → (root → s.contribute part d p (n + 1) = (s.placesBack d p).sendResults d p)
      ∧ (¬ root → p.gsz ≤ p.posLeft + 2 ^ p.posLevel → on (s.placesBack d p) p.payload)
      ∧ (¬ root → p.posLeft + 2 ^ p.posLevel < p.gsz → now →
        (x.holds.find? (fun h => collDiff h.pkt p = 0 && siblings h.pkt p) = none → held)
        ∧ ∀ h, x.holds.find? (fun h => collDiff h.pkt p = 0 && siblings h.pkt p) = some h →
          on (((off h).placesBack d p).placesBack d h.pkt)
            (if p.srank = s.podId d d.rank then combPay p p.payload h.pkt.payload else combPay p h.pkt.payload p.payload))))
  ∧ (∀ (s : State) (r : RSlot), s.pkg.rslots[s.ev.k]? = some r → r.since + 2048 ≤ s.pkg.time →
    exec .reductionSlotExpiry s = .next ((s.updPkg fun g => { g with rslots := ldel g.rslots s.ev.k }).forward { r.tx with port := 8 } 2))
  ∧ (∀ (s : State) (k : Packet) (d : CtxDesc) (c : Cmd), s.ev.n = 1 → (s.getCtx s.ev.p s.ev.s).results[s.ev.j]? = some k →
    s.ctxDesc s.ev.p s.ev.s = some d → s.resultCmd s.ev.p s.ev.s k = some c →
    (c.agrees d k = true ∧ c.inColl s.ev.p s.ev.s k.posChan k.posSeq = true ∧ isPart k = false)
    ∧ (k.payload = [] → exec .collectiveResult s = .next ((s.updCtx c.task.part c.task.slot fun x => { x with results := x.results.erase k }).updCmd
      c.tid c.ref fun m => { m with gate := true, pts := max m.pts (s.importTs c.task.part) }))
    ∧ ∀ w, k.payload ≠ [] → s.collPut c d (s.resultAt c d k).1 (s.resultAt c d k).2.1 = .made w → exec .collectiveResult s =
      .next ((w.updCtx c.task.part c.task.slot fun x => { x with results := x.results.erase k }).updCmd c.tid c.ref fun m =>
        { m with got := m.got + k.payload.length, nv := m.nv || (s.resultAt c d k).2.2, pts := max m.pts (w.importTs c.task.part) }))
  ∧ ∀ (s u : State) (k : Packet) (d : CtxDesc), s.takeIn = some (k, u) → u.gangCtx k.part (k.argq / 2 ^ 32 % 2 ^ 16) = some d →
    let chan := k.argq % 2 ^ 6
    let seq := k.argq / 2 ^ 8 % 2 ^ 14
    let sub := k.argq / 2 ^ 24 % 2 ^ 8
    (∀ e ∈ (u.getCtx k.part d.slot).ended, e.1 ≠ chan ∨ e.2.1 ≠ seq) →
    let v := u.updCtx k.part d.slot fun x =>
      { x with ended := x.ended ++ [(chan, seq, sub)], holds := x.holds.filter (fun h => !(h.pkt.posChan = chan && h.pkt.posSeq = seq))
               results := x.results.filter fun p => !(p.posChan = chan && p.posSeq = seq) }
    let mine := v.pkg.cmds.find? fun c => c.isFor k.part d.slot { posChan := chan, posSeq := seq }
    (∀ c, mine = some c → exec .mismatchNotice s = .next (v.failCmd c 0x0D sub 0 0)) ∧ (mine = none → exec .mismatchNotice s = .next v)

/-- A written column takes effect at the end of a round, on the grid of its epoch, and the last row goes on until then (R336).
A boundary begins the next row; it cancels a retry, and where the row's gang is another and no vote runs, the lowest pod id of
those concerned asks every participant to prepare, 42 named in each message (R304, R337). An invalid column stops its gang,
and its wired-AND lines go (R284). A participant refuses with 3 where it is torn down, 6 for another boundary, or the lowest
reason, or stops its gang (R339, R340, R342, R352); it answers with its counts when stopped and for each sample, captures what
is buffered, changes gangs on COMMIT and logs it, and goes on, kennel first, on ABORT, in both only with a valid column (R336,
R342 to R346). A coordinator drains once every participant is ready, aborts on a refusal, a full kennel, a missing reply and
at the end of capture, commits on two samples that agree with as many packets received as sent, samples each 1,024 cycles,
captures after DRAINMAX, for DRAINMAX + 1,024 cycles, tries again 65,536 cycles after an ABORT before the next boundary, and
is idle when all are done (R341). A kennel record returns to where it was taken from, and the header counts it (R345). An
exchange writes the region to its owner's save area and fills it with the toucher's image or zeros (R347, R348). The model's
choices: the packages concerned and their gangs (log entry 16), where a decision carries WHO and the time (13), an invalid
column at once and the row that goes on (76), DRAIN (79), REFUSE 3 while draining (80), 42 in a PREPARE (81), a timer and the
sample then outstanding (82), what a re-injected record counts as (74), one vote at a time (77), and no image without a save
area (9). -/
def Obligations.RotaAndVoteSteps : Prop :=
  (∀ q : Partition, q.columnOk = true ↔ 1 ≤ q.regs.rotalen ∧ q.regs.rotalen ≤ 64 ∧ ∀ j, j < q.regs.rotalen → (sget 0 q.regs.rota j).toNat % 1024 ≠ 0)
  ∧ (∀ epoch len now : Nat, 0 < len → now ≤ gridNext epoch len now ∧ gridNext epoch len now < now + len
    ∧ (gridNext epoch len now : Int) % len = (epoch : Int) % len)
  ∧ (∀ s : State, let p := s.ev.p
    let q := s.getPart p
    let r := q.regs.written
    let q1 : Partition := { q with regs := r, rowNow := r.rotalen - 1, tail := if q.columnOk then some (q.rowNow, q.rowGang q.rowNow) else none }
    q.regs.waits = true → (q.columnOk = true → q.rowNow + 1 = q.regs.rotalen ∧ q.nextAt ≤ s.pkg.time) →
    (q1.columnOk = true → exec .rotaColumnApply s = .next (s.updPart p fun _ =>
      { q1 with nextAt := gridNext r.rotaepoch q1.roundLen (if q.columnOk then q.nextAt else s.pkg.time) }))
    ∧ (q1.columnOk = false → let u := s.updPart p fun _ => q1
      (∀ d, u.gangCtx p q.gang = some d → exec .rotaColumnApply s = .next (((u.stopGang p d.slot).updPart p fun q => { q with gang := 0 }).dropLines p))
      ∧ (u.gangCtx p q.gang = none → exec .rotaColumnApply s = .next ((u.updPart p fun q => { q with gang := 0 }).dropLines p))))
  ∧ (∀ (s : State) (p : Nat), swf {} s.pkg.parts = true → ∀ x ∈ ((s.dropLines p).getPart p).ctxs, ∀ e ∈ x.2.episodes, e.line = none)
  ∧ (∀ s : State, let p := s.ev.p
    let q := s.getPart p
    let j := (q.rowNow + 1) % q.regs.rotalen
    let u := (s.cancelRetry p).updPart p fun q =>
      { q with rowNow := j, tail := none, nextAt := q.nextAt + q.quant j * 4096
               roundNow := if j = 0 then roundNo q.regs.rotaepoch q.roundLen q.nextAt else q.roundNow }
    let h := (u.getPart p).rowGang j
    let me := u.myPod p (u.getPart p).gang h
    let set := u.participants p me
    q.columnOk = true → q.nextAt ≤ s.pkg.time → q.applies s.pkg.time = false →
    exec .rotaBoundary s = .next (if (u.getPart p).gang = h ∨ (u.getPart p).vote.cst ≠ .idle ∨ (set.headD (me, 0, 0)).1 ≠ me then u
      else u.callVote p ⟨(u.getPart p).roundNow, j, 1, me⟩ set))
  ∧ (∀ (s : State) (p : Nat) (i : VoteId) (set : List (Nat × Nat × Nat)), swf {} s.pkg.parts = true → s.callVote p i set =
    (List.range ((set.length + 41) / 42)).foldl (fun t j => set.foldl (fun t e => t.podSend i.coord
      { drank := e.1, srank := i.coord, part := p, kind := 11, msg := 1, row := i.row, attempt := i.attempt, round := i.round, coord := i.coord
        arg := if 42 < set.length then BitVec.ofNat 32 set.length else 0
        payload := ((set.drop (42 * j)).take 42).flatMap fun e => leBytes e.1 2 ++ leBytes e.2.1 2 ++ leBytes e.2.2 2 }) t)
      (s.updVote p fun v => { v with cst := .waitReady, cid := some i, set, replies := [], prev := none, timer := s.pkg.time, firstSample := 0, doneFrom := [] }))
  ∧ (∀ (s : State) (p me x : Nat), me < 1024 → x < 1024 → (x = me ∨ let c := s.cellOf p me x; c.1 ≠ c.2) → ∃ c, (x, c) ∈ s.participants p me)
  ∧ (∀ (s : State) (p : Nat), (s.getPart p).vote.cst ≠ .backoff → (s.getPart p).vote.aborted = false → s.cancelRetry p = s)
  ∧ (∀ (s u : State) (k : Packet) (me g h : Nat), s.takeIn = some (k, u) →
    let p := k.part
    let q := u.getPart p
    let es := (if k.arg = 0 then [] else q.vote.gather) ++ voteEntries k.payload
    let w := (u.sweep p).updVote p fun v =>
      { v with id := some (msgId k), g, h, me, kpkt := 0, captured := false, kfull := false, aborted := false, gather := [] }
    (es.length < k.arg.toNat → exec .prepare s = .next (u.updVote p fun v => { v with gather := es }))
    ∧ (k.arg.toNat ≤ es.length → es.find? (fun e => e.1 = k.drank) = some (me, g, h) → q.vote.pst = .run →
    let same := q.columnOk = true ∧ q.gang = g ∧ q.tail.getD (q.rowNow, q.rowGang q.rowNow) = (k.row, h) ∧ q.roundNow = k.round
    (q.torn = true → exec .prepare s = .next (w.answerVote p 3 fun k => { k with reason := 3 }))
    ∧ (q.torn = false → ¬ same → exec .prepare s = .next (w.answerVote p 3 fun k => { k with reason := 6 }))
    ∧ (q.torn = false → same → (∀ r, w.refusal p me g h (es.map (·.1)) = some r → exec .prepare s = .next (w.answerVote p 3 fun k => { k with reason := r }))
      ∧ (w.refusal p me g h (es.map (·.1)) = none → let x := w.updVote p fun v => { v with pst := .stopping }
        (∀ d, x.gangCtx p g = some d → exec .prepare s = .next (x.stopGang p d.slot)) ∧ (x.gangCtx p g = none → exec .prepare s = .next x)))))
  ∧ (∀ (s : State) (p me g h : Nat) (pods : List Nat), let q := s.getPart p
    let why : Nat → Bool := fun n => if n = 1 then s.noSave p g || s.noSave p h else if n = 2 then decide (q.shrink ≠ []) else if n = 3 then q.error || q.torn
      else if n = 4 then s.gangHeld p g else if n = 5 then pods.any fun x => x ≠ me && s.linkDownTo x else false
    ∀ r, s.refusal p me g h pods = r → (r = none → ∀ n, why n = false) ∧ ∀ n, r = some n → why n = true ∧ ∀ m, m < n → why m = false)
  ∧ (∀ s : State, s.ev.n = 1 → s.stopped s.ev.p = true → exec .ready s = .next ((s.updVote s.ev.p fun v =>
    { v with pst := .prepared }).answerVote s.ev.p 2 fun k => { k with payload := s.voteCounts s.ev.p }))
  ∧ (∀ (s u : State) (k : Packet), s.takeIn = some (k, u) →
    let p := k.part
    let v := (u.getPart p).vote
    let resume := fun (t : State) => match t.gangCtx p v.g with
      | some d => if (t.getPart p).columnOk = true ∧ (t.getPart p).gang = v.g then t.resumeGang p d.slot else t
      | none => t
    let logged := u.colLog p (if v.captured then 3 else 1) 0 k.coord (k.arg.toNat / 1024)
    v.id = some (msgId k) →
    ((v.pst = .prepared ∨ v.pst = .captured) →
      exec .sample s = .next (u.answerVote p 5 fun r => { r with payload := u.voteCounts p })
      ∧ exec .commit s = .next (((logged.switchGang p (if (logged.getPart p).columnOk = true then v.h else 0)).answerVote p 9 id).updVote p fun v =>
        { v with pst := .run, id := none }))
    ∧ (v.pst = .prepared → let w := u.updVote p fun v => { v with pst := .captured, captured := true }
      let x := match w.gangCtx p v.g with | some d => w.captureAll p d.slot | none => w
      exec .capture s = .next (if (x.getPart p).vote.kfull then x.answerVote p 10 id else x))
    ∧ (let w := (u.colLog p 2 k.reason (k.arg.toNat % 1024) (k.arg.toNat / 1024)).updVote p fun v => { v with pst := .run, aborted := true }
      (v.pst = .run → exec .abort s = .next w) ∧ (v.pst ≠ .run → exec .abort s = .next (resume (w.updPart p fun q => { q with reinject := true })))))
  ∧ (∀ (s u : State) (k : Packet), s.takeIn = some (k, u) → swf {} u.pkg.parts = true →
    let p := k.part
    let v := (u.getPart p).vote
    let l := if v.replies.any fun e => e.1 = k.srank then v.replies else v.replies ++ [(k.srank, leNat (k.payload.take 8), leNat ((k.payload.drop 8).take 8))]
    let x := (l.foldl (fun n e => n + e.2.1) 0, l.foldl (fun n e => n + e.2.2) 0)
    let took := u.updVote p fun v => { v with replies := l }
    v.cid = some (msgId k) →
    (s.ev.n ≠ 1 → v.cst = .waitReady → (l.length ≠ v.set.length → exec .ready s = .next took)
      ∧ (l.length = v.set.length → exec .ready s = .next (took.updVote p fun v =>
        { v with cst := .drain, prev := some x, timer := u.pkg.time, sampleAt := u.pkg.time + 1024, firstSample := u.pkg.time })))
    ∧ ((v.cst = .waitReady ∨ k.reason = 3 ∧ (v.cst = .drain ∨ v.cst = .capt)) → exec .refuse s = .next (u.abortVote p k.reason k.srank))
    ∧ ((v.cst = .drain ∨ v.cst = .capt) → exec .kfull s = .next (u.abortVote p 9 k.srank)
      ∧ (l.length ≠ v.set.length → exec .counts s = .next took)
      ∧ (l.length = v.set.length → let y := took.updVote p fun v => { v with prev := some x }
        (v.prev = some x ∧ x.1 = x.2 → exec .counts s = .next ((y.toAll p 7 fun r => { r with arg := y.decision p k.coord }).updVote p fun v => { v with cst := .committing }))
        ∧ (¬ (v.prev = some x ∧ x.1 = x.2) → exec .counts s = .next y)))
    ∧ (v.cst = .committing → let d := if v.doneFrom.contains k.srank then v.doneFrom else v.doneFrom ++ [k.srank]
      exec .done s = .next (u.updVote p fun v =>
        if d.length = v.set.length then { v with cst := .idle, cid := none, doneFrom := [] } else { v with doneFrom := d })))
  ∧ (∀ (s : State) (p reason who : Nat), let v := (s.getPart p).vote
    s.decision p who = BitVec.ofNat 32 (who % 1024 + 1024 * if v.firstSample = 0 then 0 else s.pkg.time - v.firstSample)
    ∧ s.abortVote p reason who = (s.toAll p 8 fun k => { k with reason, arg := s.decision p who }).updVote p fun v =>
      { v with cst := .backoff, timer := s.pkg.time })
  ∧ (∀ (s : State) (i : VoteId), let p := s.ev.p
    let q := s.getPart p
    let v := q.vote
    let now := s.pkg.time
    v.cid = some i →
    (v.cst = .waitReady → v.timer + q.regs.drainmax ≤ now → exec .voteReplyTimeout s = .next (s.abortVote p 7 i.coord))
    ∧ ((v.cst = .drain ∨ v.cst = .capt) → v.replies.length = v.set.length → v.sampleAt ≤ now →
      exec .sampleTimer s = .next ((s.updVote p fun v => { v with replies := [], sampleAt := v.sampleAt + 1024 }).toAll p 4 id))
    ∧ (v.cst = .drain → (if v.replies.length = v.set.length then now < v.sampleAt else v.sampleAt ≤ now) → v.timer + q.regs.drainmax ≤ now →
      exec .drainTimeout s = .next ((s.toAll p 6 id).updVote p fun v => { v with cst := .capt, timer := v.timer + q.regs.drainmax }))
    ∧ (v.cst = .capt → (if v.replies.length = v.set.length then now < v.sampleAt else v.sampleAt ≤ now) → v.timer + q.regs.drainmax + 1024 ≤ now →
      exec .captureTimeout s = .next (s.abortVote p 8 i.coord))
    ∧ (v.cst = .backoff → v.timer + 65536 ≤ now → exec .voteRetry s = .next
      (if now < q.nextAt then s.callVote p { i with attempt := i.attempt + 1 } v.set else s.cancelRetry p)))
  ∧ (∀ (s : State) (d : CtxDesc), let p := s.ev.p
    let n := s.hbmLe (d.kennel + 4) 4
    let a := d.kennel + 64 + 384 * n
    let last := n + 1 = s.hbmLe d.kennel 4
    let u := (s.updPkg fun k => { k with hbm := { k.hbm with
        mem := if last then lePut k.hbm.mem d.kennel 0 8 else lePut k.hbm.mem (d.kennel + 4) (n + 1) 4 } }).updPart p fun q =>
      { q with reinject := decide ¬ last }
    s.ev.n ≠ 1 → (s.getPart p).reinject = true → s.gangCtx p (s.getPart p).gang = some d → d.kennel ≠ 0 →
    (s.hbmLe d.kennel 4 ≤ n → exec .kennelReinject s = .next (s.updPart p fun q => { q with reinject := false }))
    ∧ ∀ t, n < s.hbmLe d.kennel 4 → s.recordPkt a = some t → exec .kennelReinject s = .next
      (if s.hbmLe (a + 1) 1 = 2 then u.updPkg fun g => { g with inq := g.inq ++ [t] }
      else (u.updCtx p d.slot fun x => { x with sent := x.sent + 1 }).switchIn { t with port := 8 }))
  ∧ (∀ (s : State) (t : TxPkt), s.ev.n = 1 → s.pkg.swq[s.ev.k]? = some t →
    exec .kennelReinject s = .next ((s.updPkg fun g => { g with swq := ldel g.swq s.ev.k }).switchIn t))
  ∧ (∀ (s : State) (e : Exch) (p slot : Nat), (s.getCore s.ev.c).exch[s.ev.k]? = some e → e.toucher = .ctx p slot →
    exec .exchangeComplete s = .next (((s.spill s.ev.c e.region).fillFor s.ev.c e.region p slot).updCoreN s.ev.c fun c =>
      { c with exch := c.exch.filter (·.region ≠ e.region) }))
  ∧ (∀ (s : State) (n r p slot : Nat) (d : CtxDesc), let c := s.getCore n
    let l := s.lcoreOf p slot n
    let base := saveAddr d l r
    let u := s.spill n r
    sget Owner.none c.owner r = .ctx p slot → s.ctxDesc p slot = some d → (d.save = 0 → u = s)
    ∧ (d.save ≠ 0 → r < 44 → s.canonical →
      (∀ b, r < 16 → b < 65536 → sget 0 u.pkg.hbm.mem (base + b) = sget 0 c.spad.mem (r * 65536 + b))
      ∧ (∀ i, 16 ≤ r → r < 40 → i < 16384 → leGet u.pkg.hbm.mem (base + 4 * i) 4 = (sget 0 c.acc ((r - 16) * 16384 + i)).toNat)
      ∧ (∀ i, 40 ≤ r → i < 1024 → leGet u.pkg.hbm.mem (base + 64 * i) 64 = (sget zeroBlock c.wb ((r - 40) * 1024 + i)).data.toNat)
      ∧ u.hbmLe (d.validAt l) 8 = s.hbmLe (d.validAt l) 8 ||| 2 ^ r
      ∧ (∀ a, (a < base ∨ base + imageSize r ≤ a) → (a < d.validAt l ∨ d.validAt l + 8 ≤ a) → sget 0 u.pkg.hbm.mem a = sget 0 s.pkg.hbm.mem a)
      ∧ ∀ m, u.getCore m = s.getCore m))
  ∧ ∀ (s : State) (n r p slot : Nat) (d : CtxDesc), let c := s.getCore n
    let tid := if c.phase ≠ .idle ∧ c.th.task.part = p ∧ c.th.task.slot = slot then c.th.tid else 0
    let mine := s.hasTaskImage tid r
    let held := mine = true ∨ s.hasImage p slot (s.lcoreOf p slot n) r = true
    let m := if mine then s.pkg.taskSave.mem else s.pkg.hbm.mem
    let base := if mine then taskAddr tid r else saveAddr d (s.lcoreOf p slot n) r
    let u := s.fillFor n r p slot
    let x := u.getCore n
    s.ctxDesc p slot = some d → r < 44 → s.canonical →
    (∀ b, r < 16 → b < 65536 → sget 0 x.spad.mem (r * 65536 + b) = if held then sget 0 m (base + b) else 0)
    ∧ (∀ i, 16 ≤ r → r < 40 → i < 16384 → sget 0 x.acc ((r - 16) * 16384 + i) = if held then BitVec.ofNat 32 (leGet m (base + 4 * i) 4) else 0)
    ∧ (∀ i, 40 ≤ r → i < 1024 →
      (sget zeroBlock x.wb ((r - 40) * 1024 + i)).data = if held then BitVec.ofNat 512 (leGet m (base + 64 * i) 64) else 0)
    ∧ (∀ a, r < 16 → (a < r * 65536 ∨ r * 65536 + 65536 ≤ a) → sget 0 x.spad.mem a = sget 0 c.spad.mem a)
    ∧ (16 ≤ r → x.spad = c.spad) ∧ (r < 16 → x.acc = c.acc ∧ x.wb = c.wb)
    ∧ (∀ k, sget Owner.none x.owner k = if k = r then .ctx p slot else sget Owner.none c.owner k)
    ∧ (mine = false → u.pkg = s.pkg) ∧ (mine = true → u.pkg.taskImgs = s.pkg.taskImgs.filter (· ≠ (tid, r)))

/-- CORESET gives a partition cores that are ready and no other's; they join in the next cycle, in the zero state; else it is
refused and logged with cause 9 (R349, R362, R367). SHRINK marks the partition's cores of its mask; with no vote under way
each foldable task there is discarded and made again, another takes SHRINK, ENGFAULT subcause 0x57, where it has a handler,
and else ends RESIZED (R350). Once those cores have nothing left, their regions go to their owners, the cores leave, and
parked tasks move with their logical cores and what they have registered behind a lock or wait (R140); tasks whose handlers
have not returned within 2^24 cycles end (R350, R351). TEARDOWN ends a vote, drops the packets in the package's buffers and
kennels, with DSTGONE for each that came by a link and needs an answer, writes ABORTED records and signals at host targets
only, zeroes memory, and leaves the partition with no core, launch or rota, its calendar slots from the next slot 0 on (R298,
R352). INVAL starts for an ASID that a context has, is ignored while another runs, and is logged with cause 8 otherwise; once
no queued access stands that translated through a page that meets the range, those translations and the L1 lines of their
pages go and DONE is set (R242, R364). DRAINMAX takes multiples of 1,024 from 1,024 to 1,048,576 and logs cause 9 for others
(R340). A hub write replaces the bytes its mask names; ROTA, ROTALEN and ROTAEPOCH wait, the RSV bits of a row stay 0 (R6,
R336, R362, R363), and calendar ownership waits for the next slot 0 (R298). The model's choices: a torn-down partition begins
anew at CORESET (log entry 17), CORESET only adds and what SHRINK's mask is (84), a second SHRINK or an empty mask does
nothing (131), what TEARDOWN returns, which records it writes and that a host write under way is refused (87), and the log
entry of a dropped request (133). -/
def Obligations.PartitionAndHubSteps : Prop :=
  (∀ s : State, let p := s.ev.p
    let fit : Prop := ∀ c ∈ s.ev.cs, c ∈ s.pkg.regs.funcready ∧ ∀ e ∈ s.pkg.parts, e.1 ≠ p → c ∉ e.2.cores ∧ ∀ x ∈ e.2.grow, x.1 ≠ c
    let new := s.ev.cs.eraseDups.filter fun c => !(s.getPart p).cores.contains c && !(s.getPart p).grow.any fun x => x.1 = c
    let now := ((s.getPart p).grow.filter fun e => e.2 ≤ s.pkg.time).map (·.1)
    (s.ev.k ≠ 1 → fit → exec .coreset s = .next (s.updPart p fun q =>
      { q with grow := q.grow ++ new.map fun c => (c, s.pkg.time + 1), error := q.error && !q.torn, torn := false }))
    ∧ (s.ev.k = 1 → exec .coreset s = .next ((now.foldl (fun t c => t.updCoreN c Core.given) s).updPart p fun q =>
      { q with cores := q.cores ++ now, grow := q.grow.filter fun e => s.pkg.time < e.2 }))
    ∧ (s.ev.k ≠ 1 → ¬ fit → exec .coreset s = .next (s.logErr p (0x0400 + 128 * p) (2 ^ 28 + s.ev.n % 2 ^ 28) 9 0)))
  ∧ (∀ c : Core, c.given = { num := c.num, qacc := c.qacc, qack := c.qack })
  ∧ (∀ (s : State) (c : Nat), s.core.num = c → let t := s.core.th
    let on := s.core.phase = .run ∨ s.core.phase = .ending
    (¬ on → s.shrinkCore c = s)
    ∧ (on → t.task.foldable = true → s.shrinkCore c = s.startFold true)
    ∧ (on → t.task.foldable = false → t.csr.trapvec.getLsbD 0 = false ∨ s.core.phase = .ending → s.shrinkCore c = s.endResized)
    ∧ (s.core.phase = .run → t.task.foldable = false → t.csr.trapvec.getLsbD 0 = true →
      let u := t.addFault { sub := 0x57, cause := 0x0A, baddr := t.pc }
      let mq := u.mq.map fun (m : MOp) => if isNest m.instr && m.started.isSome then { m with stop := true } else m
      s.shrinkCore c = { s with core := { s.core with th := { u with mq } } }))
  ∧ (∀ s : State, let p := s.ev.p
    let q := s.getPart p
    let l := q.cores.filter s.ev.cs.contains
    let begun := fun (t : State) => let u := t.updPart p fun q => { q with shrinkAt := t.pkg.time + 1 }
      (u.getPart p).shrink.foldl State.shrinkCore u
    (s.ev.n = 1 → q.shrink ≠ [] → q.shrinkAt = 0 → q.vote.pst = .run → exec .shrink s = .next (begun s))
    ∧ (s.ev.n ≠ 1 → q.shrink = [] → l ≠ [] → let u := s.updPart p fun q => { q with shrink := l, shrinkAt := 0 }
      exec .shrink s = .next (if q.vote.pst = .run then begun u else u))
    ∧ (s.ev.n ≠ 1 → (q.shrink ≠ [] ∨ l = []) → exec .shrink s = .next s))
  ∧ (∀ s : State, let p := s.ev.p
    let q := s.getPart p
    let l := q.shrink
    let t := l.foldl State.retireCore s
    let move := fun (x : Thread) =>
      if x.task.part = p && l.contains x.core then
        match (t.taskCtx x.task).bind fun d => t.physCore d (t.lcoreOf p x.task.slot x.core) with
        | some c => { x with core := c }
        | none => x
      else x
    (l ≠ [] → q.shrinkAt ≠ 0 → (∀ n ∈ l, let c := s.getCore n
      (c.phase = .idle ∨ c.phase = .stopped 2)
        ∧ (∀ x ∈ c.qacc, (∃ t ∈ s.pkg.parked, t.tid = x.tid) ∨ ∃ q ∈ s.pkg.parts, ∃ k ∈ q.2.ctxs, ∃ t ∈ k.2.saved, t.tid = x.tid) ∧ c.exch = [] ∧ ∀ m ∈ s.pkg.cmds, m.eng ≠ some n ∧ m.own ≠ n) →
      let u := t.updPkg fun k => { k with parked := k.parked.map move }
      exec .shrinkComplete s = .next ((u.pkg.parked.foldl (fun w x =>
        if x.task.part = p && !l.contains x.core then w.moveQueue x.tid x.core else w) u).updPart p fun q =>
        { q with cores := q.cores.filter fun c => !l.contains c, shrink := [], shrinkAt := 0 }))
    ∧ (q.shrinkAt ≠ 0 → q.shrinkAt + 2 ^ 24 ≤ s.pkg.time + 1 → exec .shrinkHandlerTimeout s =
      .next ((l.filter fun c => (s.getCore c).phase = .run).foldl (fun t c => t.onCore c State.endResized) s))
    ∧ (s.pkg.time + 1 < q.shrinkAt + 2 ^ 24 → exec .shrinkHandlerTimeout s = .next s))
  ∧ (∀ (s : State) (c : Nat), (s.getCore c).phase ≠ .stopped 2 → (s.retireCore c).getCore c = (s.getCore c).given)
  ∧ (∀ s : State, let p := s.ev.p
    let q := s.getPart p
    let a := if q.vote.cst = .waitReady || q.vote.sampling then s.abortVote p 3 (q.vote.cid.elim 0 (·.coord))
      else if q.vote.pst ≠ .run then s.answerVote p 3 fun k => { k with reason := 3 } else s
    let b := (a.updPart p fun q => { q with error := true, torn := true }).dropAll p
    let c := ((q.launches.foldl (fun t l => t.abortLaunch p l) b).zeroMemory p)
    let d := (q.cores.foldl (fun t n => t.updCoreN n fun _ => { num := n }) c).updPkg fun k =>
      { k with cmds := k.cmds.filter (·.task.part ≠ p), waiters := k.waiters.filter (·.acc.task.part ≠ p)
               parked := k.parked.filter (·.task.part ≠ p), rem := k.rem.filter (·.part ≠ p)
               hostJobs := k.hostJobs.filter (·.rq.ep ≠ p)
               regs := { k.regs with calownW := some ((k.regs.calownW.getD k.regs.calown).filter (·.2 ≠ p))
                                     calownAt := (k.time / 256 + 1) * 256, rshare := sset 8 k.regs.rshare p 8 } }
    let e := (s.pkg.hostJobs.filter (·.rq.ep = p)).foldl (fun t j => { t.emit (.hostNak j.rq.ep j.rq.qp 1) with agenda := t.agenda ++ j.later }) d
    exec .teardown s = .next (e.updPart p fun q =>
      { q with cores := [], launches := [], ready := [], ctxs := [], gang := 0, vote := {}, shrink := [], shrinkAt := 0, grow := []
               reinject := false, rebasing := false
               regs := { q.regs with rota := [], rotalen := 1, rotaepoch := 0, rotaW := [], rotalenW := none, rotaepochW := none, armed := [] } }))
  ∧ (∀ (s : State) (p : Nat), (∀ t ∈ (s.zeroMemory p).pkg.hbm.mem, t ∈ s.pkg.hbm.mem)
    ∧ ∀ d ∈ s.allCtxs p, ∀ r, (r ∈ leavesOf s.pkg.hbm.mem d.root 0 4 ∨ (d.save ≠ 0 ∧ r = (d.save, 0x10000 + d.ncore * 0x400000))
        ∨ (d.kennel ≠ 0 ∧ r = (d.kennel, d.ksize * 4096))) →
      ∀ a, r.1 ≤ a → a < r.1 + r.2 → sget 0 (s.zeroMemory p).pkg.hbm.mem a = 0)
  ∧ (∀ (s : State) (p : Nat), let u := s.dropAll p
    (∀ e ∈ u.pkg.links, ∀ t ∈ e.2.sendq, t.pkt.part = p → t.pkt.kind = 7 ∨ t.pkt.kind = 11)
    ∧ (∀ t ∈ u.pkg.inq, t.pkt.part = p → t.pkt.kind = 7 ∨ t.pkt.kind = 11)
    ∧ (u.pkg.inq.filter fun t => t.pkt.part ≠ p) = (s.pkg.inq.filter fun t => t.pkt.part ≠ p)
    ∧ u.pkg.rslots = (s.pkg.rslots.filter fun r => !(r.tx.pkt.part = p && r.tx.pkt.kind ≠ 11))
    ∧ u.pkg.swq = (s.pkg.swq.filter fun t => !(t.pkt.part = p && t.pkt.kind ≠ 11))
    ∧ u.pkg.hubq = (s.pkg.hubq.filter fun e => e.1.part ≠ p || e.1.kind = 11)
    ∧ u.pkg.mesh = s.pkg.mesh.filter (·.part ≠ p) ∧ u.pkg.adapter = s.pkg.adapter.filter (·.2.part ≠ p))
  ∧ (∀ (s : State) (t : TxPkt), let k := t.pkt
    let asks := (k.kind = 1 ∨ k.kind = 2 ∨ k.kind = 4 ∨ k.kind = 9) ∧ t.port < 8
    let nak : Packet :=
      { drank := k.srank, srank := k.drank, part := k.part, kind := 7, nkind := k.kind, arg := 0x0B, tag := k.tag, gang := k.gang }
    (¬ asks → s.dropPkt t = s.freed t)
    ∧ (asks → s.dropPkt t = ((s.freed t).logErr k.part k.addr (4 * 2 ^ 28 + k.srank % 2 ^ 28) 0x10 0x0B0A).forward
      { vc := vcOf nak 0, gen := s.pkg.regs.rgen, pkt := nak, vcIn := vcOf nak 0 } 2))
  ∧ (∀ (s : State) (p : Nat) (l : Launch), let m := l.raise 3
    let r := m.recordBytes s.pkg.time
    let u := s.abortLaunch p l
    (statusRank l.status < statusRank 3 → m.status = 3)
    ∧ (l.dhost = false → l.shost = false → u = s)
    ∧ (l.dhost = true → l.shost = false → u = if s.hostOk p l.done r.length then s.hostPut p l.done r else s)
    ∧ (l.dhost = false → l.shost = true → u = if s.hostOk p l.sig 4 then s.hostPut p l.sig (leBytes (l.word 10) 4) else s)
    ∧ (l.dhost = true → l.shost = true → s.hostOk p l.sig 4 = true →
      (s.hostOk p l.done 64 = true → u = (s.hostPut p l.done r).updPkg fun k => { k with hostPost := k.hostPost ++ [(p, l.sig, BitVec.ofNat 32 (l.word 10))] })
      ∧ (s.hostOk p l.done 64 = false → u = s.hostPut p l.sig (leBytes (l.word 10) 4)))
    ∧ (l.dhost = true → l.shost = true → s.hostOk p l.sig 4 = false → u = if s.hostOk p l.done 64 then s.hostPut p l.done r else s))
  ∧ (∀ s : State, let p := s.ev.p
    let r := (s.getPart p).regs
    let known : Prop := ∃ d ∈ s.allCtxs p, d.asid = r.invAsid.toNat
    (r.invBusy = true → exec .inval s = .next s)
    ∧ (r.invBusy = false → ¬ known → exec .inval s =
      .next (s.logErr p (r.invVa.toNat * 65536) (2 ^ 28 + s.ev.n % 2 ^ 28) 8 (r.invAsid.toNat % 65536)))
    ∧ (r.invBusy = false → known → exec .inval s =
      .next (s.updPart p fun q => { q with regs :=
      { q.regs with invBusy := true, invDone := false, runAsid := r.invAsid, runVa := r.invVa, runCnt := r.invCnt } })))
  ∧ (∀ s : State, let p := s.ev.p
    let r := (s.getPart p).regs
    let gone := fun (e : TlbEnt) => e.asid = r.runAsid.toNat && r.runVa.toNat * 65536 < e.base + e.size
      && e.base < (r.runVa.toNat + r.runCnt.toNat) * 65536
    let slots := (List.range 64).filter fun k => match s.ctxDesc p k with | some d => d.asid = r.runAsid.toNat | none => false
    let t := (s.getPart p).cores.foldl (fun t n => (t.flushL1 n fun l => l.asid = r.runAsid.toNat
        && (r.inRange l.va || slots.any fun k => s.invHits p k l.va)).updCoreN n fun c =>
      { c with utlb := c.utlb.filter fun e => !gone e }) s
    (r.invBusy = true → s.invClear p = true → exec .invalidationComplete s =
      .next ((t.updPkg fun k => { k with dtlb := k.dtlb.filter fun e => !gone e.2 }).updPart p fun q =>
        { q with regs := { q.regs with invBusy := false, invDone := true } }))
    ∧ ((r.invBusy = false ∨ s.invClear p = false) → exec .invalidationComplete s = .next s)
    ∧ (∀ va, r.inRange va = true ↔ r.runVa.toNat * 65536 ≤ va ∧ va < (r.runVa.toNat + r.runCnt.toNat) * 65536)
    ∧ (∀ slot va, s.invHits p slot va = true ↔ r.inRange va = true
      ∨ (∃ e, ((∃ c ∈ s.allCores, e ∈ c.utlb) ∨ ∃ x ∈ s.pkg.dtlb, x.2 = e) ∧ gone e = true ∧ e.covers r.runAsid.toNat va = true)
      ∨ ∃ d e, s.ctxDesc p slot = some d ∧ s.walk d va = .leaf e ∧ gone e = true)
    ∧ (s.invClear p = true ↔ ∀ q, ((∃ c ∈ s.allCores, q ∈ c.qacc) ∨ ∃ w ∈ s.pkg.waiters, w.acc = q) → q.sends = none → q.task.part = p →
      ∀ d, s.taskCtx q.task = some d → d.asid = r.runAsid.toNat → s.invHits p q.task.slot q.va = false))
  ∧ (∀ s : State, let v := s.ev.v
    let fit : Prop := v % 1024 = 0 ∧ 1024 ≤ v ∧ v ≤ 1048576
    (fit → exec .drainmax s = .next (s.updPart s.ev.p fun q => { q with regs := { q.regs with drainmax := v } }))
    ∧ (¬ fit → exec .drainmax s = .next (s.logErr s.ev.p (0x10040C + 0x10000 * s.ev.p) (2 ^ 28 + s.ev.n % 2 ^ 28) 9 0)))
  ∧ (∀ s : State, let o := s.ev.k / 4 * 4
    ∃ v : Nat, v < 2 ^ 32 ∧ (∀ i, i < 4 → v / 2 ^ (8 * i) % 256 = (if s.ev.w.testBit i then s.ev.v else s.hubWord o) / 2 ^ (8 * i) % 256)
      ∧ exec .hubRegisterWrite s = .next (if o < 0x10000 then s.pkgPut o v
        else if 0x100000 ≤ o ∧ o < 0x180000 then s.partPut ((o - 0x100000) / 0x10000) (o % 0x10000) v else s))
  ∧ (∀ (s : State) (p o v j : Nat), let put := fun (f : PartRegs → PartRegs) => s.updPart p fun q => { q with regs := f q.regs }
    (o < 0x400 → s.partPut p o v = put fun r => { r with page := lePut r.page o v 4 })
    ∧ (0x1000 ≤ o → o < 0x5000 → s.partPut p o v = put fun r => { r with page := lePut r.page o v 4 })
    ∧ s.partPut p 0x408 v = put (fun r => { r with wdi := v })
    ∧ s.partPut p 0x410 v = put (fun r => { r with rotalenW := some v })
    ∧ s.partPut p 0x430 v = put (fun r => { r with invAsid := BitVec.ofNat 32 v })
    ∧ s.partPut p 0x434 v = put (fun r => { r with invVa := BitVec.ofNat 32 v })
    ∧ s.partPut p 0x438 v = put (fun r => { r with invCnt := BitVec.ofNat 32 v })
    ∧ (j < 64 → s.partPut p (0x500 + 4 * j) v = put fun r => { r with rotaW := r.rotaW ++ [(j, BitVec.ofNat 32 v &&& 0xFFFF03FF)] })
    ∧ ∀ k, k < 2 → let half := fun (x : Nat) => if k = 0 then x / 2 ^ 32 * 2 ^ 32 + v else x % 2 ^ 32 + v * 2 ^ 32
      s.partPut p (0x418 + 4 * k) v = put (fun r => { r with rotaepochW := some (half (r.rotaepochW.getD r.rotaepoch)) })
      ∧ s.partPut p (0x600 + 4 * k) v = put (fun r => { r with chanbase := half r.chanbase })
      ∧ s.partPut p (0x608 + 4 * k) v = put (fun r => { r with ctxtab := half r.ctxtab })
      ∧ s.partPut p (0x610 + 4 * k) v = put (fun r => { r with imgtab := half r.imgtab }))
  ∧ (∀ (s : State) (v j : Nat), j < 64 → (s.pkgPut (0x100 + 4 * j) v).pkg.regs.calownW.isSome = true
    ∧ (s.pkgPut (0x100 + 4 * j) v).pkg.regs.calownAt = (s.pkg.time / 256 + 1) * 256 ∧ (s.pkgPut (0x100 + 4 * j) v).pkg.regs.calown = s.pkg.regs.calown)
  ∧ ∀ (s : State) (v k : Nat), k < 8 →
    s.pkgPut (0x208 + 4 * k) v = s.updPkg (fun g => { g with regs := { g.regs with rallow := sset 0 g.regs.rallow k v } })
    ∧ s.pkgPut (0xA00 + 4 * k) v = s.updLink k fun l => { l with lthresh := BitVec.ofNat 32 (v % 65536) }

/-- A queue pair that exists takes requests in turn once the Ethernet port is ready (R353, R367); above 2^31 bytes they are
unsupported, cause 3. An R-key names a valid window, whose rights and range a request must meet; else it draws a NAK and an
entry of the partition's error log (R354, R358). A write goes word by word to its home and is then acknowledged, a read
answers the bytes, each of the hub window with R-key 0 (R354, R357, R362); poison is refused with cause 7 (R361). An atomic
acts on 8 aligned bytes of a SYSA page as one step and answers the old value; elsewhere it is refused with cause 1, 2 or 3
(R355). A host target names an entry, on whose queue pair the write goes out at its base plus the offset (R356); a posted
signal follows its record (R357). A registered image gets its table entry, valid only with its signature (R366). A report
holds the nonce, the firmware's state, the core sets and digests, signed (R365). A corrected error is counted to 2^32 - 1
(R360); an uncorrectable one poisons its block, where a die store or an L1 holds it too, or its register, captured result,
tile or slab, and is logged with its PA or 0 (R359, R361); a packet struck in a switch buffer is refused with POISON. A reset
begins the package again, held where its firmware is not accepted (R365, R367). A passed self-test sets its FUNCREADY bit, and
a link trains (R367). After a thermal trip the package is held until the management endpoint releases it (R367). The model's
choices: NAK kinds and opcodes (log entry 88), the size limit and requests of no queue pair (135), release by any hub write
(136), structure codes and errors of no partition (89), the parts of a die store and a struck packet (98), memory after a trip
(91), the report's layout (86), the verdict as an operand (90), the table entry (134), open digests (7, 8). -/
def Obligations.HostRequestsErrorsAndBringUp : Prop :=
  (∀ (s : State) (p k : Nat), let e := 0x1000 + 32 * k
    let w0 := s.pageLe p e 8
    (k = 0 ∨ 256 ≤ k ∨ w0.testBit 63 = false → s.window p k = none)
    ∧ (0 < k → k < 256 → w0.testBit 63 = true → s.window p k =
      some ⟨w0 % 65536, w0.testBit 16, w0.testBit 17, w0.testBit 18, s.pageLe p (e + 8) 8, s.pageLe p (e + 16) 8⟩))
  ∧ (∀ (s : State) (right : Window → Bool) (wr : Bool) (n : Nat), let q := s.ev.rq
    (s.window q.ep q.rkey = none → s.hostReach right wr n = .no s)
    ∧ ∀ w, s.window q.ep q.rkey = some w → (right w = false ∨ q.va < w.base ∨ w.base + w.len < q.va + n → s.hostReach right wr n = .no s)
      ∧ ∀ d, right w = true → w.base ≤ q.va → q.va + n ≤ w.base + w.len → s.ctxDesc q.ep w.slot = some d →
        s.hostReach right wr n = hostPieces s q.ep d q.va wr [] (pieces q.va n))
  ∧ (∀ s : State, let q := s.ev.rq
    let n := s.ev.data.length
    let no := fun (t : State) (why cause addr arg : Nat) => if q.ep < 8 then
      (t.emit (.hostNak q.ep q.qp why)).logErr q.ep addr (2 ^ 28 + q.qp % 2 ^ 28) cause arg else t.emit (.hostNak q.ep q.qp why)
    let turn := s.pkg.held = false ∧ s.ev.n ≠ 1
    let opened := q.ep ≤ 8 ∧ q.qp < 256 ∧ 1024 + 20 ∈ s.pkg.regs.funcready
    let free := opened ∧ ∀ j ∈ s.pkg.hostJobs, j.rq.ep ≠ q.ep ∨ j.rq.qp ≠ q.qp
    let read := fun (o : Nat) => (s.logRead o s.ev.n).emit (.hostRead q.ep q.qp (s.hubBytes o s.ev.n))
    let page := 0x100000 + 0x10000 * q.ep + q.va
    (¬ opened → ∀ i ∈ [Instr.rdmaWrite, .rdmaRead, .atomicCmpSwap, .atomicFetchAdd, .unsupportedRequest], (i = .rdmaWrite → turn) → exec i s = .next s)
    ∧ (∀ k j, opened → s.pkg.hostJobs[k]? = some j → j.rq.ep = q.ep → j.rq.qp = q.qp →
      (∀ m x, m < k → s.pkg.hostJobs[m]? = some x → x.rq.ep ≠ q.ep ∨ x.rq.qp ≠ q.qp) →
      ∀ i ∈ [Instr.rdmaWrite, .rdmaRead, .atomicCmpSwap, .atomicFetchAdd, .unsupportedRequest], (i = .rdmaWrite → turn) →
        exec i s = .next (s.updPkg fun g => { g with hostJobs := lset g.hostJobs k { j with later := j.later ++ [(i, s.ev)] } }))
    ∧ (free → (2 ^ 31 < n → turn → exec .rdmaWrite s = .next (no s 2 3 0 0x0A)) ∧ (2 ^ 31 < s.ev.n → exec .rdmaRead s = .next (no s 2 3 0 0x0C)))
    ∧ (free → n ≤ 2 ^ 31 → s.ev.n ≤ 2 ^ 31 →
    (8 ≤ q.ep → q.rkey = 0 → (turn → exec .rdmaWrite s = .next ({ s with agenda := hubWrite true q.va s.ev.data q.qp ++ s.agenda }.emit (.hostAck q.ep q.qp)))
      ∧ exec .rdmaRead s = .next (read q.va))
    ∧ (8 ≤ q.ep → q.rkey ≠ 0 → (turn → exec .rdmaWrite s = .next (no s 1 2 q.va q.rkey)) ∧ exec .rdmaRead s = .next (no s 1 2 q.va q.rkey))
    ∧ (q.ep < 8 → q.rkey = 0 →
      (q.va + n ≤ 0x10000 → turn → exec .rdmaWrite s =
        .next ({ s with agenda := hubWrite false page s.ev.data q.qp ++ s.agenda }.emit (.hostAck q.ep q.qp)))
      ∧ (0x10000 < q.va + n → turn → exec .rdmaWrite s = .next (no s 1 2 q.va 0))
      ∧ (q.va + s.ev.n ≤ 0x10000 → exec .rdmaRead s = .next (read page))
      ∧ (0x10000 < q.va + s.ev.n → exec .rdmaRead s = .next (no s 1 2 q.va 0)))
    ∧ (q.ep < 8 → q.rkey ≠ 0 →
      (∀ t, s.hostReach (·.w) true n = .no t → turn → exec .rdmaWrite s = .next (no t 1 2 q.va q.rkey))
      ∧ (∀ d l t, s.hostReach (·.w) true n = .ok d l t → turn →
        exec .rdmaWrite s = .next (t.updPkg fun g =>
          { g with hostJobs := g.hostJobs ++ [{ rq := q, slot := d.slot, data := s.ev.data, left := l, later := [] }] }))
      ∧ (∀ t, s.hostReach (·.r) false s.ev.n = .no t → exec .rdmaRead s = .next (no t 1 2 q.va q.rkey))
      ∧ ∀ d l t, s.hostReach (·.r) false s.ev.n = .ok d l t →
        ((∃ e ∈ l, t.placeBad e.1 = true) → exec .rdmaRead s = .next (no t 3 7 q.va q.rkey))
        ∧ ((∀ e ∈ l, t.placeBad e.1 = false) → exec .rdmaRead s = .next
          ((t.hostLoads q.ep d.slot l).2.emit (.hostRead q.ep q.qp (t.hostLoads q.ep d.slot l).1))))
    ∧ ∀ r ∈ [(Instr.atomicCmpSwap, 0x13, fun (x : Nat) => if x = s.ev.v then s.ev.w else x), (.atomicFetchAdd, 0x14, fun x => x + s.ev.v)],
      (q.va % 8 ≠ 0 → exec r.1 s = .next (no s 2 3 q.va r.2.1))
      ∧ (q.va % 8 = 0 → (8 ≤ q.ep ∨ q.rkey = 0) → exec r.1 s = .next (no s 1 2 q.va q.rkey))
      ∧ (q.va % 8 = 0 → q.ep < 8 → q.rkey ≠ 0 →
        (∀ t, s.hostReach (·.a) true 8 = .no t → exec r.1 s = .next (no t 1 2 q.va q.rkey))
        ∧ (∀ d c o k l t, s.hostReach (·.a) true 8 = .ok d ((.spad c o, k) :: l) t → exec r.1 s = .next (no t 1 1 q.va q.rkey))
        ∧ ∀ d pa attr k l t, s.hostReach (·.a) true 8 = .ok d ((.mem pa attr, k) :: l) t →
          (attr.testBit 2 = false → exec r.1 s = .next (no t 1 1 q.va q.rkey))
          ∧ (attr.testBit 2 = true → t.placeBad (.mem pa attr) = true → exec r.1 s = .next (no t 3 7 q.va q.rkey))
          ∧ (attr.testBit 2 = true → t.placeBad (.mem pa attr) = false → let a := t.hostLoads q.ep d.slot ((.mem pa attr, k) :: l)
            let old := leNat a.1
            let new := r.2.2 old % 2 ^ 64
            exec r.1 s = .next ((if new = old then a.2 else a.2.hostStores q.ep d.slot q.va (leBytes new 8) ((.mem pa attr, k) :: l)).emit
              (.hostOld q.ep q.qp old))))
    ∧ exec .unsupportedRequest s = .next (no s 2 3 0 s.ev.v)))
  ∧ (∀ (s : State) (j : HostJob), s.pkg.held = false → s.ev.n = 1 → s.pkg.hostJobs[s.ev.k]? = some j →
    (∀ e f l, j.left = e :: f :: l → exec .rdmaWrite s = .next ((s.hostStore j.rq.ep j.slot j.rq.va j.data e).updPkg fun g =>
      { g with hostJobs := lset g.hostJobs s.ev.k { j with left := f :: l } }))
    ∧ ∀ t, (j.left = [] ∧ t = s) ∨ (∃ e, j.left = [e] ∧ t = s.hostStore j.rq.ep j.slot j.rq.va j.data e) → exec .rdmaWrite s =
      .next (({ t with agenda := j.later ++ t.agenda }.updPkg fun g => { g with hostJobs := ldel g.hostJobs s.ev.k }).emit (.hostAck j.rq.ep j.rq.qp)))
  ∧ (∀ (s : State) (p slot va : Nat) (data : List Byte) (pl : Place) (o n : Nat),
    let t := (s.claim p slot pl).writeBytes (hostWho p pl) 0 0 0 pl.home (leNat ((data.drop o).take n)) n
    s.hostStore p slot va data (pl, o, n) = if (va + o + n) % 64 = 0 ∧ 64 ≤ o + n then t.cleanBlock pl.home else t)
  ∧ (∀ s : State, let q := s.ev.rq
    let mgmt := q.ep = 8 ∧ q.rkey = 0 ∧ q.qp < 256
    s.pkg.held = true → (¬ mgmt → exec .rdmaWrite s = .next s)
    ∧ (mgmt → (s.pkg.tripped = true → exec .rdmaWrite s =
        .next ((s.updPkg fun k => { k with tripped := false, held := !Config.firmwareValid }).emit (.hostAck q.ep q.qp)))
      ∧ (s.pkg.tripped = false → q.va = 0x2000 → exec .rdmaWrite s =
        .next ({ s with agenda := (.attest, { data := s.ev.data }) :: s.agenda }.emit (.hostAck q.ep q.qp)))
      ∧ (s.pkg.tripped = false → q.va ≠ 0x2000 → exec .rdmaWrite s = .next s)))
  ∧ (∀ (s : State) (p t n : Nat) (data : List Byte), let e := 0x3000 + 32 * (t / 2 ^ 48 % 256)
    (s.hostOk p t n = true ↔ t < 2 ^ 56 ∧ (s.pageLe p e 4).testBit 31 = true ∧ t % 2 ^ 48 + n ≤ s.pageLe p (e + 16) 8)
    ∧ s.hostPut p t data = s.emit (.hostWrite p (s.pageLe p e 1) (s.pageLe p (e + 4) 4) (s.pageLe p (e + 8) 8 + t % 2 ^ 48) data))
  ∧ (∀ (s : State) (p t : Nat) (w : Word), s.pkg.hostPost[s.ev.k]? = some (p, t, w) →
    exec .hostSignalPost s = .next ((s.updPkg fun g => { g with hostPost := ldel g.hostPost s.ev.k }).hostPut p t (leBytes w.toNat 4)))
  ∧ (∀ (s : State) (i : Image), s.ev.img = some i →
    let listed := fun (b : Bool) => (s.updPart s.ev.p fun q =>
      { q with images := { i with valid := b } :: q.images.filter fun x => x.id ≠ i.id }).updPkg fun k =>
        { k with hbm := { k.hbm with mem := bytesPut k.hbm.mem ((s.getPart s.ev.p).regs.imgtab + 128 * (i.id % 65536)) (imageBytes { i with valid := b }) } }
    (s.ev.n ≠ 1 → exec .imageRegistration s = .next (listed false))
    ∧ (s.ev.n = 1 → (s.ev.blocks = [] ∨ i.slots = 0) → exec .imageRegistration s = .next (listed true))
    ∧ (s.ev.n = 1 → ∀ k, k < 64 → (∀ j, j < 64 → i.slots.getLsbD j = decide (j = k)) → ∀ d, (listed true).ctxDesc s.ev.p k = some d →
      ∀ b, s.ev.blocks = [b] → ∀ pl, ((listed true).reach 0 s.ev.p d none i.dataVa).1 = .found pl →
      let u := (listed true).claim s.ev.p d.slot pl
      exec .imageRegistration s = .next (u.setHome pl ((u.homeStore pl).putBlock pl.addr b.data (some b.desc)))))
  ∧ (∀ s : State, ∃ l : List Nat, l = [Config.serial, if Config.firmwareValid then 1 else 0, Config.firmwareDigest] ++ (List.range 8).flatMap (fun p =>
      (s.getPart p).cores ++ [Config.digest (s.imageTable p), Config.digest (bytesGet s.pkg.hbm.mem (s.getPart p).regs.ctxtab 4096),
        Config.digest (bytesGet (s.getPart p).regs.page 0x1000 0x2000)])
    ∧ exec .attest s = .next ((s.updPkg fun k => { k with regs := { k.regs with attest := bytesPut k.regs.attest 0 (s.ev.data.take 32) } }).emit
      (.report (s.ev.data.take 32) (l ++ [Config.signature (s.ev.data.take 32) l]))))
  ∧ (∀ s : State, let n := s.ev.n
    (s.ev.k < 16 → exec .singleBitError s = .next (s.updPkg fun g => { g with regs := { g.regs with
      secnt := sset 0 g.regs.secnt s.ev.k (min (sget 0 g.regs.secnt s.ev.k + 1) (2 ^ 32 - 1)) } }))
    ∧ exec .packageReset s = .next { State.reset with agenda := s.agenda, choice := s.choice, pkg := { out := s.pkg.out, held := !Config.firmwareValid } }
    ∧ (∃ u : State, exec .thermalTrip s = .next u ∧ u.pkg.held = true ∧ u.pkg.tripped = true ∧ u.pkg.parts = [] ∧ u.core = State.reset.core ∧ u.todo = [] ∧ u.done = [])
    ∧ (s.pkg.held = false → n < 1024 + 22 → n ∉ s.pkg.regs.funcready → ¬ (1024 + 12 ≤ n ∧ n < 1024 + 20) →
      exec .selfTestPass s = .next (s.updPkg fun g => { g with regs := { g.regs with funcready := g.regs.funcready ++ [n] } }))
    ∧ (s.pkg.held = false → 1024 + 12 ≤ n → n < 1024 + 20 → n ∉ s.pkg.regs.funcready → let l := n - (1024 + 12)
      let m := BitVec.ofNat 16 s.ev.v &&& ~~~(s.getLink l).barred
      ∀ g, laneGroup m.toNat = some g →
      let u := (s.updLink l fun k => { k with up := true, train := false, width := g.1, first := g.2, resend := k.replay.length, accepted := 0
                                              lastAck := s.pkg.time, good := m, lanes := m }).linkEvent l 4
      exec .selfTestPass s = .next (u.updPkg fun g => { g with regs := { g.regs with funcready := g.regs.funcready ++ [n] } })))
  ∧ (∀ (s : State) (pa p : Nat), s.partOfPa pa = some p → p < 8 ∧ ∃ d ∈ s.allCtxs p, (d.save ≠ 0 ∧ d.save ≤ pa ∧ pa < d.save + (0x10000 + d.ncore * 0x400000))
    ∨ (d.kennel ≠ 0 ∧ d.kennel ≤ pa ∧ pa < d.kennel + d.ksize * 4096)
    ∨ ∃ r ∈ leavesOf s.pkg.hbm.mem d.root 0 4, r.1 ≤ pa ∧ pa < r.1 + r.2)
  ∧ ∀ s : State, let log := fun (p : Option Nat) (a code : Nat) (t : State) => t.logErr (p.getD 0) a (6 * 2 ^ 28) 6 code
    (∀ pa, s.ev.err = .mem pa → pa < hbmEnd →
      exec .uncorrectableError s = .next (log (s.partOfPa pa) pa 0 (s.updPkg fun k =>
        { k with hbm := { k.hbm with poison := sset false k.hbm.poison (pa / 64) true } })))
    ∧ (∀ pa code o, ((s.ev.err = .dieStore pa ∧ code = 1 ∧ 0 < sget 0 s.pkg.lineOf (pa / 64) ∧ pa / 64 ∈ sget [] s.pkg.dstore (lineDie (pa / 64)) ∧ o = some (sget 0 s.pkg.lineOf (pa / 64) - 1))
        ∨ (∃ c, s.ev.err = .l1 c pa ∧ code = 2 ∧ o = s.partOf c ∧ ∃ l ∈ (s.getCore c).l1, l.pa = pa / 64 * 64)) → pa < hbmEnd →
      exec .uncorrectableError s = .next (log o pa code (s.updPkg fun k =>
        { k with hbm := { k.hbm with poison := sset false k.hbm.poison (pa / 64) true } })))
    ∧ (∀ c o, s.ev.err = .spad c o → exec .uncorrectableError s = .next (log (s.partOf c) 0 3 (s.updCoreN c fun k =>
      { k with spad := { k.spad with poison := sset false k.spad.poison (o % 0x100000 / 64) true } })))
    ∧ (∀ l k t, s.ev.err = .switchBuf l k → (s.getLink l).sendq[k]? = some t → t.pkt.kind ≠ 7 → t.pkt.kind ≠ 11 →
      ∃ n : Packet, n.kind = 7 ∧ n.nkind = t.pkt.kind ∧ n.tag = t.pkt.tag ∧ n.arg = 0x0A ∧ n.part = t.pkt.part
        ∧ (t.pkt.kind ∈ [1, 2, 4, 8, 9] → n.drank = t.pkt.srank) ∧ (t.pkt.kind ∈ [3, 5, 6, 10] → n.drank = t.pkt.drank)
        ∧ exec .uncorrectableError s = .next (log (some t.pkt.part) 0 7 (((s.freed t).updLink l fun x => { x with sendq := ldel x.sendq k }).forward
          { vc := vcOf n 0, gen := s.pkg.regs.rgen, pkt := n, vcIn := vcOf n 0 } 2)))
    ∧ (∀ c n, s.ev.err = .result c n → n < (s.getCore c).th.results.length →
      exec .uncorrectableError s = .next (log (s.partOf c) 0 6 (s.updCoreN c fun k => { k with th := k.th.strikeResult n }))
      ∧ ∃ x, (s.getCore c).th.results[n]? = some x ∧ ((s.getCore c).th.strikeResult n).results = lset (s.getCore c).th.results n { x with bad := true })
    ∧ (∀ c n, s.ev.err = .tile c n → exec .uncorrectableError s = .next (log (s.partOf c) 0 4 (s.updCoreN c fun k =>
      { k with tpoison := sset false k.tpoison (n % 96) true })))
    ∧ (∀ c n, s.ev.err = .slab c n → exec .uncorrectableError s = .next (log (s.partOf c) 0 5 (s.updCoreN c fun k =>
      { k with wpoison := sset false k.wpoison (n % 64) true })))
    ∧ ∀ c n r, (s.ev.err = .scalar c n ∧ r = (0, n % 64)) ∨ (s.ev.err = .pred c n ∧ r = (2, n % 128)) ∨ (s.ev.err = .vector c n ∧ r = (1, n % 64)) →
      exec .uncorrectableError s = .next (log (s.partOf c) 0 6 (s.updCoreN c fun k =>
        { k with th := { k.th with rpoison := if k.th.rpoison.contains r then k.th.rpoison else k.th.rpoison ++ [r] } }))

/-- After reset the package page and the partition pages read as R362 and R363 say: no function ready, each calendar slot
owned by its number modulo 8, 8 reduction slots for each partition, an error threshold of 0x100 for each link, route entries
of 0x000F, the watchdog at 2^26, DRAINMAX at 16,384, ROTALEN at 1, and every other register of them 0; a core is in no
partition and no core runs; the management processor holds the package released unless its firmware is refused (R365, which
firmware a digest admits is open: log entry 8). That the memories and maps are in their canonical form (with nothing listed,
log entry 1) is of the model. -/
def Obligations.ResetLeavesTheStatedValues : Prop :=
  (∀ o, o < 0x1000 → o % 4 = 0 → State.reset.hubWord o =
    if 0x100 ≤ o ∧ o < 0x200 then (if o % 8 = 0 then 0x03020100 else 0x07060504)
    else if o = 0x200 ∨ o = 0x204 then 0x08080808
    else if 0xA00 ≤ o ∧ o < 0xA20 then 0x100
    else 0)
  ∧ (∀ o, 0x1000 ≤ o → o < 0x3000 → State.reset.hubWord o = 0)
  ∧ (∀ i, i < 512 → State.reset.hubWord (0x3000 + 4 * i) = 0x000F000F)
  ∧ (∀ p o, p < 8 → o < 0x10000 → o % 4 = 0 → State.reset.hubWord (0x100000 + 0x10000 * p + o) =
    if o = 0x408 then 2 ^ 26 else if o = 0x40C then 16384 else if o = 0x410 then 1 else 0)
  ∧ State.reset.pkg.parts = [] ∧ (∀ n, State.reset.getCore n = { num := n }) ∧ (∀ n, ({ num := n } : Core).phase = .idle)
  ∧ State.reset.pkg.held = !Config.firmwareValid ∧ State.reset.canonical

/-- In a state whose maps are in canonical form (keys strictly rising, no entry equal to what an unlisted key reads as), every
step that answers a next state leaves all of them so, and equal contents are equal data, whatever instruction, device step or
swap of a region the step performs. The maps are: HBM and each core's scratchpad with their full/empty bits, descriptors,
timestamps and poison; the task save areas; the scalar, predicate and vector registers of each core and parked task; each
core's tiles, slabs, owner tags and marks of the two views; the partitions, with the timestamps of their fabric. The form is
the model's own representation of what R125, R233 and R347 describe. -/
def Obligations.StepKeepsCanonical : Prop :=
  ∀ s t : State, s.canonical → step s = .next t → t.canonical
end

