-- ==== Sys2Proof/Laws/Lanes.lean ====
section
/-! SUPPORT. Vectors and predicates lane by lane: reading a lane of a built vector, a bit of a built predicate, and a lane of
a merge under a guard (R31, R106). -/

namespace Sys2Proof.Machine

/-- Lane `k` of a vector as a number. -/
theorem lane_toNat (v : VReg) (k : Nat) : (lane v k).toNat = v.toNat / 2 ^ (32 * k) % 2 ^ 32 := by
  simp [lane, BitVec.extractLsb', Nat.shiftRight_eq_div_pow]

/-- Digit `k` of a number with the digits of a list. -/
theorem digit_foldr (l : List Nat) (h : ∀ x ∈ l, x < 2 ^ 32) (k : Nat) :
    (l.foldr (fun x n => x + 2 ^ 32 * n) 0) / 2 ^ (32 * k) % 2 ^ 32 = l.getD k 0 := by
  induction l generalizing k with
  | nil => simp
  | cons x l ih =>
    have hx := h x (by simp)
    cases k with
    | zero => simp only [List.foldr_cons, Nat.mul_zero, Nat.pow_zero, Nat.div_one, List.getD_cons_zero]; omega
    | succ k =>
      have e : x + 2 ^ 32 * l.foldr (fun x n => x + 2 ^ 32 * n) 0 = 2 ^ 32 * l.foldr (fun x n => x + 2 ^ 32 * n) 0 + x := by omega
      rw [List.foldr_cons, List.getD_cons_succ, e, show 32 * (k + 1) = 32 + 32 * k by omega, pow_add, ← Nat.div_div_eq_div_mul,
        Nat.mul_add_div (by norm_num), Nat.div_eq_of_lt hx, Nat.add_zero]
      exact ih (fun y hy => h y (by simp [hy])) k

/-- The number of a list of digits is below the power of its length. -/
theorem foldr_lt (l : List Nat) (h : ∀ x ∈ l, x < 2 ^ 32) : l.foldr (fun x n => x + 2 ^ 32 * n) 0 < 2 ^ (32 * l.length) := by
  induction l with
  | nil => simp
  | cons x l ih =>
    have hx := h x (by simp)
    have hi := ih fun y hy => h y (by simp [hy])
    rw [List.foldr_cons, List.length_cons, show 32 * (l.length + 1) = 32 * l.length + 32 by omega, pow_add]
    generalize 2 ^ (32 * l.length) = p at *
    omega

/-- A lane of a vector built from a list of 64 lane values. -/
theorem lane_vecOf (l : List (Word × Flags)) (hl : l.length ≤ 64) (k : Nat) :
    lane (vecOf l) k = (l.map (·.1)).getD k 0 := by
  apply BitVec.eq_of_toNat_eq
  have e : l.foldr (fun w n => w.1.toNat + 2 ^ 32 * n) 0 = (l.map fun w => w.1.toNat).foldr (fun x n => x + 2 ^ 32 * n) 0 := by
    rw [List.foldr_map]
  have hb : ∀ x ∈ l.map fun w => w.1.toNat, x < 2 ^ 32 := by
    intro x hx
    obtain ⟨w, -, rfl⟩ := List.mem_map.1 hx
    exact w.1.isLt
  have hlt : l.foldr (fun w n => w.1.toNat + 2 ^ 32 * n) 0 < 2 ^ 2048 := by
    rw [e]
    refine lt_of_lt_of_le (foldr_lt _ hb) (pow_le_pow_right₀ (by norm_num) ?_)
    rw [List.length_map]; omega
  rw [lane_toNat, vecOf, BitVec.toNat_ofNat, Nat.mod_eq_of_lt hlt, e, digit_foldr _ hb]
  simp only [List.getD_eq_getElem?_getD, List.getElem?_map]
  cases l[k]? <;> rfl

/-- A lane of a vector built lane by lane. -/
theorem lane_lanesOf (f : Nat → Word × Flags) (k : Nat) (hk : k < 64) : lane (vecOf (lanesOf f)) k = (f k).1 := by
  rw [lane_vecOf _ (by simp [lanesOf])]
  simp [lanesOf, hk]

theorem lanesNat_eq (f : Nat → Word) (i n : Nat) :
    lanesNat f i n = ((List.range n).map fun k => (f (i + k)).toNat).foldr (fun x m => x + 2 ^ 32 * m) 0 := by
  induction n generalizing i with
  | zero => rfl
  | succ n ih =>
    rw [List.range_succ_eq_map]
    simp only [lanesNat, List.map_cons, List.map_map, List.foldr_cons, ih, Nat.add_zero]
    congr 4
    funext k
    simp only [Function.comp_apply]
    rw [show i + 1 + k = i + k.succ by omega]

/-- A lane of the vector with given lanes. -/
theorem lane_ofLanes (f : Nat → Word) (k : Nat) (hk : k < 64) : lane (ofLanes f) k = f k := by
  apply BitVec.eq_of_toNat_eq
  have hb : ∀ x ∈ (List.range 64).map fun k => (f (0 + k)).toNat, x < 2 ^ 32 := by
    intro x hx
    obtain ⟨w, -, rfl⟩ := List.mem_map.1 hx
    exact (f _).isLt
  have hlt : lanesNat f 0 64 < 2 ^ 2048 := by
    rw [lanesNat_eq]
    refine lt_of_lt_of_le (foldr_lt _ hb) (pow_le_pow_right₀ (by norm_num) ?_)
    simp
  rw [lane_toNat, ofLanes, BitVec.toNat_ofNat, Nat.mod_eq_of_lt hlt, lanesNat_eq, digit_foldr _ hb]
  simp [hk]

/-- A bit of a vector is a bit of its lane. -/
theorem getLsbD_lane (v : VReg) (k j : Nat) (hj : j < 32) : (lane v k).getLsbD j = v.getLsbD (32 * k + j) := by
  simp [lane, hj]

/-- Two vectors with the same lanes are the same. -/
theorem vreg_ext (v w : VReg) (h : ∀ k, k < 64 → lane v k = lane w k) : v = w := by
  apply BitVec.eq_of_getLsbD_eq
  intro i hi
  have := congrArg (fun x : Word => x.getLsbD (i % 32)) (h (i / 32) (by omega))
  simp only [getLsbD_lane _ _ _ (Nat.mod_lt i (by norm_num : 0 < 32))] at this
  rwa [show 32 * (i / 32) + i % 32 = i by omega] at this

@[simp] theorem lane_and (v w : VReg) (k : Nat) : lane (v &&& w) k = lane v k &&& lane w k := by
  apply BitVec.eq_of_getLsbD_eq
  intro j hj
  rw [getLsbD_lane _ _ _ hj, BitVec.getLsbD_and, BitVec.getLsbD_and, getLsbD_lane _ _ _ hj, getLsbD_lane _ _ _ hj]
@[simp] theorem lane_or (v w : VReg) (k : Nat) : lane (v ||| w) k = lane v k ||| lane w k := by
  apply BitVec.eq_of_getLsbD_eq
  intro j hj
  rw [getLsbD_lane _ _ _ hj, BitVec.getLsbD_or, BitVec.getLsbD_or, getLsbD_lane _ _ _ hj, getLsbD_lane _ _ _ hj]
theorem lane_not (v : VReg) (k : Nat) (hk : k < 64) : lane (~~~v) k = ~~~(lane v k) := by
  apply BitVec.eq_of_getLsbD_eq
  intro j hj
  rw [getLsbD_lane _ _ _ hj, BitVec.getLsbD_not, BitVec.getLsbD_not, getLsbD_lane _ _ _ hj]
  simp [hj, show 32 * k + j < 2048 by omega]

/-- The mask of a guard, lane by lane. -/
theorem lane_laneMask (g : PReg) (k : Nat) (hk : k < 64) : lane (laneMask g) k = if g.getLsbD k then 0xFFFFFFFF else 0 :=
  lane_ofLanes _ k hk

/-- A merge under a guard (R106): an active lane takes the new value, an inactive one keeps the old. -/
theorem lane_merge (old v : VReg) (g : PReg) (k : Nat) (hk : k < 64) :
    lane ((old &&& ~~~(laneMask g)) ||| (v &&& laneMask g)) k = if g.getLsbD k then lane v k else lane old k := by
  rw [lane_or, lane_and, lane_and, lane_not _ _ hk, lane_laneMask _ _ hk]
  have h3 : ∀ x : Word, x &&& 4294967295#32 = x := fun x => by
    have : 4294967295#32 = BitVec.allOnes 32 := by decide
    rw [this, BitVec.and_allOnes]
  split <;> simp [h3]

theorem predNat_lt (f : Nat → Bool) (i n : Nat) : predNat f i n < 2 ^ n := by
  induction n generalizing i with
  | zero => simp [predNat]
  | succ n ih =>
    have := ih (i + 1)
    simp only [predNat, pow_succ]
    have : b2n (f i) ≤ 1 := by unfold b2n; split <;> omega
    omega

theorem testBit_predNat (f : Nat → Bool) (i n k : Nat) (hk : k < n) : (predNat f i n).testBit k = f (i + k) := by
  induction n generalizing i k with
  | zero => omega
  | succ n ih =>
    cases k with
    | zero =>
      simp only [predNat, Nat.add_zero]
      rw [Nat.testBit_zero, Nat.add_mul_mod_self_left]
      unfold b2n; cases f i <;> simp
    | succ k =>
      simp only [predNat]
      rw [Nat.testBit_succ]
      have : (b2n (f i) + 2 * predNat f (i + 1) n) / 2 = predNat f (i + 1) n := by
        have : b2n (f i) ≤ 1 := by unfold b2n; split <;> omega
        omega
      rw [this, ih (i + 1) k (by omega), show i + 1 + k = i + (k + 1) by omega]

/-- A bit of the predicate with given bits. -/
theorem getLsbD_ofPred (f : Nat → Bool) (k : Nat) (hk : k < 64) : (ofPred f).getLsbD k = f k := by
  have := testBit_predNat f 0 64 k hk
  simp only [ofPred, BitVec.getLsbD_ofNat, this]
  simp [hk]

end Sys2Proof.Machine
end

