-- ==== Sys2Proof/Laws/PerInstr.lean ====
section
/-! SUPPORT. Statements made per instruction. `NoExtension`: what is no slot operation, a header bit (R10) or a step of the device,
is encoded with no extension byte (R13). -/

namespace Sys2Proof.Laws.NoExtension

/-- A header bit or a step of the device takes no extension byte. -/
def Statement (i : Instr) : Prop := slotOp i = false → (encode i).ext = 0

theorem endB (vj : Bool) : Statement (.endB vj) := fun _ => rfl
theorem add (g d a b : Nat) : Statement (.add g d a b) := fun h => nomatch h
theorem sub (g d a b : Nat) : Statement (.sub g d a b) := fun h => nomatch h
theorem and (g d a b : Nat) : Statement (.and g d a b) := fun h => nomatch h
theorem or (g d a b : Nat) : Statement (.or g d a b) := fun h => nomatch h
theorem xor (g d a b : Nat) : Statement (.xor g d a b) := fun h => nomatch h
theorem andn (g d a b : Nat) : Statement (.andn g d a b) := fun h => nomatch h
theorem shl (g d a b : Nat) : Statement (.shl g d a b) := fun h => nomatch h
theorem shr (g d a b : Nat) : Statement (.shr g d a b) := fun h => nomatch h
theorem sar (g d a b : Nat) : Statement (.sar g d a b) := fun h => nomatch h
theorem rotr (g d a b : Nat) : Statement (.rotr g d a b) := fun h => nomatch h
theorem slt (g d a b : Nat) : Statement (.slt g d a b) := fun h => nomatch h
theorem sltu (g d a b : Nat) : Statement (.sltu g d a b) := fun h => nomatch h
theorem seq (g d a b : Nat) : Statement (.seq g d a b) := fun h => nomatch h
theorem sne (g d a b : Nat) : Statement (.sne g d a b) := fun h => nomatch h
theorem min (g d a b : Nat) : Statement (.min g d a b) := fun h => nomatch h
theorem max (g d a b : Nat) : Statement (.max g d a b) := fun h => nomatch h
theorem minu (g d a b : Nat) : Statement (.minu g d a b) := fun h => nomatch h
theorem maxu (g d a b : Nat) : Statement (.maxu g d a b) := fun h => nomatch h
theorem mul (g d a b : Nat) : Statement (.mul g d a b) := fun h => nomatch h
theorem mulh (g d a b : Nat) : Statement (.mulh g d a b) := fun h => nomatch h
theorem mulhu (g d a b : Nat) : Statement (.mulhu g d a b) := fun h => nomatch h
theorem div (g d a b : Nat) : Statement (.div g d a b) := fun h => nomatch h
theorem divu (g d a b : Nat) : Statement (.divu g d a b) := fun h => nomatch h
theorem rem (g d a b : Nat) : Statement (.rem g d a b) := fun h => nomatch h
theorem remu (g d a b : Nat) : Statement (.remu g d a b) := fun h => nomatch h
theorem clz (g d a : Nat) : Statement (.clz g d a) := fun h => nomatch h
theorem ctz (g d a : Nat) : Statement (.ctz g d a) := fun h => nomatch h
theorem popc (g d a : Nat) : Statement (.popc g d a) := fun h => nomatch h
theorem sel (g d a b : Nat) : Statement (.sel g d a b) := fun h => nomatch h
theorem bfx (g d a b : Nat) : Statement (.bfx g d a b) := fun h => nomatch h
theorem bfi (g d a b : Nat) : Statement (.bfi g d a b) := fun h => nomatch h
theorem addi (g d a : Nat) (k : Int) : Statement (.addi g d a k) := fun h => nomatch h
theorem andi (g d a : Nat) (k : Int) : Statement (.andi g d a k) := fun h => nomatch h
theorem ori (g d a : Nat) (k : Int) : Statement (.ori g d a k) := fun h => nomatch h
theorem xori (g d a : Nat) (k : Int) : Statement (.xori g d a k) := fun h => nomatch h
theorem shli (g d a : Nat) (k : Int) : Statement (.shli g d a k) := fun h => nomatch h
theorem shri (g d a : Nat) (k : Int) : Statement (.shri g d a k) := fun h => nomatch h
theorem sari (g d a : Nat) (k : Int) : Statement (.sari g d a k) := fun h => nomatch h
theorem slti (g d a : Nat) (k : Int) : Statement (.slti g d a k) := fun h => nomatch h
theorem sltui (g d a : Nat) (k : Int) : Statement (.sltui g d a k) := fun h => nomatch h
theorem seqi (g d a : Nat) (k : Int) : Statement (.seqi g d a k) := fun h => nomatch h
theorem mini (g d a : Nat) (k : Int) : Statement (.mini g d a k) := fun h => nomatch h
theorem maxi (g d a : Nat) (k : Int) : Statement (.maxi g d a k) := fun h => nomatch h
theorem muli (g d a : Nat) (k : Int) : Statement (.muli g d a k) := fun h => nomatch h
theorem li (g d : Nat) (k : Int) : Statement (.li g d k) := fun h => nomatch h
theorem lhi (g d i : Nat) : Statement (.lhi g d i) := fun h => nomatch h
theorem lpc (g d : Nat) (k : Int) : Statement (.lpc g d k) := fun h => nomatch h
theorem br (g a : Nat) (o : Int) : Statement (.br g a o) := fun h => nomatch h
theorem brn (g a : Nat) (o : Int) : Statement (.brn g a o) := fun h => nomatch h
theorem bz (g a : Nat) (o : Int) : Statement (.bz g a o) := fun h => nomatch h
theorem bnz (g a : Nat) (o : Int) : Statement (.bnz g a o) := fun h => nomatch h
theorem jmp (g : Nat) (o : Int) : Statement (.jmp g o) := fun h => nomatch h
theorem call (g : Nat) (o : Int) : Statement (.call g o) := fun h => nomatch h
theorem jr (g a : Nat) (o : Int) : Statement (.jr g a o) := fun h => nomatch h
theorem calr (g a : Nat) (o : Int) : Statement (.calr g a o) := fun h => nomatch h
theorem brlc (g : Nat) (o : Int) : Statement (.brlc g o) := fun h => nomatch h
theorem loops (g a e : Nat) : Statement (.loops g a e) := fun h => nomatch h
theorem ldW (g d a : Nat) (k : Int) : Statement (.ldW g d a k) := fun h => nomatch h
theorem ldH (g d a : Nat) (k : Int) : Statement (.ldH g d a k) := fun h => nomatch h
theorem ldHu (g d a : Nat) (k : Int) : Statement (.ldHu g d a k) := fun h => nomatch h
theorem ldB (g d a : Nat) (k : Int) : Statement (.ldB g d a k) := fun h => nomatch h
theorem ldBu (g d a : Nat) (k : Int) : Statement (.ldBu g d a k) := fun h => nomatch h
theorem stW (g d a : Nat) (k : Int) : Statement (.stW g d a k) := fun h => nomatch h
theorem stH (g d a : Nat) (k : Int) : Statement (.stH g d a k) := fun h => nomatch h
theorem stB (g d a : Nat) (k : Int) : Statement (.stB g d a k) := fun h => nomatch h
theorem ldf (g d a : Nat) (k : Int) : Statement (.ldf g d a k) := fun h => nomatch h
theorem ldfe (g d a : Nat) (k : Int) : Statement (.ldfe g d a k) := fun h => nomatch h
theorem stef (g d a : Nat) (k : Int) : Statement (.stef g d a k) := fun h => nomatch h
theorem stf (g d a : Nat) (k : Int) : Statement (.stf g d a k) := fun h => nomatch h
theorem clrf (g a : Nat) (k : Int) : Statement (.clrf g a k) := fun h => nomatch h
theorem csrr (g d c : Nat) : Statement (.csrr g d c) := fun h => nomatch h
theorem csrw (g d c : Nat) : Statement (.csrw g d c) := fun h => nomatch h
theorem csrs (g d c : Nat) : Statement (.csrs g d c) := fun h => nomatch h
theorem csrc (g d c : Nat) : Statement (.csrc g d c) := fun h => nomatch h
theorem trap (g d k : Nat) : Statement (.trap g d k) := fun h => nomatch h
theorem eret (g : Nat) : Statement (.eret g) := fun h => nomatch h
theorem wait (g ql qs cp tl : Nat) : Statement (.wait g ql qs cp tl) := fun h => nomatch h
theorem twait (g m : Nat) : Statement (.twait g m) := fun h => nomatch h
theorem gjoin (g n : Nat) : Statement (.gjoin g n) := fun h => nomatch h
theorem gleave (g n : Nat) : Statement (.gleave g n) := fun h => nomatch h
theorem gsync (g n : Nat) : Statement (.gsync g n) := fun h => nomatch h
theorem fold (g : Nat) : Statement (.fold g) := fun h => nomatch h
theorem tdom (g d s : Nat) : Statement (.tdom g d s) := fun h => nomatch h
theorem tbud (g d s : Nat) : Statement (.tbud g d s) := fun h => nomatch h
theorem snapr (g d a b : Nat) : Statement (.snapr g d a b) := fun h => nomatch h
theorem snapw (g d a b : Nat) : Statement (.snapw g d a b) := fun h => nomatch h
theorem tlook (g d a b : Nat) : Statement (.tlook g d a b) := fun h => nomatch h
theorem tins (g d a b : Nat) : Statement (.tins g d a b) := fun h => nomatch h
theorem tinvVa (g a b : Nat) : Statement (.tinvVa g a b) := fun h => nomatch h
theorem tinvEntry (g d : Nat) : Statement (.tinvEntry g d) := fun h => nomatch h
theorem pand (g d a b : Nat) : Statement (.pand g d a b) := fun h => nomatch h
theorem por (g d a b : Nat) : Statement (.por g d a b) := fun h => nomatch h
theorem pxor (g d a b : Nat) : Statement (.pxor g d a b) := fun h => nomatch h
theorem pandn (g d a b : Nat) : Statement (.pandn g d a b) := fun h => nomatch h
theorem pnez (g d a : Nat) : Statement (.pnez g d a) := fun h => nomatch h
theorem pget (g d a h : Nat) : Statement (.pget g d a h) := fun h => nomatch h
theorem pput (g d a h : Nat) : Statement (.pput g d a h) := fun h => nomatch h
theorem pcnt (g d a : Nat) : Statement (.pcnt g d a) := fun h => nomatch h
theorem pfirst (g d a : Nat) : Statement (.pfirst g d a) := fun h => nomatch h
theorem rtime (g d s : Nat) : Statement (.rtime g d s) := fun h => nomatch h
theorem vaddF (g d a b : Nat) : Statement (.vaddF g d a b) := fun h => nomatch h
theorem vsubF (g d a b : Nat) : Statement (.vsubF g d a b) := fun h => nomatch h
theorem vmulF (g d a b : Nat) : Statement (.vmulF g d a b) := fun h => nomatch h
theorem vfmaF (g d a b : Nat) : Statement (.vfmaF g d a b) := fun h => nomatch h
theorem vfmsF (g d a b : Nat) : Statement (.vfmsF g d a b) := fun h => nomatch h
theorem vfnmaF (g d a b : Nat) : Statement (.vfnmaF g d a b) := fun h => nomatch h
theorem vminF (g d a b : Nat) : Statement (.vminF g d a b) := fun h => nomatch h
theorem vmaxF (g d a b : Nat) : Statement (.vmaxF g d a b) := fun h => nomatch h
theorem vabsF (g d a : Nat) : Statement (.vabsF g d a) := fun h => nomatch h
theorem vnegF (g d a : Nat) : Statement (.vnegF g d a) := fun h => nomatch h
theorem vdivF (g d a b : Nat) : Statement (.vdivF g d a b) := fun h => nomatch h
theorem vsqrtF (g d a : Nat) : Statement (.vsqrtF g d a) := fun h => nomatch h
theorem vrsqrtF (g d a : Nat) : Statement (.vrsqrtF g d a) := fun h => nomatch h
theorem vrcpF (g d a : Nat) : Statement (.vrcpF g d a) := fun h => nomatch h
theorem vexp2F (g d a : Nat) : Statement (.vexp2F g d a) := fun h => nomatch h
theorem vlog2F (g d a : Nat) : Statement (.vlog2F g d a) := fun h => nomatch h
theorem vfeq (g d a b : Nat) : Statement (.vfeq g d a b) := fun h => nomatch h
theorem vfne (g d a b : Nat) : Statement (.vfne g d a b) := fun h => nomatch h
theorem vflt (g d a b : Nat) : Statement (.vflt g d a b) := fun h => nomatch h
theorem vfle (g d a b : Nat) : Statement (.vfle g d a b) := fun h => nomatch h
theorem vfun (g d a b : Nat) : Statement (.vfun g d a b) := fun h => nomatch h
theorem vsel (g d a b : Nat) : Statement (.vsel g d a b) := fun h => nomatch h
theorem vsumF (g d a : Nat) : Statement (.vsumF g d a) := fun h => nomatch h
theorem vmaxrF (g d a : Nat) : Statement (.vmaxrF g d a) := fun h => nomatch h
theorem vminrF (g d a : Nat) : Statement (.vminrF g d a) := fun h => nomatch h
theorem vroundF (g d a : Nat) : Statement (.vroundF g d a) := fun h => nomatch h
theorem vtruncF (g d a : Nat) : Statement (.vtruncF g d a) := fun h => nomatch h
theorem vaddI (g d a b : Nat) : Statement (.vaddI g d a b) := fun h => nomatch h
theorem vsubI (g d a b : Nat) : Statement (.vsubI g d a b) := fun h => nomatch h
theorem vmulI (g d a b : Nat) : Statement (.vmulI g d a b) := fun h => nomatch h
theorem vmulhI (g d a b : Nat) : Statement (.vmulhI g d a b) := fun h => nomatch h
theorem vand (g d a b : Nat) : Statement (.vand g d a b) := fun h => nomatch h
theorem vor (g d a b : Nat) : Statement (.vor g d a b) := fun h => nomatch h
theorem vxor (g d a b : Nat) : Statement (.vxor g d a b) := fun h => nomatch h
theorem vshl (g d a b : Nat) : Statement (.vshl g d a b) := fun h => nomatch h
theorem vshr (g d a b : Nat) : Statement (.vshr g d a b) := fun h => nomatch h
theorem vsar (g d a b : Nat) : Statement (.vsar g d a b) := fun h => nomatch h
theorem vminI (g d a b : Nat) : Statement (.vminI g d a b) := fun h => nomatch h
theorem vmaxI (g d a b : Nat) : Statement (.vmaxI g d a b) := fun h => nomatch h
theorem vminuI (g d a b : Nat) : Statement (.vminuI g d a b) := fun h => nomatch h
theorem vmaxuI (g d a b : Nat) : Statement (.vmaxuI g d a b) := fun h => nomatch h
theorem vieq (g d a b : Nat) : Statement (.vieq g d a b) := fun h => nomatch h
theorem vilt (g d a b : Nat) : Statement (.vilt g d a b) := fun h => nomatch h
theorem viltu (g d a b : Nat) : Statement (.viltu g d a b) := fun h => nomatch h
theorem vsumI (g d a : Nat) : Statement (.vsumI g d a) := fun h => nomatch h
theorem vbcast (g d a : Nat) : Statement (.vbcast g d a) := fun h => nomatch h
theorem vgetl (g d a b : Nat) : Statement (.vgetl g d a b) := fun h => nomatch h
theorem vsetl (g d a b : Nat) : Statement (.vsetl g d a b) := fun h => nomatch h
theorem vperm (g d a b : Nat) : Statement (.vperm g d a b) := fun h => nomatch h
theorem vrot (g d a b : Nat) : Statement (.vrot g d a b) := fun h => nomatch h
theorem vid (g d : Nat) : Statement (.vid g d) := fun h => nomatch h
theorem vcvtFi (g d a : Nat) : Statement (.vcvtFi g d a) := fun h => nomatch h
theorem vcvtIf (g d a : Nat) : Statement (.vcvtIf g d a) := fun h => nomatch h
theorem vtruncI (g d a : Nat) : Statement (.vtruncI g d a) := fun h => nomatch h
theorem vpackBf (g d a part k : Nat) : Statement (.vpackBf g d a part k) := fun h => nomatch h
theorem vpackH (g d a part k : Nat) : Statement (.vpackH g d a part k) := fun h => nomatch h
theorem vpackD8 (g d a part k : Nat) : Statement (.vpackD8 g d a part k) := fun h => nomatch h
theorem vpackI8 (g d a part k : Nat) : Statement (.vpackI8 g d a part k) := fun h => nomatch h
theorem vunpkBf (g d a part : Nat) : Statement (.vunpkBf g d a part) := fun h => nomatch h
theorem vunpkH (g d a part : Nat) : Statement (.vunpkH g d a part) := fun h => nomatch h
theorem vunpkD8 (g d a part : Nat) : Statement (.vunpkD8 g d a part) := fun h => nomatch h
theorem vunpkI8 (g d a part : Nat) : Statement (.vunpkI8 g d a part) := fun h => nomatch h
theorem vld (g v a : Nat) (k : Int) : Statement (.vld g v a k) := fun h => nomatch h
theorem vst (g v a : Nat) (k : Int) : Statement (.vst g v a k) := fun h => nomatch h
theorem vlds (g v a b : Nat) : Statement (.vlds g v a b) := fun h => nomatch h
theorem vsts (g v a b : Nat) : Statement (.vsts g v a b) := fun h => nomatch h
theorem vldx (g v a b : Nat) : Statement (.vldx g v a b) := fun h => nomatch h
theorem vstx (g v a b : Nat) : Statement (.vstx g v a b) := fun h => nomatch h
theorem vldf (g v a : Nat) (k : Int) : Statement (.vldf g v a k) := fun h => nomatch h
theorem vstf (g v a : Nat) (k : Int) : Statement (.vstf g v a k) := fun h => nomatch h
theorem vqld (g a : Nat) (k : Int) : Statement (.vqld g a k) := fun h => nomatch h
theorem vqst (g v a : Nat) (k : Int) : Statement (.vqst g v a k) := fun h => nomatch h
theorem vldd (g v a : Nat) (k : Int) : Statement (.vldd g v a k) := fun h => nomatch h
theorem vstd (g v a b : Nat) : Statement (.vstd g v a b) := fun h => nomatch h
theorem vprn24 (g v a b : Nat) : Statement (.vprn24 g v a b) := fun h => nomatch h
theorem vprn48 (g v a b : Nat) : Statement (.vprn48 g v a b) := fun h => nomatch h
theorem vsdot (g v a b : Nat) : Statement (.vsdot g v a b) := fun h => nomatch h
theorem vexpd (g v a : Nat) : Statement (.vexpd g v a) := fun h => nomatch h
theorem vdot4I8 (g v a b : Nat) : Statement (.vdot4I8 g v a b) := fun h => nomatch h
theorem vdot2Bf (g v a b : Nat) : Statement (.vdot2Bf g v a b) := fun h => nomatch h
theorem nset (g s a : Nat) : Statement (.nset g s a) := fun h => nomatch h
theorem nseti (g s : Nat) (k : Int) : Statement (.nseti g s k) := fun h => nomatch h
theorem ngo (g : Nat) : Statement (.ngo g) := fun h => nomatch h
theorem nstop (g l : Nat) : Statement (.nstop g l) := fun h => nomatch h
theorem cseq (g a : Nat) : Statement (.cseq g a) := fun h => nomatch h
theorem mscl (g a : Nat) : Statement (.mscl g a) := fun h => nomatch h
theorem tzero (g t n m : Nat) : Statement (.tzero g t n m) := fun h => nomatch h
theorem tout (g t a b : Nat) : Statement (.tout g t a b) := fun h => nomatch h
theorem tin (g t a b : Nat) : Statement (.tin g t a b) := fun h => nomatch h
theorem tacc (g t a b : Nat) : Statement (.tacc g t a b) := fun h => nomatch h
theorem tmov (g t s : Nat) : Statement (.tmov g t s) := fun h => nomatch h
theorem wbld (g b a u : Nat) : Statement (.wbld g b a u) := fun h => nomatch h
theorem wprn24 (g b s : Nat) : Statement (.wprn24 g b s) := fun h => nomatch h
theorem wprn48 (g b s : Nat) : Statement (.wprn48 g b s) := fun h => nomatch h
theorem tmma (g t s a : Nat) : Statement (.tmma g t s a) := fun h => nomatch h
theorem ccp (g t fl a b : Nat) : Statement (.ccp g t fl a b) := fun h => nomatch h
theorem cnd (g t fl a b : Nat) : Statement (.cnd g t fl a b) := fun h => nomatch h
theorem cgat (g t fl a b : Nat) : Statement (.cgat g t fl a b) := fun h => nomatch h
theorem csct (g t fl a b : Nat) : Statement (.csct g t fl a b) := fun h => nomatch h
theorem cwb (g t fl a b : Nat) : Statement (.cwb g t fl a b) := fun h => nomatch h
theorem cfill (g t fl a b : Nat) : Statement (.cfill g t fl a b) := fun h => nomatch h
theorem cred (g t fl a b : Nat) : Statement (.cred g t fl a b) := fun h => nomatch h
theorem csig (g t fl a b : Nat) : Statement (.csig g t fl a b) := fun h => nomatch h
theorem chbind (g d c : Nat) : Statement (.chbind g d c) := fun h => nomatch h
theorem chbindUnbind (g d : Nat) : Statement (.chbindUnbind g d) := fun h => nomatch h
theorem csnd (g c a : Nat) : Statement (.csnd g c a) := fun h => nomatch h
theorem crcv (g d c : Nat) : Statement (.crcv g d c) := fun h => nomatch h
theorem crad (g d c : Nat) : Statement (.crad g d c) := fun h => nomatch h
theorem fld (g a : Nat) : Statement (.fld g a) := fun h => nomatch h
theorem fst (g a b : Nat) : Statement (.fst g a b) := fun h => nomatch h
theorem famoAdd (g a b : Nat) : Statement (.famoAdd g a b) := fun h => nomatch h
theorem famoMax (g a b : Nat) : Statement (.famoMax g a b) := fun h => nomatch h
theorem famoOr (g a b : Nat) : Statement (.famoOr g a b) := fun h => nomatch h
theorem famoSwap (g a b : Nat) : Statement (.famoSwap g a b) := fun h => nomatch h
theorem xar (g t fl a b : Nat) : Statement (.xar g t fl a b) := fun h => nomatch h
theorem xrs (g t fl a b : Nat) : Statement (.xrs g t fl a b) := fun h => nomatch h
theorem xag (g t fl a b : Nat) : Statement (.xag g t fl a b) := fun h => nomatch h
theorem xbc (g t fl a b : Nat) : Statement (.xbc g t fl a b) := fun h => nomatch h
theorem xmrg (g t fl a b : Nat) : Statement (.xmrg g t fl a b) := fun h => nomatch h
theorem xred (g t fl a b : Nat) : Statement (.xred g t fl a b) := fun h => nomatch h
theorem xbar (g t fl a b : Nat) : Statement (.xbar g t fl a b) := fun h => nomatch h
theorem qldW (g a b : Nat) : Statement (.qldW g a b) := fun h => nomatch h
theorem qldH (g a b : Nat) : Statement (.qldH g a b) := fun h => nomatch h
theorem qldB (g a b : Nat) : Statement (.qldB g a b) := fun h => nomatch h
theorem qstW (g d a b : Nat) : Statement (.qstW g d a b) := fun h => nomatch h
theorem qstH (g d a b : Nat) : Statement (.qstH g d a b) := fun h => nomatch h
theorem qstB (g d a b : Nat) : Statement (.qstB g d a b) := fun h => nomatch h
theorem amoAdd (g a b : Nat) : Statement (.amoAdd g a b) := fun h => nomatch h
theorem amoAnd (g a b : Nat) : Statement (.amoAnd g a b) := fun h => nomatch h
theorem amoOr (g a b : Nat) : Statement (.amoOr g a b) := fun h => nomatch h
theorem amoXor (g a b : Nat) : Statement (.amoXor g a b) := fun h => nomatch h
theorem amoMin (g a b : Nat) : Statement (.amoMin g a b) := fun h => nomatch h
theorem amoMax (g a b : Nat) : Statement (.amoMax g a b) := fun h => nomatch h
theorem amoMinu (g a b : Nat) : Statement (.amoMinu g a b) := fun h => nomatch h
theorem amoMaxu (g a b : Nat) : Statement (.amoMaxu g a b) := fun h => nomatch h
theorem amoSwap (g a b : Nat) : Statement (.amoSwap g a b) := fun h => nomatch h
theorem amoCas (g d a b : Nat) : Statement (.amoCas g d a b) := fun h => nomatch h
theorem rwlRd (g a : Nat) : Statement (.rwlRd g a) := fun h => nomatch h
theorem rwlWr (g a : Nat) : Statement (.rwlWr g a) := fun h => nomatch h
theorem rwlRu (g a : Nat) : Statement (.rwlRu g a) := fun h => nomatch h
theorem rwlWu (g a : Nat) : Statement (.rwlWu g a) := fun h => nomatch h
theorem waita (g a b : Nat) : Statement (.waita g a b) := fun h => nomatch h
theorem waitc (g a b : Nat) : Statement (.waitc g a b) := fun h => nomatch h
theorem nop : Statement .nop := fun _ => rfl
theorem vjoin : Statement .vjoin := fun _ => rfl
theorem asyncFaultDelivery : Statement .asyncFaultDelivery := fun _ => rfl
theorem resultLanding : Statement .resultLanding := fun _ => rfl
theorem slipService : Statement .slipService := fun _ => rfl
theorem translationAnswer : Statement .translationAnswer := fun _ => rfl
theorem overlayFill : Statement .overlayFill := fun _ => rfl
theorem holdExpiry : Statement .holdExpiry := fun _ => rfl
theorem cycleAllowanceExpiry : Statement .cycleAllowanceExpiry := fun _ => rfl
theorem gsyncLineGrant : Statement .gsyncLineGrant := fun _ => rfl
theorem gsyncEpisodeComplete : Statement .gsyncEpisodeComplete := fun _ => rfl
theorem rebase : Statement .rebase := fun _ => rfl
theorem rebaseDone : Statement .rebaseDone := fun _ => rfl
theorem queuedAccessAtHome : Statement .queuedAccessAtHome := fun _ => rfl
theorem queuedResultReturn : Statement .queuedResultReturn := fun _ => rfl
theorem queuedStorePerformed : Statement .queuedStorePerformed := fun _ => rfl
theorem mOpStart : Statement .mOpStart := fun _ => rfl
theorem passStart : Statement .passStart := fun _ => rfl
theorem passLanding : Statement .passLanding := fun _ => rfl
theorem tileRowTransfer : Statement .tileRowTransfer := fun _ => rfl
theorem mOpComplete : Statement .mOpComplete := fun _ => rfl
theorem commandStart : Statement .commandStart := fun _ => rfl
theorem workSteal : Statement .workSteal := fun _ => rfl
theorem commandBlockStep : Statement .commandBlockStep := fun _ => rfl
theorem commandComplete : Statement .commandComplete := fun _ => rfl
theorem channelMessageArrival : Statement .channelMessageArrival := fun _ => rfl
theorem channelCreditReturn : Statement .channelCreditReturn := fun _ => rfl
theorem heldRelease : Statement .heldRelease := fun _ => rfl
theorem coreFreed : Statement .coreFreed := fun _ => rfl
theorem arm : Statement .arm := fun _ => rfl
theorem launchAccept : Statement .launchAccept := fun _ => rfl
theorem nodeArrival : Statement .nodeArrival := fun _ => rfl
theorem taskDispatch : Statement .taskDispatch := fun _ => rfl
theorem taskAging : Statement .taskAging := fun _ => rfl
theorem preemptionSaved : Statement .preemptionSaved := fun _ => rfl
theorem foldComplete : Statement .foldComplete := fun _ => rfl
theorem foldCleanupDone : Statement .foldCleanupDone := fun _ => rfl
theorem endDetectionSample : Statement .endDetectionSample := fun _ => rfl
theorem hangWatchdogExpiry : Statement .hangWatchdogExpiry := fun _ => rfl
theorem meshFlitHop : Statement .meshFlitHop := fun _ => rfl
theorem calendarOwnershipChange : Statement .calendarOwnershipChange := fun _ => rfl
theorem ucieAdapterForward : Statement .ucieAdapterForward := fun _ => rfl
theorem linkPacketSend : Statement .linkPacketSend := fun _ => rfl
theorem linkPacketReceive : Statement .linkPacketReceive := fun _ => rfl
theorem ack : Statement .ack := fun _ => rfl
theorem nak : Statement .nak := fun _ => rfl
theorem ackTimerExpiry : Statement .ackTimerExpiry := fun _ => rfl
theorem replayTimeout : Statement .replayTimeout := fun _ => rfl
theorem laneFailure : Statement .laneFailure := fun _ => rfl
theorem retrainDone : Statement .retrainDone := fun _ => rfl
theorem trainingRetry : Statement .trainingRetry := fun _ => rfl
theorem remoteWrite : Statement .remoteWrite := fun _ => rfl
theorem readRequest : Statement .readRequest := fun _ => rfl
theorem readResponse : Statement .readResponse := fun _ => rfl
theorem atomicRequest : Statement .atomicRequest := fun _ => rfl
theorem atomicResponse : Statement .atomicResponse := fun _ => rfl
theorem writeDone : Statement .writeDone := fun _ => rfl
theorem negativeAcknowledgement : Statement .negativeAcknowledgement := fun _ => rfl
theorem collectiveContribution : Statement .collectiveContribution := fun _ => rfl
theorem reductionSlotExpiry : Statement .reductionSlotExpiry := fun _ => rfl
theorem collectiveResult : Statement .collectiveResult := fun _ => rfl
theorem mismatchNotice : Statement .mismatchNotice := fun _ => rfl
theorem generationFlip : Statement .generationFlip := fun _ => rfl
theorem oldGenerationCount : Statement .oldGenerationCount := fun _ => rfl
theorem time : Statement .time := fun _ => rfl
theorem rotaBoundary : Statement .rotaBoundary := fun _ => rfl
theorem rotaColumnApply : Statement .rotaColumnApply := fun _ => rfl
theorem prepare : Statement .prepare := fun _ => rfl
theorem ready : Statement .ready := fun _ => rfl
theorem refuse : Statement .refuse := fun _ => rfl
theorem sample : Statement .sample := fun _ => rfl
theorem counts : Statement .counts := fun _ => rfl
theorem capture : Statement .capture := fun _ => rfl
theorem commit : Statement .commit := fun _ => rfl
theorem abort : Statement .abort := fun _ => rfl
theorem done : Statement .done := fun _ => rfl
theorem kfull : Statement .kfull := fun _ => rfl
theorem voteReplyTimeout : Statement .voteReplyTimeout := fun _ => rfl
theorem sampleTimer : Statement .sampleTimer := fun _ => rfl
theorem drainTimeout : Statement .drainTimeout := fun _ => rfl
theorem captureTimeout : Statement .captureTimeout := fun _ => rfl
theorem voteRetry : Statement .voteRetry := fun _ => rfl
theorem kennelReinject : Statement .kennelReinject := fun _ => rfl
theorem exchangeComplete : Statement .exchangeComplete := fun _ => rfl
theorem coreset : Statement .coreset := fun _ => rfl
theorem shrink : Statement .shrink := fun _ => rfl
theorem shrinkComplete : Statement .shrinkComplete := fun _ => rfl
theorem shrinkHandlerTimeout : Statement .shrinkHandlerTimeout := fun _ => rfl
theorem teardown : Statement .teardown := fun _ => rfl
theorem rdmaWrite : Statement .rdmaWrite := fun _ => rfl
theorem rdmaRead : Statement .rdmaRead := fun _ => rfl
theorem atomicCmpSwap : Statement .atomicCmpSwap := fun _ => rfl
theorem atomicFetchAdd : Statement .atomicFetchAdd := fun _ => rfl
theorem unsupportedRequest : Statement .unsupportedRequest := fun _ => rfl
theorem hostSignalPost : Statement .hostSignalPost := fun _ => rfl
theorem inval : Statement .inval := fun _ => rfl
theorem invalidationComplete : Statement .invalidationComplete := fun _ => rfl
theorem ovlflush : Statement .ovlflush := fun _ => rfl
theorem drainmax : Statement .drainmax := fun _ => rfl
theorem routeTableWrite : Statement .routeTableWrite := fun _ => rfl
theorem attest : Statement .attest := fun _ => rfl
theorem hubRegisterWrite : Statement .hubRegisterWrite := fun _ => rfl
theorem imageRegistration : Statement .imageRegistration := fun _ => rfl
theorem singleBitError : Statement .singleBitError := fun _ => rfl
theorem uncorrectableError : Statement .uncorrectableError := fun _ => rfl
theorem packageReset : Statement .packageReset := fun _ => rfl
theorem selfTestPass : Statement .selfTestPass := fun _ => rfl
theorem thermalTrip : Statement .thermalTrip := fun _ => rfl
theorem lstatGoodWrite : Statement .lstatGoodWrite := fun _ => rfl
theorem vcCreditReturn : Statement .vcCreditReturn := fun _ => rfl

end Sys2Proof.Laws.NoExtension
end

