-- ==== Sys2Proof/Laws/State.lean ====
section
/-! SUPPORT. What each update of the state does to each field: one lemma per field per update, by computation. -/

namespace Sys2Proof.Machine


/-! ### The core whose turn it is -/

@[simp] theorem State.updCore_core (s : State) (f : Core → Core) : (s.updCore f).core = f s.core := rfl
@[simp] theorem State.updCore_todo (s : State) (f : Core → Core) : (s.updCore f).todo = s.todo := rfl
@[simp] theorem State.updCore_done (s : State) (f : Core → Core) : (s.updCore f).done = s.done := rfl
@[simp] theorem State.updCore_pkg (s : State) (f : Core → Core) : (s.updCore f).pkg = s.pkg := rfl
@[simp] theorem State.updCore_agenda (s : State) (f : Core → Core) : (s.updCore f).agenda = s.agenda := rfl
@[simp] theorem State.updCore_ev (s : State) (f : Core → Core) : (s.updCore f).ev = s.ev := rfl
@[simp] theorem State.updCore_choice (s : State) (f : Core → Core) : (s.updCore f).choice = s.choice := rfl
@[simp] theorem State.updCore_turned (s : State) (f : Core → Core) : (s.updCore f).turned = s.turned := rfl

/-! ### Its thread -/

@[simp] theorem State.updTh_todo (s : State) (f : Thread → Thread) : (s.updTh f).todo = s.todo := rfl
@[simp] theorem State.updTh_done (s : State) (f : Thread → Thread) : (s.updTh f).done = s.done := rfl
@[simp] theorem State.updTh_pkg (s : State) (f : Thread → Thread) : (s.updTh f).pkg = s.pkg := rfl
@[simp] theorem State.updTh_agenda (s : State) (f : Thread → Thread) : (s.updTh f).agenda = s.agenda := rfl
@[simp] theorem State.updTh_ev (s : State) (f : Thread → Thread) : (s.updTh f).ev = s.ev := rfl
@[simp] theorem State.updTh_choice (s : State) (f : Thread → Thread) : (s.updTh f).choice = s.choice := rfl
@[simp] theorem State.updTh_turned (s : State) (f : Thread → Thread) : (s.updTh f).turned = s.turned := rfl
@[simp] theorem State.updTh_core_num (s : State) (f : Thread → Thread) : (s.updTh f).core.num = s.core.num := rfl
@[simp] theorem State.updTh_core_phase (s : State) (f : Thread → Thread) : (s.updTh f).core.phase = s.core.phase := rfl
@[simp] theorem State.updTh_core_th (s : State) (f : Thread → Thread) : (s.updTh f).core.th = f s.core.th := rfl
@[simp] theorem State.updTh_core_spad (s : State) (f : Thread → Thread) : (s.updTh f).core.spad = s.core.spad := rfl
@[simp] theorem State.updTh_core_acc (s : State) (f : Thread → Thread) : (s.updTh f).core.acc = s.core.acc := rfl
@[simp] theorem State.updTh_core_tmode (s : State) (f : Thread → Thread) : (s.updTh f).core.tmode = s.core.tmode := rfl
@[simp] theorem State.updTh_core_tpoison (s : State) (f : Thread → Thread) : (s.updTh f).core.tpoison = s.core.tpoison := rfl
@[simp] theorem State.updTh_core_wb (s : State) (f : Thread → Thread) : (s.updTh f).core.wb = s.core.wb := rfl
@[simp] theorem State.updTh_core_wpoison (s : State) (f : Thread → Thread) : (s.updTh f).core.wpoison = s.core.wpoison := rfl
@[simp] theorem State.updTh_core_owner (s : State) (f : Thread → Thread) : (s.updTh f).core.owner = s.core.owner := rfl
@[simp] theorem State.updTh_core_exch (s : State) (f : Thread → Thread) : (s.updTh f).core.exch = s.core.exch := rfl
@[simp] theorem State.updTh_core_overlays (s : State) (f : Thread → Thread) : (s.updTh f).core.overlays = s.core.overlays := rfl
@[simp] theorem State.updTh_core_l1 (s : State) (f : Thread → Thread) : (s.updTh f).core.l1 = s.core.l1 := rfl
@[simp] theorem State.updTh_core_utlb (s : State) (f : Thread → Thread) : (s.updTh f).core.utlb = s.core.utlb := rfl
@[simp] theorem State.updTh_core_xreq (s : State) (f : Thread → Thread) : (s.updTh f).core.xreq = s.core.xreq := rfl
@[simp] theorem State.updTh_core_xans (s : State) (f : Thread → Thread) : (s.updTh f).core.xans = s.core.xans := rfl
@[simp] theorem State.updTh_core_fillBad (s : State) (f : Thread → Thread) : (s.updTh f).core.fillBad = s.core.fillBad := rfl
@[simp] theorem State.updTh_core_banks (s : State) (f : Thread → Thread) : (s.updTh f).core.banks = s.core.banks := rfl
@[simp] theorem State.updTh_core_linOld (s : State) (f : Thread → Thread) : (s.updTh f).core.linOld = s.core.linOld := rfl
@[simp] theorem State.updTh_core_swzOld (s : State) (f : Thread → Thread) : (s.updTh f).core.swzOld = s.core.swzOld := rfl
@[simp] theorem State.updTh_core_qacc (s : State) (f : Thread → Thread) : (s.updTh f).core.qacc = s.core.qacc := rfl
@[simp] theorem State.updTh_core_qack (s : State) (f : Thread → Thread) : (s.updTh f).core.qack = s.core.qack := rfl
@[simp] theorem State.updTh_core_env (s : State) (f : Thread → Thread) : (s.updTh f).core.env = s.core.env := rfl
@[simp] theorem State.updTh_core_issue (s : State) (f : Thread → Thread) : (s.updTh f).core.issue = s.core.issue := rfl

/-! ### The package -/

@[simp] theorem State.updPkg_core (s : State) (f : Package → Package) : (s.updPkg f).core = s.core := rfl
@[simp] theorem State.updPkg_todo (s : State) (f : Package → Package) : (s.updPkg f).todo = s.todo := rfl
@[simp] theorem State.updPkg_done (s : State) (f : Package → Package) : (s.updPkg f).done = s.done := rfl
@[simp] theorem State.updPkg_pkg (s : State) (f : Package → Package) : (s.updPkg f).pkg = f s.pkg := rfl
@[simp] theorem State.updPkg_agenda (s : State) (f : Package → Package) : (s.updPkg f).agenda = s.agenda := rfl
@[simp] theorem State.updPkg_ev (s : State) (f : Package → Package) : (s.updPkg f).ev = s.ev := rfl
@[simp] theorem State.updPkg_choice (s : State) (f : Package → Package) : (s.updPkg f).choice = s.choice := rfl
@[simp] theorem State.updPkg_turned (s : State) (f : Package → Package) : (s.updPkg f).turned = s.turned := rfl

/-! ### What became of the slot -/

@[simp] theorem State.mark_todo (s : State) (i : Issue) : (s.mark i).todo = s.todo := rfl
@[simp] theorem State.mark_done (s : State) (i : Issue) : (s.mark i).done = s.done := rfl
@[simp] theorem State.mark_pkg (s : State) (i : Issue) : (s.mark i).pkg = s.pkg := rfl
@[simp] theorem State.mark_agenda (s : State) (i : Issue) : (s.mark i).agenda = s.agenda := rfl
@[simp] theorem State.mark_ev (s : State) (i : Issue) : (s.mark i).ev = s.ev := rfl
@[simp] theorem State.mark_choice (s : State) (i : Issue) : (s.mark i).choice = s.choice := rfl
@[simp] theorem State.mark_turned (s : State) (i : Issue) : (s.mark i).turned = s.turned := rfl
@[simp] theorem State.mark_core_num (s : State) (i : Issue) : (s.mark i).core.num = s.core.num := rfl
@[simp] theorem State.mark_core_phase (s : State) (i : Issue) : (s.mark i).core.phase = s.core.phase := rfl
@[simp] theorem State.mark_core_th (s : State) (i : Issue) : (s.mark i).core.th = s.core.th := rfl
@[simp] theorem State.mark_core_spad (s : State) (i : Issue) : (s.mark i).core.spad = s.core.spad := rfl
@[simp] theorem State.mark_core_acc (s : State) (i : Issue) : (s.mark i).core.acc = s.core.acc := rfl
@[simp] theorem State.mark_core_tmode (s : State) (i : Issue) : (s.mark i).core.tmode = s.core.tmode := rfl
@[simp] theorem State.mark_core_tpoison (s : State) (i : Issue) : (s.mark i).core.tpoison = s.core.tpoison := rfl
@[simp] theorem State.mark_core_wb (s : State) (i : Issue) : (s.mark i).core.wb = s.core.wb := rfl
@[simp] theorem State.mark_core_wpoison (s : State) (i : Issue) : (s.mark i).core.wpoison = s.core.wpoison := rfl
@[simp] theorem State.mark_core_owner (s : State) (i : Issue) : (s.mark i).core.owner = s.core.owner := rfl
@[simp] theorem State.mark_core_exch (s : State) (i : Issue) : (s.mark i).core.exch = s.core.exch := rfl
@[simp] theorem State.mark_core_overlays (s : State) (i : Issue) : (s.mark i).core.overlays = s.core.overlays := rfl
@[simp] theorem State.mark_core_l1 (s : State) (i : Issue) : (s.mark i).core.l1 = s.core.l1 := rfl
@[simp] theorem State.mark_core_utlb (s : State) (i : Issue) : (s.mark i).core.utlb = s.core.utlb := rfl
@[simp] theorem State.mark_core_xreq (s : State) (i : Issue) : (s.mark i).core.xreq = s.core.xreq := rfl
@[simp] theorem State.mark_core_xans (s : State) (i : Issue) : (s.mark i).core.xans = s.core.xans := rfl
@[simp] theorem State.mark_core_fillBad (s : State) (i : Issue) : (s.mark i).core.fillBad = s.core.fillBad := rfl
@[simp] theorem State.mark_core_banks (s : State) (i : Issue) : (s.mark i).core.banks = s.core.banks := rfl
@[simp] theorem State.mark_core_linOld (s : State) (i : Issue) : (s.mark i).core.linOld = s.core.linOld := rfl
@[simp] theorem State.mark_core_swzOld (s : State) (i : Issue) : (s.mark i).core.swzOld = s.core.swzOld := rfl
@[simp] theorem State.mark_core_qacc (s : State) (i : Issue) : (s.mark i).core.qacc = s.core.qacc := rfl
@[simp] theorem State.mark_core_qack (s : State) (i : Issue) : (s.mark i).core.qack = s.core.qack := rfl
@[simp] theorem State.mark_core_env (s : State) (i : Issue) : (s.mark i).core.env = s.core.env := rfl
@[simp] theorem State.mark_core_issue (s : State) (i : Issue) : (s.mark i).core.issue = i := rfl

/-! ### A result in flight (R204) -/

@[simp] theorem State.result_todo (s : State) (lat : Nat) (g : Flags) (d : Dest) : (s.result lat g d).todo = s.todo := rfl
@[simp] theorem State.result_done (s : State) (lat : Nat) (g : Flags) (d : Dest) : (s.result lat g d).done = s.done := rfl
@[simp] theorem State.result_pkg (s : State) (lat : Nat) (g : Flags) (d : Dest) : (s.result lat g d).pkg = s.pkg := rfl
@[simp] theorem State.result_agenda (s : State) (lat : Nat) (g : Flags) (d : Dest) : (s.result lat g d).agenda = s.agenda := rfl
@[simp] theorem State.result_ev (s : State) (lat : Nat) (g : Flags) (d : Dest) : (s.result lat g d).ev = s.ev := rfl
@[simp] theorem State.result_choice (s : State) (lat : Nat) (g : Flags) (d : Dest) : (s.result lat g d).choice = s.choice := rfl
@[simp] theorem State.result_turned (s : State) (lat : Nat) (g : Flags) (d : Dest) : (s.result lat g d).turned = s.turned := rfl
@[simp] theorem State.result_core_num (s : State) (lat : Nat) (g : Flags) (d : Dest) : (s.result lat g d).core.num = s.core.num := rfl
@[simp] theorem State.result_core_phase (s : State) (lat : Nat) (g : Flags) (d : Dest) : (s.result lat g d).core.phase = s.core.phase := rfl
@[simp] theorem State.result_core_spad (s : State) (lat : Nat) (g : Flags) (d : Dest) : (s.result lat g d).core.spad = s.core.spad := rfl
@[simp] theorem State.result_core_acc (s : State) (lat : Nat) (g : Flags) (d : Dest) : (s.result lat g d).core.acc = s.core.acc := rfl
@[simp] theorem State.result_core_tmode (s : State) (lat : Nat) (g : Flags) (d : Dest) : (s.result lat g d).core.tmode = s.core.tmode := rfl
@[simp] theorem State.result_core_tpoison (s : State) (lat : Nat) (g : Flags) (d : Dest) : (s.result lat g d).core.tpoison = s.core.tpoison := rfl
@[simp] theorem State.result_core_wb (s : State) (lat : Nat) (g : Flags) (d : Dest) : (s.result lat g d).core.wb = s.core.wb := rfl
@[simp] theorem State.result_core_wpoison (s : State) (lat : Nat) (g : Flags) (d : Dest) : (s.result lat g d).core.wpoison = s.core.wpoison := rfl
@[simp] theorem State.result_core_owner (s : State) (lat : Nat) (g : Flags) (d : Dest) : (s.result lat g d).core.owner = s.core.owner := rfl
@[simp] theorem State.result_core_exch (s : State) (lat : Nat) (g : Flags) (d : Dest) : (s.result lat g d).core.exch = s.core.exch := rfl
@[simp] theorem State.result_core_overlays (s : State) (lat : Nat) (g : Flags) (d : Dest) : (s.result lat g d).core.overlays = s.core.overlays := rfl
@[simp] theorem State.result_core_l1 (s : State) (lat : Nat) (g : Flags) (d : Dest) : (s.result lat g d).core.l1 = s.core.l1 := rfl
@[simp] theorem State.result_core_utlb (s : State) (lat : Nat) (g : Flags) (d : Dest) : (s.result lat g d).core.utlb = s.core.utlb := rfl
@[simp] theorem State.result_core_xreq (s : State) (lat : Nat) (g : Flags) (d : Dest) : (s.result lat g d).core.xreq = s.core.xreq := rfl
@[simp] theorem State.result_core_xans (s : State) (lat : Nat) (g : Flags) (d : Dest) : (s.result lat g d).core.xans = s.core.xans := rfl
@[simp] theorem State.result_core_fillBad (s : State) (lat : Nat) (g : Flags) (d : Dest) : (s.result lat g d).core.fillBad = s.core.fillBad := rfl
@[simp] theorem State.result_core_banks (s : State) (lat : Nat) (g : Flags) (d : Dest) : (s.result lat g d).core.banks = s.core.banks := rfl
@[simp] theorem State.result_core_linOld (s : State) (lat : Nat) (g : Flags) (d : Dest) : (s.result lat g d).core.linOld = s.core.linOld := rfl
@[simp] theorem State.result_core_swzOld (s : State) (lat : Nat) (g : Flags) (d : Dest) : (s.result lat g d).core.swzOld = s.core.swzOld := rfl
@[simp] theorem State.result_core_qacc (s : State) (lat : Nat) (g : Flags) (d : Dest) : (s.result lat g d).core.qacc = s.core.qacc := rfl
@[simp] theorem State.result_core_qack (s : State) (lat : Nat) (g : Flags) (d : Dest) : (s.result lat g d).core.qack = s.core.qack := rfl
@[simp] theorem State.result_core_env (s : State) (lat : Nat) (g : Flags) (d : Dest) : (s.result lat g d).core.env = s.core.env := rfl
@[simp] theorem State.result_core_issue (s : State) (lat : Nat) (g : Flags) (d : Dest) : (s.result lat g d).core.issue = s.core.issue := rfl
@[simp] theorem State.result_th_tid (s : State) (lat : Nat) (g : Flags) (d : Dest) : (s.result lat g d).core.th.tid = s.core.th.tid := rfl
@[simp] theorem State.result_th_core (s : State) (lat : Nat) (g : Flags) (d : Dest) : (s.result lat g d).core.th.core = s.core.th.core := rfl
@[simp] theorem State.result_th_task (s : State) (lat : Nat) (g : Flags) (d : Dest) : (s.result lat g d).core.th.task = s.core.th.task := rfl
@[simp] theorem State.result_th_mode (s : State) (lat : Nat) (g : Flags) (d : Dest) : (s.result lat g d).core.th.mode = s.core.th.mode := rfl
@[simp] theorem State.result_th_pc (s : State) (lat : Nat) (g : Flags) (d : Dest) : (s.result lat g d).core.th.pc = s.core.th.pc := rfl
@[simp] theorem State.result_th_bubble (s : State) (lat : Nat) (g : Flags) (d : Dest) : (s.result lat g d).core.th.bubble = s.core.th.bubble := rfl
@[simp] theorem State.result_th_frozen (s : State) (lat : Nat) (g : Flags) (d : Dest) : (s.result lat g d).core.th.frozen = s.core.th.frozen := rfl
@[simp] theorem State.result_th_restartAt (s : State) (lat : Nat) (g : Flags) (d : Dest) : (s.result lat g d).core.th.restartAt = s.core.th.restartAt := rfl
@[simp] theorem State.result_th_bseq (s : State) (lat : Nat) (g : Flags) (d : Dest) : (s.result lat g d).core.th.bseq = s.core.th.bseq := rfl
@[simp] theorem State.result_th_begun (s : State) (lat : Nat) (g : Flags) (d : Dest) : (s.result lat g d).core.th.begun = s.core.th.begun := rfl
@[simp] theorem State.result_th_x (s : State) (lat : Nat) (g : Flags) (d : Dest) : (s.result lat g d).core.th.x = s.core.th.x := rfl
@[simp] theorem State.result_th_v (s : State) (lat : Nat) (g : Flags) (d : Dest) : (s.result lat g d).core.th.v = s.core.th.v := rfl
@[simp] theorem State.result_th_p (s : State) (lat : Nat) (g : Flags) (d : Dest) : (s.result lat g d).core.th.p = s.core.th.p := rfl
@[simp] theorem State.result_th_csr (s : State) (lat : Nat) (g : Flags) (d : Dest) : (s.result lat g d).core.th.csr = s.core.th.csr := rfl
@[simp] theorem State.result_th_holdCnt (s : State) (lat : Nat) (g : Flags) (d : Dest) : (s.result lat g d).core.th.holdCnt = s.core.th.holdCnt := rfl
@[simp] theorem State.result_th_tlatch (s : State) (lat : Nat) (g : Flags) (d : Dest) : (s.result lat g d).core.th.tlatch = s.core.th.tlatch := rfl
@[simp] theorem State.result_th_scale (s : State) (lat : Nat) (g : Flags) (d : Dest) : (s.result lat g d).core.th.scale = s.core.th.scale := rfl
@[simp] theorem State.result_th_scaleV (s : State) (lat : Nat) (g : Flags) (d : Dest) : (s.result lat g d).core.th.scaleV = s.core.th.scaleV := rfl
@[simp] theorem State.result_th_shadow (s : State) (lat : Nat) (g : Flags) (d : Dest) : (s.result lat g d).core.th.shadow = s.core.th.shadow := rfl
@[simp] theorem State.result_th_tags (s : State) (lat : Nat) (g : Flags) (d : Dest) : (s.result lat g d).core.th.tags = s.core.th.tags := rfl
@[simp] theorem State.result_th_binds (s : State) (lat : Nat) (g : Flags) (d : Dest) : (s.result lat g d).core.th.binds = s.core.th.binds := rfl
@[simp] theorem State.result_inflight (s : State) (lat : Nat) (g : Flags) (d : Dest) :
    (s.result lat g d).core.th.inflight = s.core.th.inflight ++
      [{ remain := lat, seq := s.core.env.seq, flg := g, pend := s.core.env.served.isSome, dest := d }] := rfl
@[simp] theorem State.result_th_slips (s : State) (lat : Nat) (g : Flags) (d : Dest) : (s.result lat g d).core.th.slips = s.core.th.slips := rfl
@[simp] theorem State.result_th_lq (s : State) (lat : Nat) (g : Flags) (d : Dest) : (s.result lat g d).core.th.lq = s.core.th.lq := rfl
@[simp] theorem State.result_th_lqPend (s : State) (lat : Nat) (g : Flags) (d : Dest) : (s.result lat g d).core.th.lqPend = s.core.th.lqPend := rfl
@[simp] theorem State.result_th_vq (s : State) (lat : Nat) (g : Flags) (d : Dest) : (s.result lat g d).core.th.vq = s.core.th.vq := rfl
@[simp] theorem State.result_th_vqPend (s : State) (lat : Nat) (g : Flags) (d : Dest) : (s.result lat g d).core.th.vqPend = s.core.th.vqPend := rfl
@[simp] theorem State.result_th_qid (s : State) (lat : Nat) (g : Flags) (d : Dest) : (s.result lat g d).core.th.qid = s.core.th.qid := rfl
@[simp] theorem State.result_th_vjq (s : State) (lat : Nat) (g : Flags) (d : Dest) : (s.result lat g d).core.th.vjq = s.core.th.vjq := rfl
@[simp] theorem State.result_th_cbuf (s : State) (lat : Nat) (g : Flags) (d : Dest) : (s.result lat g d).core.th.cbuf = s.core.th.cbuf := rfl
@[simp] theorem State.result_th_cref (s : State) (lat : Nat) (g : Flags) (d : Dest) : (s.result lat g d).core.th.cref = s.core.th.cref := rfl
@[simp] theorem State.result_th_mq (s : State) (lat : Nat) (g : Flags) (d : Dest) : (s.result lat g d).core.th.mq = s.core.th.mq := rfl
@[simp] theorem State.result_th_holdq (s : State) (lat : Nat) (g : Flags) (d : Dest) : (s.result lat g d).core.th.holdq = s.core.th.holdq := rfl
@[simp] theorem State.result_th_left (s : State) (lat : Nat) (g : Flags) (d : Dest) : (s.result lat g d).core.th.left = s.core.th.left := rfl
@[simp] theorem State.result_th_limited (s : State) (lat : Nat) (g : Flags) (d : Dest) : (s.result lat g d).core.th.limited = s.core.th.limited := rfl
@[simp] theorem State.result_th_spent (s : State) (lat : Nat) (g : Flags) (d : Dest) : (s.result lat g d).core.th.spent = s.core.th.spent := rfl
@[simp] theorem State.result_th_recs (s : State) (lat : Nat) (g : Flags) (d : Dest) : (s.result lat g d).core.th.recs = s.core.th.recs := rfl
@[simp] theorem State.result_th_pendF (s : State) (lat : Nat) (g : Flags) (d : Dest) : (s.result lat g d).core.th.pendF = s.core.th.pendF := rfl
@[simp] theorem State.result_th_reported (s : State) (lat : Nat) (g : Flags) (d : Dest) : (s.result lat g d).core.th.reported = s.core.th.reported := rfl
@[simp] theorem State.result_th_lost (s : State) (lat : Nat) (g : Flags) (d : Dest) : (s.result lat g d).core.th.lost = s.core.th.lost := rfl
@[simp] theorem State.result_th_snap (s : State) (lat : Nat) (g : Flags) (d : Dest) : (s.result lat g d).core.th.snap = s.core.th.snap := rfl
@[simp] theorem State.result_th_waitG (s : State) (lat : Nat) (g : Flags) (d : Dest) : (s.result lat g d).core.th.waitG = s.core.th.waitG := rfl
@[simp] theorem State.result_th_arrived (s : State) (lat : Nat) (g : Flags) (d : Dest) : (s.result lat g d).core.th.arrived = s.core.th.arrived := rfl
@[simp] theorem State.result_th_rpoison (s : State) (lat : Nat) (g : Flags) (d : Dest) : (s.result lat g d).core.th.rpoison = s.core.th.rpoison := rfl
@[simp] theorem State.result_th_was (s : State) (lat : Nat) (g : Flags) (d : Dest) : (s.result lat g d).core.th.was = s.core.th.was := rfl
@[simp] theorem State.result_th_wrote (s : State) (lat : Nat) (g : Flags) (d : Dest) : (s.result lat g d).core.th.wrote = s.core.th.wrote := rfl

/-! ### Partitions, contexts, links, and what leaves the package -/

@[simp] theorem State.updPart_core (s : State) (p : Nat) (f : Partition → Partition) : (s.updPart p f).core = s.core := rfl
@[simp] theorem State.updCtx_core (s : State) (p c : Nat) (f : Ctx → Ctx) : (s.updCtx p c f).core = s.core := rfl
@[simp] theorem State.updLink_core (s : State) (l : Nat) (f : Link → Link) : (s.updLink l f).core = s.core := rfl
@[simp] theorem State.emit_core (s : State) (x : Out) : (s.emit x).core = s.core := rfl
@[simp] theorem State.updPart_todo (s : State) (p : Nat) (f : Partition → Partition) : (s.updPart p f).todo = s.todo := rfl
@[simp] theorem State.updCtx_todo (s : State) (p c : Nat) (f : Ctx → Ctx) : (s.updCtx p c f).todo = s.todo := rfl
@[simp] theorem State.updLink_todo (s : State) (l : Nat) (f : Link → Link) : (s.updLink l f).todo = s.todo := rfl
@[simp] theorem State.emit_todo (s : State) (x : Out) : (s.emit x).todo = s.todo := rfl
@[simp] theorem State.updPart_done (s : State) (p : Nat) (f : Partition → Partition) : (s.updPart p f).done = s.done := rfl
@[simp] theorem State.updCtx_done (s : State) (p c : Nat) (f : Ctx → Ctx) : (s.updCtx p c f).done = s.done := rfl
@[simp] theorem State.updLink_done (s : State) (l : Nat) (f : Link → Link) : (s.updLink l f).done = s.done := rfl
@[simp] theorem State.emit_done (s : State) (x : Out) : (s.emit x).done = s.done := rfl
@[simp] theorem State.updPart_agenda (s : State) (p : Nat) (f : Partition → Partition) : (s.updPart p f).agenda = s.agenda := rfl
@[simp] theorem State.updCtx_agenda (s : State) (p c : Nat) (f : Ctx → Ctx) : (s.updCtx p c f).agenda = s.agenda := rfl
@[simp] theorem State.updLink_agenda (s : State) (l : Nat) (f : Link → Link) : (s.updLink l f).agenda = s.agenda := rfl
@[simp] theorem State.emit_agenda (s : State) (x : Out) : (s.emit x).agenda = s.agenda := rfl
@[simp] theorem State.updPart_ev (s : State) (p : Nat) (f : Partition → Partition) : (s.updPart p f).ev = s.ev := rfl
@[simp] theorem State.updCtx_ev (s : State) (p c : Nat) (f : Ctx → Ctx) : (s.updCtx p c f).ev = s.ev := rfl
@[simp] theorem State.updLink_ev (s : State) (l : Nat) (f : Link → Link) : (s.updLink l f).ev = s.ev := rfl
@[simp] theorem State.emit_ev (s : State) (x : Out) : (s.emit x).ev = s.ev := rfl
@[simp] theorem State.updPart_choice (s : State) (p : Nat) (f : Partition → Partition) : (s.updPart p f).choice = s.choice := rfl
@[simp] theorem State.updCtx_choice (s : State) (p c : Nat) (f : Ctx → Ctx) : (s.updCtx p c f).choice = s.choice := rfl
@[simp] theorem State.updLink_choice (s : State) (l : Nat) (f : Link → Link) : (s.updLink l f).choice = s.choice := rfl
@[simp] theorem State.emit_choice (s : State) (x : Out) : (s.emit x).choice = s.choice := rfl
@[simp] theorem State.updPart_turned (s : State) (p : Nat) (f : Partition → Partition) : (s.updPart p f).turned = s.turned := rfl
@[simp] theorem State.updCtx_turned (s : State) (p c : Nat) (f : Ctx → Ctx) : (s.updCtx p c f).turned = s.turned := rfl
@[simp] theorem State.updLink_turned (s : State) (l : Nat) (f : Link → Link) : (s.updLink l f).turned = s.turned := rfl
@[simp] theorem State.emit_turned (s : State) (x : Out) : (s.emit x).turned = s.turned := rfl
@[simp] theorem State.updPart_pkg_time (s : State) (p : Nat) (f : Partition → Partition) : (s.updPart p f).pkg.time = s.pkg.time := rfl
@[simp] theorem State.updCtx_pkg_time (s : State) (p c : Nat) (f : Ctx → Ctx) : (s.updCtx p c f).pkg.time = s.pkg.time := rfl
@[simp] theorem State.updLink_pkg_time (s : State) (l : Nat) (f : Link → Link) : (s.updLink l f).pkg.time = s.pkg.time := rfl
@[simp] theorem State.emit_pkg_time (s : State) (x : Out) : (s.emit x).pkg.time = s.pkg.time := rfl
@[simp] theorem State.updPart_pkg_corrAt (s : State) (p : Nat) (f : Partition → Partition) : (s.updPart p f).pkg.corrAt = s.pkg.corrAt := rfl
@[simp] theorem State.updCtx_pkg_corrAt (s : State) (p c : Nat) (f : Ctx → Ctx) : (s.updCtx p c f).pkg.corrAt = s.pkg.corrAt := rfl
@[simp] theorem State.updLink_pkg_corrAt (s : State) (l : Nat) (f : Link → Link) : (s.updLink l f).pkg.corrAt = s.pkg.corrAt := rfl
@[simp] theorem State.emit_pkg_corrAt (s : State) (x : Out) : (s.emit x).pkg.corrAt = s.pkg.corrAt := rfl
@[simp] theorem State.updPart_pkg_corr (s : State) (p : Nat) (f : Partition → Partition) : (s.updPart p f).pkg.corr = s.pkg.corr := rfl
@[simp] theorem State.updCtx_pkg_corr (s : State) (p c : Nat) (f : Ctx → Ctx) : (s.updCtx p c f).pkg.corr = s.pkg.corr := rfl
@[simp] theorem State.updLink_pkg_corr (s : State) (l : Nat) (f : Link → Link) : (s.updLink l f).pkg.corr = s.pkg.corr := rfl
@[simp] theorem State.emit_pkg_corr (s : State) (x : Out) : (s.emit x).pkg.corr = s.pkg.corr := rfl
@[simp] theorem State.updPart_pkg_held (s : State) (p : Nat) (f : Partition → Partition) : (s.updPart p f).pkg.held = s.pkg.held := rfl
@[simp] theorem State.updCtx_pkg_held (s : State) (p c : Nat) (f : Ctx → Ctx) : (s.updCtx p c f).pkg.held = s.pkg.held := rfl
@[simp] theorem State.updLink_pkg_held (s : State) (l : Nat) (f : Link → Link) : (s.updLink l f).pkg.held = s.pkg.held := rfl
@[simp] theorem State.emit_pkg_held (s : State) (x : Out) : (s.emit x).pkg.held = s.pkg.held := rfl
@[simp] theorem State.updPart_pkg_tripped (s : State) (p : Nat) (f : Partition → Partition) : (s.updPart p f).pkg.tripped = s.pkg.tripped := rfl
@[simp] theorem State.updCtx_pkg_tripped (s : State) (p c : Nat) (f : Ctx → Ctx) : (s.updCtx p c f).pkg.tripped = s.pkg.tripped := rfl
@[simp] theorem State.updLink_pkg_tripped (s : State) (l : Nat) (f : Link → Link) : (s.updLink l f).pkg.tripped = s.pkg.tripped := rfl
@[simp] theorem State.emit_pkg_tripped (s : State) (x : Out) : (s.emit x).pkg.tripped = s.pkg.tripped := rfl
@[simp] theorem State.updPart_pkg_hbm (s : State) (p : Nat) (f : Partition → Partition) : (s.updPart p f).pkg.hbm = s.pkg.hbm := rfl
@[simp] theorem State.updCtx_pkg_hbm (s : State) (p c : Nat) (f : Ctx → Ctx) : (s.updCtx p c f).pkg.hbm = s.pkg.hbm := rfl
@[simp] theorem State.updLink_pkg_hbm (s : State) (l : Nat) (f : Link → Link) : (s.updLink l f).pkg.hbm = s.pkg.hbm := rfl
@[simp] theorem State.emit_pkg_hbm (s : State) (x : Out) : (s.emit x).pkg.hbm = s.pkg.hbm := rfl
@[simp] theorem State.updPart_pkg_lineOf (s : State) (p : Nat) (f : Partition → Partition) : (s.updPart p f).pkg.lineOf = s.pkg.lineOf := rfl
@[simp] theorem State.updCtx_pkg_lineOf (s : State) (p c : Nat) (f : Ctx → Ctx) : (s.updCtx p c f).pkg.lineOf = s.pkg.lineOf := rfl
@[simp] theorem State.updLink_pkg_lineOf (s : State) (l : Nat) (f : Link → Link) : (s.updLink l f).pkg.lineOf = s.pkg.lineOf := rfl
@[simp] theorem State.emit_pkg_lineOf (s : State) (x : Out) : (s.emit x).pkg.lineOf = s.pkg.lineOf := rfl
@[simp] theorem State.updPart_pkg_dstore (s : State) (p : Nat) (f : Partition → Partition) : (s.updPart p f).pkg.dstore = s.pkg.dstore := rfl
@[simp] theorem State.updCtx_pkg_dstore (s : State) (p c : Nat) (f : Ctx → Ctx) : (s.updCtx p c f).pkg.dstore = s.pkg.dstore := rfl
@[simp] theorem State.updLink_pkg_dstore (s : State) (l : Nat) (f : Link → Link) : (s.updLink l f).pkg.dstore = s.pkg.dstore := rfl
@[simp] theorem State.emit_pkg_dstore (s : State) (x : Out) : (s.emit x).pkg.dstore = s.pkg.dstore := rfl
@[simp] theorem State.updPart_pkg_regs (s : State) (p : Nat) (f : Partition → Partition) : (s.updPart p f).pkg.regs = s.pkg.regs := rfl
@[simp] theorem State.updCtx_pkg_regs (s : State) (p c : Nat) (f : Ctx → Ctx) : (s.updCtx p c f).pkg.regs = s.pkg.regs := rfl
@[simp] theorem State.updLink_pkg_regs (s : State) (l : Nat) (f : Link → Link) : (s.updLink l f).pkg.regs = s.pkg.regs := rfl
@[simp] theorem State.emit_pkg_regs (s : State) (x : Out) : (s.emit x).pkg.regs = s.pkg.regs := rfl
@[simp] theorem State.updLink_pkg_parts (s : State) (l : Nat) (f : Link → Link) : (s.updLink l f).pkg.parts = s.pkg.parts := rfl
@[simp] theorem State.emit_pkg_parts (s : State) (x : Out) : (s.emit x).pkg.parts = s.pkg.parts := rfl
@[simp] theorem State.updPart_pkg_dtlb (s : State) (p : Nat) (f : Partition → Partition) : (s.updPart p f).pkg.dtlb = s.pkg.dtlb := rfl
@[simp] theorem State.updCtx_pkg_dtlb (s : State) (p c : Nat) (f : Ctx → Ctx) : (s.updCtx p c f).pkg.dtlb = s.pkg.dtlb := rfl
@[simp] theorem State.updLink_pkg_dtlb (s : State) (l : Nat) (f : Link → Link) : (s.updLink l f).pkg.dtlb = s.pkg.dtlb := rfl
@[simp] theorem State.emit_pkg_dtlb (s : State) (x : Out) : (s.emit x).pkg.dtlb = s.pkg.dtlb := rfl
@[simp] theorem State.updPart_pkg_waiters (s : State) (p : Nat) (f : Partition → Partition) : (s.updPart p f).pkg.waiters = s.pkg.waiters := rfl
@[simp] theorem State.updCtx_pkg_waiters (s : State) (p c : Nat) (f : Ctx → Ctx) : (s.updCtx p c f).pkg.waiters = s.pkg.waiters := rfl
@[simp] theorem State.updLink_pkg_waiters (s : State) (l : Nat) (f : Link → Link) : (s.updLink l f).pkg.waiters = s.pkg.waiters := rfl
@[simp] theorem State.emit_pkg_waiters (s : State) (x : Out) : (s.emit x).pkg.waiters = s.pkg.waiters := rfl
@[simp] theorem State.updPart_pkg_cmds (s : State) (p : Nat) (f : Partition → Partition) : (s.updPart p f).pkg.cmds = s.pkg.cmds := rfl
@[simp] theorem State.updCtx_pkg_cmds (s : State) (p c : Nat) (f : Ctx → Ctx) : (s.updCtx p c f).pkg.cmds = s.pkg.cmds := rfl
@[simp] theorem State.updLink_pkg_cmds (s : State) (l : Nat) (f : Link → Link) : (s.updLink l f).pkg.cmds = s.pkg.cmds := rfl
@[simp] theorem State.emit_pkg_cmds (s : State) (x : Out) : (s.emit x).pkg.cmds = s.pkg.cmds := rfl
@[simp] theorem State.updPart_pkg_parked (s : State) (p : Nat) (f : Partition → Partition) : (s.updPart p f).pkg.parked = s.pkg.parked := rfl
@[simp] theorem State.updCtx_pkg_parked (s : State) (p c : Nat) (f : Ctx → Ctx) : (s.updCtx p c f).pkg.parked = s.pkg.parked := rfl
@[simp] theorem State.updLink_pkg_parked (s : State) (l : Nat) (f : Link → Link) : (s.updLink l f).pkg.parked = s.pkg.parked := rfl
@[simp] theorem State.emit_pkg_parked (s : State) (x : Out) : (s.emit x).pkg.parked = s.pkg.parked := rfl
@[simp] theorem State.updPart_pkg_taskSave (s : State) (p : Nat) (f : Partition → Partition) : (s.updPart p f).pkg.taskSave = s.pkg.taskSave := rfl
@[simp] theorem State.updCtx_pkg_taskSave (s : State) (p c : Nat) (f : Ctx → Ctx) : (s.updCtx p c f).pkg.taskSave = s.pkg.taskSave := rfl
@[simp] theorem State.updLink_pkg_taskSave (s : State) (l : Nat) (f : Link → Link) : (s.updLink l f).pkg.taskSave = s.pkg.taskSave := rfl
@[simp] theorem State.emit_pkg_taskSave (s : State) (x : Out) : (s.emit x).pkg.taskSave = s.pkg.taskSave := rfl
@[simp] theorem State.updPart_pkg_taskImgs (s : State) (p : Nat) (f : Partition → Partition) : (s.updPart p f).pkg.taskImgs = s.pkg.taskImgs := rfl
@[simp] theorem State.updCtx_pkg_taskImgs (s : State) (p c : Nat) (f : Ctx → Ctx) : (s.updCtx p c f).pkg.taskImgs = s.pkg.taskImgs := rfl
@[simp] theorem State.updLink_pkg_taskImgs (s : State) (l : Nat) (f : Link → Link) : (s.updLink l f).pkg.taskImgs = s.pkg.taskImgs := rfl
@[simp] theorem State.emit_pkg_taskImgs (s : State) (x : Out) : (s.emit x).pkg.taskImgs = s.pkg.taskImgs := rfl
@[simp] theorem State.updPart_pkg_tidNo (s : State) (p : Nat) (f : Partition → Partition) : (s.updPart p f).pkg.tidNo = s.pkg.tidNo := rfl
@[simp] theorem State.updCtx_pkg_tidNo (s : State) (p c : Nat) (f : Ctx → Ctx) : (s.updCtx p c f).pkg.tidNo = s.pkg.tidNo := rfl
@[simp] theorem State.updLink_pkg_tidNo (s : State) (l : Nat) (f : Link → Link) : (s.updLink l f).pkg.tidNo = s.pkg.tidNo := rfl
@[simp] theorem State.emit_pkg_tidNo (s : State) (x : Out) : (s.emit x).pkg.tidNo = s.pkg.tidNo := rfl
@[simp] theorem State.updPart_pkg_tagNo (s : State) (p : Nat) (f : Partition → Partition) : (s.updPart p f).pkg.tagNo = s.pkg.tagNo := rfl
@[simp] theorem State.updCtx_pkg_tagNo (s : State) (p c : Nat) (f : Ctx → Ctx) : (s.updCtx p c f).pkg.tagNo = s.pkg.tagNo := rfl
@[simp] theorem State.updLink_pkg_tagNo (s : State) (l : Nat) (f : Link → Link) : (s.updLink l f).pkg.tagNo = s.pkg.tagNo := rfl
@[simp] theorem State.emit_pkg_tagNo (s : State) (x : Out) : (s.emit x).pkg.tagNo = s.pkg.tagNo := rfl
@[simp] theorem State.updPart_pkg_rem (s : State) (p : Nat) (f : Partition → Partition) : (s.updPart p f).pkg.rem = s.pkg.rem := rfl
@[simp] theorem State.updCtx_pkg_rem (s : State) (p c : Nat) (f : Ctx → Ctx) : (s.updCtx p c f).pkg.rem = s.pkg.rem := rfl
@[simp] theorem State.updLink_pkg_rem (s : State) (l : Nat) (f : Link → Link) : (s.updLink l f).pkg.rem = s.pkg.rem := rfl
@[simp] theorem State.emit_pkg_rem (s : State) (x : Out) : (s.emit x).pkg.rem = s.pkg.rem := rfl
@[simp] theorem State.updPart_pkg_mesh (s : State) (p : Nat) (f : Partition → Partition) : (s.updPart p f).pkg.mesh = s.pkg.mesh := rfl
@[simp] theorem State.updCtx_pkg_mesh (s : State) (p c : Nat) (f : Ctx → Ctx) : (s.updCtx p c f).pkg.mesh = s.pkg.mesh := rfl
@[simp] theorem State.updLink_pkg_mesh (s : State) (l : Nat) (f : Link → Link) : (s.updLink l f).pkg.mesh = s.pkg.mesh := rfl
@[simp] theorem State.emit_pkg_mesh (s : State) (x : Out) : (s.emit x).pkg.mesh = s.pkg.mesh := rfl
@[simp] theorem State.updPart_pkg_adapter (s : State) (p : Nat) (f : Partition → Partition) : (s.updPart p f).pkg.adapter = s.pkg.adapter := rfl
@[simp] theorem State.updCtx_pkg_adapter (s : State) (p c : Nat) (f : Ctx → Ctx) : (s.updCtx p c f).pkg.adapter = s.pkg.adapter := rfl
@[simp] theorem State.updLink_pkg_adapter (s : State) (l : Nat) (f : Link → Link) : (s.updLink l f).pkg.adapter = s.pkg.adapter := rfl
@[simp] theorem State.emit_pkg_adapter (s : State) (x : Out) : (s.emit x).pkg.adapter = s.pkg.adapter := rfl
@[simp] theorem State.updPart_pkg_adapterRr (s : State) (p : Nat) (f : Partition → Partition) : (s.updPart p f).pkg.adapterRr = s.pkg.adapterRr := rfl
@[simp] theorem State.updCtx_pkg_adapterRr (s : State) (p c : Nat) (f : Ctx → Ctx) : (s.updCtx p c f).pkg.adapterRr = s.pkg.adapterRr := rfl
@[simp] theorem State.updLink_pkg_adapterRr (s : State) (l : Nat) (f : Link → Link) : (s.updLink l f).pkg.adapterRr = s.pkg.adapterRr := rfl
@[simp] theorem State.emit_pkg_adapterRr (s : State) (x : Out) : (s.emit x).pkg.adapterRr = s.pkg.adapterRr := rfl
@[simp] theorem State.updPart_pkg_links (s : State) (p : Nat) (f : Partition → Partition) : (s.updPart p f).pkg.links = s.pkg.links := rfl
@[simp] theorem State.updCtx_pkg_links (s : State) (p c : Nat) (f : Ctx → Ctx) : (s.updCtx p c f).pkg.links = s.pkg.links := rfl
@[simp] theorem State.emit_pkg_links (s : State) (x : Out) : (s.emit x).pkg.links = s.pkg.links := rfl
@[simp] theorem State.updPart_pkg_rslots (s : State) (p : Nat) (f : Partition → Partition) : (s.updPart p f).pkg.rslots = s.pkg.rslots := rfl
@[simp] theorem State.updCtx_pkg_rslots (s : State) (p c : Nat) (f : Ctx → Ctx) : (s.updCtx p c f).pkg.rslots = s.pkg.rslots := rfl
@[simp] theorem State.updLink_pkg_rslots (s : State) (l : Nat) (f : Link → Link) : (s.updLink l f).pkg.rslots = s.pkg.rslots := rfl
@[simp] theorem State.emit_pkg_rslots (s : State) (x : Out) : (s.emit x).pkg.rslots = s.pkg.rslots := rfl
@[simp] theorem State.updPart_pkg_hubq (s : State) (p : Nat) (f : Partition → Partition) : (s.updPart p f).pkg.hubq = s.pkg.hubq := rfl
@[simp] theorem State.updCtx_pkg_hubq (s : State) (p c : Nat) (f : Ctx → Ctx) : (s.updCtx p c f).pkg.hubq = s.pkg.hubq := rfl
@[simp] theorem State.updLink_pkg_hubq (s : State) (l : Nat) (f : Link → Link) : (s.updLink l f).pkg.hubq = s.pkg.hubq := rfl
@[simp] theorem State.emit_pkg_hubq (s : State) (x : Out) : (s.emit x).pkg.hubq = s.pkg.hubq := rfl
@[simp] theorem State.updPart_pkg_swq (s : State) (p : Nat) (f : Partition → Partition) : (s.updPart p f).pkg.swq = s.pkg.swq := rfl
@[simp] theorem State.updCtx_pkg_swq (s : State) (p c : Nat) (f : Ctx → Ctx) : (s.updCtx p c f).pkg.swq = s.pkg.swq := rfl
@[simp] theorem State.updLink_pkg_swq (s : State) (l : Nat) (f : Link → Link) : (s.updLink l f).pkg.swq = s.pkg.swq := rfl
@[simp] theorem State.emit_pkg_swq (s : State) (x : Out) : (s.emit x).pkg.swq = s.pkg.swq := rfl
@[simp] theorem State.updPart_pkg_inq (s : State) (p : Nat) (f : Partition → Partition) : (s.updPart p f).pkg.inq = s.pkg.inq := rfl
@[simp] theorem State.updCtx_pkg_inq (s : State) (p c : Nat) (f : Ctx → Ctx) : (s.updCtx p c f).pkg.inq = s.pkg.inq := rfl
@[simp] theorem State.updLink_pkg_inq (s : State) (l : Nat) (f : Link → Link) : (s.updLink l f).pkg.inq = s.pkg.inq := rfl
@[simp] theorem State.emit_pkg_inq (s : State) (x : Out) : (s.emit x).pkg.inq = s.pkg.inq := rfl
@[simp] theorem State.updPart_pkg_hostPost (s : State) (p : Nat) (f : Partition → Partition) : (s.updPart p f).pkg.hostPost = s.pkg.hostPost := rfl
@[simp] theorem State.updCtx_pkg_hostPost (s : State) (p c : Nat) (f : Ctx → Ctx) : (s.updCtx p c f).pkg.hostPost = s.pkg.hostPost := rfl
@[simp] theorem State.updLink_pkg_hostPost (s : State) (l : Nat) (f : Link → Link) : (s.updLink l f).pkg.hostPost = s.pkg.hostPost := rfl
@[simp] theorem State.emit_pkg_hostPost (s : State) (x : Out) : (s.emit x).pkg.hostPost = s.pkg.hostPost := rfl
@[simp] theorem State.updPart_pkg_hostJobs (s : State) (p : Nat) (f : Partition → Partition) : (s.updPart p f).pkg.hostJobs = s.pkg.hostJobs := rfl
@[simp] theorem State.updCtx_pkg_hostJobs (s : State) (p c : Nat) (f : Ctx → Ctx) : (s.updCtx p c f).pkg.hostJobs = s.pkg.hostJobs := rfl
@[simp] theorem State.updLink_pkg_hostJobs (s : State) (l : Nat) (f : Link → Link) : (s.updLink l f).pkg.hostJobs = s.pkg.hostJobs := rfl
@[simp] theorem State.emit_pkg_hostJobs (s : State) (x : Out) : (s.emit x).pkg.hostJobs = s.pkg.hostJobs := rfl
@[simp] theorem State.updPart_pkg_out (s : State) (p : Nat) (f : Partition → Partition) : (s.updPart p f).pkg.out = s.pkg.out := rfl
@[simp] theorem State.updCtx_pkg_out (s : State) (p c : Nat) (f : Ctx → Ctx) : (s.updCtx p c f).pkg.out = s.pkg.out := rfl
@[simp] theorem State.updLink_pkg_out (s : State) (l : Nat) (f : Link → Link) : (s.updLink l f).pkg.out = s.pkg.out := rfl
@[simp] theorem State.emit_pkg_out (s : State) (x : Out) : (s.emit x).pkg.out = s.pkg.out ++ [x] := rfl

end Sys2Proof.Machine
end

