-- ==== Sys2Proof/Laws/Present.lean ====
section
/-! SUPPORT. What presenting an operation can do, case by case (`present`), and what its shared effects do to the state. -/

namespace Sys2Proof.Machine

/-- The parts of `clearToAct`. -/
theorem clearToAct_iff (i : Instr) (s : State) : clearToAct i s = true ↔
    s.core.env.served = none ∧ forbiddenIn s.core.th.mode i = false ∧ suppressedBy i (s.opnds i).g = false ∧ s.portTrap i = none
      ∧ s.portStall i = false ∧ s.pendSrcs i = [] ∧ s.pushHold i (s.opnds i) = none ∧ s.pendDest i = false
      ∧ s.olderHeld i = false ∧ s.core.th.holdersFree i = true ∧ s.core.env.after = false := by
  simp [clearToAct, and_assoc]

/-- The second of two checks decides where the first passes. -/
@[simp] theorem orTrap_none (a : Option Trap) : orTrap none a = a := rfl

/-- The first of two checks decides where it fails. -/
@[simp] theorem orTrap_some (t : Trap) (a : Option Trap) : orTrap (some t) a = some t := rfl

/-- Checks that all pass, whether or not those of the entry have been made before. -/
theorem Meaning.checks_none {m : Meaning} {made : Bool} {o : Opnds} {s : State} (h : m.chk o s = none) (hl : m.late o s = none) :
    m.checks made o s = none := by
  cases made <;> simp [Meaning.checks, h, hl]

/-- Claiming no word changes no bank. -/
theorem State.claimBanks_nil (s : State) : s.claimBanks [] = s := rfl

/-- No word waits for no bank. -/
theorem banksServe_nil (s : State) : banksServe s [] := rfl

/-- Words that the banks serve in this cycle are served with the effect (R126). -/
theorem State.serveWords_now {s : State} {ws : List (Nat × Nat)} {act : State → Res} {wait : State → List (Nat × Nat) → State}
    (h : banksServe s ws) : s.serveWords ws act wait = act (s.claimBanks ws) := by
  have h : planEnd (bankPlan s.core.banks ws).1 = 0 := h
  simp [State.serveWords, h, State.claimBanks]

/-- An operation that acts has its effect, where its own checks pass and it has no reason to wait (R203 to R210). -/
theorem present_actsOn {i : Instr} {s : State} {m : Meaning} {o : Opnds} {t : State} (h : ActsOn i s (m.words o s) o t)
    (h1 : m.wait o s = none) (h2 : m.chk o s = none) (hl : m.late o s = none) (h3 : m.rdy o s = none) :
    present i s m = m.eff o t := by
  rcases h with ⟨hc, rfl, hb, rfl⟩ | ⟨hs, hg, hh, hb⟩
  · obtain ⟨hs, hf, hg, hp, hq, hr, hh, hd, ho, hv, ha⟩ := (clearToAct_iff i s).1 hc
    simp [present, hs, hf, hg, hp, hq, hr, hh, hd, ho, hv, ha, h1, Meaning.checks_none h2 hl, h3, State.serveWords_now hb]
  · rcases hb with ⟨hk, rfl⟩ | ⟨hk, hb, rfl⟩ <;>
      simp [present, presentSlip, hs, hg, hh, h1, Meaning.checks_none h2 hl, h3, hk]
    rw [State.serveWords_now hb]

/-- As `present_actsOn`, for an operation that touches no scratchpad word. -/
theorem present_acts {i : Instr} {s : State} {m : Meaning} {o : Opnds} {t : State} (h : Acts i s o t)
    (hw : m.words o s = []) (h1 : m.wait o s = none) (h2 : m.chk o s = none) (hl : m.late o s = none)
    (h3 : m.rdy o s = none) : present i s m = m.eff o t := by
  refine present_actsOn ?_ h1 h2 hl h3
  rw [hw]
  rcases h with ⟨hc, rfl, rfl⟩ | ⟨hs, hg, hh, rfl⟩
  · exact .inl ⟨hc, rfl, rfl, rfl⟩
  · cases hk : s.core.env.banked
    · exact .inr ⟨hs, hg, hh, .inr ⟨hk, rfl, rfl⟩⟩
    · exact .inr ⟨hs, hg, hh, .inl ⟨hk, rfl⟩⟩

/-- An operation that has a reason to wait holds its bundle, with what the wait asks for noted (R203). -/
theorem present_waits {i : Instr} {s : State} {m : Meaning} {u : State} (hc : clearToAct i s = true)
    (h1 : m.wait (s.opnds i) s = some u) : present i s m = .next (u.mark .stalled) := by
  obtain ⟨hs, hf, hg, hp, hq, hr, hh, hd, ho, hl, ha⟩ := (clearToAct_iff i s).1 hc
  simp [present, hs, hf, hg, hp, hq, hr, hd, h1]

/-- An operation one of whose own checks fails at issue traps (R19, R203). -/
theorem present_traps {i : Instr} {s : State} {m : Meaning} {t : Trap} (hc : clearToAct i s = true)
    (h1 : m.wait (s.opnds i) s = none) (h2 : m.chk (s.opnds i) s = some t) : present i s m = .next (s.trapNow t) := by
  obtain ⟨hs, hf, hg, hp, hq, hr, hh, hd, ho, hl, ha⟩ := (clearToAct_iff i s).1 hc
  simp [present, hs, hf, hg, hp, hq, hr, hd, h1, Meaning.checks, h2]

/-- An operation that has a reason of its own to slip does so (R205). -/
theorem present_slips {i : Instr} {s : State} {m : Meaning} {k : Nat} (hc : clearToAct i s = true)
    (h1 : m.wait (s.opnds i) s = none) (h2 : m.chk (s.opnds i) s = none) (h2l : m.late (s.opnds i) s = none)
    (h3 : m.rdy (s.opnds i) s = some k) :
    present i s m = .next (s.slip i (s.opnds i) k [] true [] (m.place (s.opnds i) s)) := by
  obtain ⟨hs, hf, hg, hp, hq, hr, hh, hd, ho, hl, ha⟩ := (clearToAct_iff i s).1 hc
  simp [present, hs, hf, hg, hp, hq, hr, hh, hd, ho, hl, ha, h1, Meaning.checks_none h2 h2l, h3]

/-- An operation that pops no port starts from the state with its note. -/
theorem Acts.eq_mark {i : Instr} {s : State} {o : Opnds} {t : State} (h : Acts i s o t) (hp : (shape i).pops = []) :
    t = s.mark .issued := by
  rcases h with ⟨_, _, rfl⟩ | ⟨_, _, _, rfl⟩
  · simp [State.pop, hp]
  · rfl

/-- A mode that forbids an operation traps it before anything else (R216, R217). -/
theorem present_forbidden {i : Instr} {s : State} {m : Meaning} (hs : s.core.env.served = none)
    (hf : forbiddenIn s.core.th.mode i = true) : present i s m = .next (s.trapNow (privTrap s i)) := by
  simp [present, hs, hf]

/-- A guard that suppresses leaves nothing but the note (R14). -/
theorem present_suppressed {i : Instr} {s : State} {m : Meaning} (hs : s.core.env.served = none)
    (hf : forbiddenIn s.core.th.mode i = false) (hp : Role.g ∉ s.pendSrcs i) (hg : suppressedBy i (s.opnds i).g = true) :
    present i s m = .next (s.mark .suppressed) := by
  simp [present, hs, hf, hp, hg]

/-- Serving words answers a next state where their effect does. -/
theorem State.serveWords_next {s : State} {ws : List (Nat × Nat)} {act : State → Res} {wait : State → List (Nat × Nat) → State}
    (h : ∀ s, ∃ t, act s = .next t) : ∃ t, s.serveWords ws act wait = .next t := by
  unfold State.serveWords
  by_cases hp : planEnd (bankPlan s.core.banks ws).1 = 0 <;> simp [hp, h]

/-- Serving the slip entry of an operation whose effect always answers a next state answers a next state. -/
theorem presentSlip_next {i : Instr} {s : State} {m : Meaning} {o : Opnds} (h : ∀ o s, ∃ t, m.eff o s = .next t) :
    ∃ t, presentSlip i s m o = .next t := by
  unfold presentSlip
  split
  · exact ⟨_, rfl⟩
  · cases m.wait o s with
    | some s1 => exact ⟨_, rfl⟩
    | none =>
      cases orTrap (m.checks s.core.env.checked o s) (s.pushHold i o) with
      | some t => exact ⟨_, rfl⟩
      | none =>
        cases m.rdy o s with
        | some k => exact ⟨_, rfl⟩
        | none =>
          cases hk : s.core.env.banked with
          | true => simpa [hk] using h o _
          | false => simpa [hk] using State.serveWords_next fun _ => h _ _

/-- Presenting an operation whose effect always answers a next state answers a next state. -/
theorem present_next {i : Instr} {s : State} {m : Meaning} (h : ∀ o s, ∃ t, m.eff o s = .next t) : ∃ t, present i s m = .next t := by
  have ite : ∀ (c : Prop) [Decidable c] (a b : Res), (∃ t, a = .next t) → (∃ t, b = .next t) →
      ∃ t, (if c then a else b) = .next t := fun c _ a b ha hb => by
    by_cases hc : c
    · rwa [if_pos hc]
    · rwa [if_neg hc]
  unfold present
  cases hs : s.core.env.served with
  | some o => exact presentSlip_next h
  | none =>
    refine ite _ _ _ ⟨_, rfl⟩ (ite _ _ _ ⟨_, rfl⟩ ?_)
    cases s.portTrap i with
    | some t => exact ⟨_, rfl⟩
    | none =>
      refine ite _ _ _ ⟨_, rfl⟩ (ite _ _ _ ⟨_, rfl⟩ (ite _ _ _ ?_ ?_))
      · cases (if (s.pendSrcs i).contains .g then none else m.pre (s.pendSrcs i) (s.opnds i) s) with
        | some t => exact ⟨_, rfl⟩
        | none => exact ⟨_, rfl⟩
      · cases m.wait (s.opnds i) s with
        | some s1 => exact ⟨_, rfl⟩
        | none =>
          cases orTrap (m.checks false (s.opnds i) s) (s.pushHold i (s.opnds i)) with
          | some t => exact ⟨_, rfl⟩
          | none =>
            refine ite _ _ _ ⟨_, rfl⟩ (ite _ _ _ ⟨_, rfl⟩ (ite _ _ _ ⟨_, rfl⟩ (ite _ _ _ ⟨_, rfl⟩ (ite _ _ _ ⟨_, rfl⟩ ?_))))
            cases m.rdy (s.opnds i) s with
            | some k => exact ⟨_, rfl⟩
            | none => exact State.serveWords_next fun _ => h _ _

/-! ### Results -/

/-- A scalar result for x0 is discarded (R24). -/
@[simp] theorem State.putX_zero (s : State) (lat : Nat) (v : Word) : s.putX lat 0 v = s := rfl

/-- A scalar result for a register is put in flight under its physical number (R26, R204). -/
theorem State.putX_reg (s : State) (lat d : Nat) (v : Word) (h0 : d ≠ 0) (h : ¬ (57 ≤ d ∧ d ≤ 60)) :
    s.putX lat d v = s.result lat 0 (.x (physX s.rrb d) v) := by
  simp [State.putX, h0, h]

/-- A scalar result for a link port of a task that is not foldable is put in flight as a push (R74). -/
theorem State.putX_port (s : State) (lat d : Nat) (v : Word) (h : 57 ≤ d ∧ d ≤ 60) (hf : s.core.th.task.foldable = false) :
    s.putX lat d v = s.result lat 0 (.push (d - 57) v) := by
  have : d ≠ 0 := by omega
  simp [State.putX, this, h, hf]

/-- A scalar result for a link port of a foldable task is captured into its hold entry (R192). -/
theorem State.putX_held (s : State) (lat d : Nat) (v : Word) (ch : Nat) (h : 57 ≤ d ∧ d ≤ 60) (hf : s.core.th.task.foldable = true)
    (hc : s.portChan d = some ch) : s.putX lat d v = s.hold (.message ch (leBytes v.toNat 4)) := by
  have : d ≠ 0 := by omega
  simp [State.putX, this, h, hf, hc]

/-- A scalar result leaves everything alone but the results in flight and the hold queue. -/
theorem State.putX_cases (s : State) (lat d : Nat) (v : Word) :
    s.putX lat d v = s ∨ (∃ e, s.putX lat d v = s.result lat 0 e) ∨ ∃ h, s.putX lat d v = s.hold h := by
  unfold State.putX
  split
  · exact .inl rfl
  · split
    · split
      · cases s.portChan d with
        | some ch => exact .inr (.inr ⟨_, rfl⟩)
        | none => exact .inl rfl
      · exact .inr (.inl ⟨_, rfl⟩)
    · exact .inr (.inl ⟨_, rfl⟩)

/-- A predicate result leaves everything alone but the results in flight. -/
theorem State.putP_eq (s : State) (lat d : Nat) (v m : PReg) (f : Flags) :
    ∃ e, s.putP lat d v m f = s.result lat f e := by
  unfold State.putP
  split <;> exact ⟨_, rfl⟩

/-- A vector result is put in flight under its physical number. -/
theorem State.putV_eq (s : State) (lat d : Nat) (v m : VReg) (f : Flags) :
    s.putV lat d v m f = s.result lat f (.v (physV s.rrb d) v m) := rfl

/-- An operation that names no port pops none. -/
theorem State.pop_none (s : State) (i : Instr) (h : (shape i).pops = []) : s.pop i = s := by
  simp [State.pop, h]

end Sys2Proof.Machine
end

