-- ==== Sys2Proof/Laws/Sparse.lean ====
section
/-! SUPPORT. The maps: a read after a write, and the canonical form, which every operation on a map keeps. `Memory.wf` is
the canonical form of a byte memory; the lemmas about `leGet`, `lePut`, `bytesPut`, `sdrop` and `splice` are those about memory. -/

namespace Sys2Proof.Machine

variable {α : Type} [DecidableEq α]

/-- Keys strictly rise: what the canonical form says of the keys. -/
def rising : Sparse α → Prop
  | [] => True
  | (k, _) :: m => (∀ e ∈ m, k < e.1) ∧ rising m

theorem swf_cons_iff (d : α) (k : Nat) (v : α) (m : Sparse α) :
    swf d ((k, v) :: m) = true ↔ v ≠ d ∧ (∀ e ∈ m, k < e.1) ∧ swf d m = true := by
  induction m generalizing k v with
  | nil => simp [swf]
  | cons e m ih =>
    obtain ⟨k', v'⟩ := e
    rw [swf]
    simp only [Bool.and_eq_true, decide_eq_true_eq, ih k' v', List.mem_cons, forall_eq_or_imp]
    constructor
    · rintro ⟨⟨h1, h2⟩, h3, h4, h5⟩
      exact ⟨h1, ⟨h2, fun e he => lt_trans h2 (h4 e he)⟩, h3, h4, h5⟩
    · rintro ⟨h1, ⟨h2, -⟩, h3, h4, h5⟩
      exact ⟨⟨h1, h2⟩, h3, h4, h5⟩

/-- The canonical form, entry by entry. -/
theorem swf_iff (d : α) (m : Sparse α) : swf d m = true ↔ (∀ e ∈ m, e.2 ≠ d) ∧ rising m := by
  induction m with
  | nil => simp [swf, rising]
  | cons e m ih =>
    obtain ⟨k, v⟩ := e
    rw [swf_cons_iff, ih]
    simp only [List.mem_cons, forall_eq_or_imp, rising]
    tauto

theorem swf_nil (d : α) : swf d ([] : Sparse α) = true := rfl

omit [DecidableEq α] in
/-- Below every key a map reads as the default. -/
theorem sget_of_lt (d : α) (m : Sparse α) (k : Nat) (h : ∀ e ∈ m, k < e.1) : sget d m k = d := by
  induction m with
  | nil => rfl
  | cons e m ih =>
    obtain ⟨k', v⟩ := e
    have := h (k', v) (by simp)
    simp only [sget]
    rw [if_neg (by simp at this; omega)]
    exact ih fun e he => h e (by simp [he])

theorem sset_keys (d : α) (m : Sparse α) (k : Nat) (v : α) (n : Nat) (hn : n < k) (h : ∀ e ∈ m, n < e.1) :
    ∀ e ∈ sset d m k v, n < e.1 := by
  induction m with
  | nil =>
    intro e he
    simp only [sset] at he
    split at he <;> simp_all
  | cons e m ih =>
    obtain ⟨k', v'⟩ := e
    have h1 := h (k', v') (by simp)
    have h2 : ∀ e ∈ m, n < e.1 := fun e he => h e (by simp [he])
    intro e he
    simp only [sset] at he
    split at he
    · split at he
      · exact h e he
      · rcases List.mem_cons.1 he with rfl | he
        · exact hn
        · exact h e he
    · split at he
      · split at he
        · exact h2 e he
        · rcases List.mem_cons.1 he with rfl | he
          · exact hn
          · exact h2 e he
      · rcases List.mem_cons.1 he with rfl | he
        · exact h1
        · exact ih h2 e he

/-- A write keeps the canonical form. -/
theorem swf_sset (d : α) (m : Sparse α) (k : Nat) (v : α) (h : swf d m = true) : swf d (sset d m k v) = true := by
  induction m with
  | nil =>
    simp only [sset]
    split
    · rfl
    · simp_all [swf]
  | cons e m ih =>
    obtain ⟨k', v'⟩ := e
    rw [swf_cons_iff] at h
    obtain ⟨h1, h2, h3⟩ := h
    simp only [sset]
    split
    · rename_i hk
      split
      · rw [swf_cons_iff]; exact ⟨h1, h2, h3⟩
      · rename_i hv
        rw [swf_cons_iff, swf_cons_iff]
        refine ⟨hv, ?_, h1, h2, h3⟩
        intro e he
        rcases List.mem_cons.1 he with rfl | he
        · exact hk
        · exact lt_trans hk (h2 e he)
    · split
      · subst_vars
        split
        · exact h3
        · rw [swf_cons_iff]; exact ⟨‹_›, h2, h3⟩
      · rw [swf_cons_iff]
        exact ⟨h1, sset_keys d m k v k' (by omega) h2, ih h3⟩

/-- A read after a write (of a map whose keys rise). -/
theorem sget_sset (d : α) (m : Sparse α) (k : Nat) (v : α) (j : Nat) (h : swf d m = true) :
    sget d (sset d m k v) j = if j = k then v else sget d m j := by
  induction m with
  | nil =>
    simp only [sset, sget]
    split
    · simp_all [sget]
    · simp [sget]
  | cons e m ih =>
    obtain ⟨k', v'⟩ := e
    rw [swf_cons_iff] at h
    obtain ⟨h1, h2, h3⟩ := h
    simp only [sset]
    split
    · rename_i hk
      have hlt : sget d ((k', v') :: m) k = d := sget_of_lt d _ k (by
        intro e he
        rcases List.mem_cons.1 he with rfl | he
        · exact hk
        · exact lt_trans hk (h2 e he))
      split
      · subst_vars
        by_cases hj : j = k
        · subst hj; simp [hlt]
        · simp [hj]
      · simp only [sget]
    · split
      · rename_i hk
        subst hk
        have hlt : sget d m k = d := sget_of_lt d m k h2
        split
        · rename_i hv
          by_cases hj : j = k
          · rw [if_pos hj, hj, hlt, hv]
          · rw [if_neg hj, sget, if_neg hj]
        · by_cases hj : j = k
          · rw [if_pos hj, sget, if_pos hj]
          · rw [if_neg hj, sget, if_neg hj, sget, if_neg hj]
      · simp only [sget]
        by_cases hj : j = k'
        · subst hj
          rw [if_pos rfl, if_pos rfl, if_neg (by omega)]
        · rw [if_neg hj, if_neg hj, ih h3]

/-- A read of the key just written. -/
theorem sget_sset_same (d : α) (m : Sparse α) (k : Nat) (v : α) (h : swf d m = true) : sget d (sset d m k v) k = v := by
  rw [sget_sset d m k v k h, if_pos rfl]

/-- A read of another key. -/
theorem sget_sset_other (d : α) (m : Sparse α) (k : Nat) (v : α) (j : Nat) (hj : j ≠ k) (h : swf d m = true) :
    sget d (sset d m k v) j = sget d m j := by
  rw [sget_sset d m k v j h, if_neg hj]

omit [DecidableEq α] in
theorem rising_filter (m : Sparse α) (c : Nat × α → Bool) (h : rising m) : rising (m.filter c) := by
  induction m with
  | nil => exact h
  | cons e m ih =>
    obtain ⟨k, v⟩ := e
    obtain ⟨h1, h2⟩ := h
    simp only [List.filter_cons]
    split
    · exact ⟨fun e he => h1 e (List.mem_filter.1 he).1, ih h2⟩
    · exact ih h2

/-- Dropping entries keeps the canonical form. -/
theorem swf_filter (d : α) (m : Sparse α) (c : Nat × α → Bool) (h : swf d m = true) : swf d (m.filter c) = true := by
  rw [swf_iff] at *
  exact ⟨fun e he => h.1 e (List.mem_filter.1 he).1, rising_filter m c h.2⟩

theorem swf_sdrop (d : α) (m : Sparse α) (lo hi : Nat) (h : swf d m = true) : swf d (sdrop m lo hi) = true :=
  swf_filter d m _ h

omit [DecidableEq α] in
theorem rising_append (m n : Sparse α) (hm : rising m) (hn : rising n) (h : ∀ e ∈ m, ∀ f ∈ n, e.1 < f.1) :
    rising (m ++ n) := by
  induction m with
  | nil => exact hn
  | cons e m ih =>
    obtain ⟨k, v⟩ := e
    obtain ⟨h1, h2⟩ := hm
    refine ⟨?_, ih h2 fun e he => h e (by simp [he])⟩
    intro f hf
    rcases List.mem_append.1 hf with hf | hf
    · exact h1 f hf
    · exact h (k, v) (by simp) f hf

/-- Putting a canonical map of keys in a range over that range keeps the canonical form. -/
theorem swf_splice (d : α) (m n : Sparse α) (lo hi : Nat) (hm : swf d m = true) (hn : swf d n = true)
    (h : ∀ e ∈ n, lo ≤ e.1 ∧ e.1 < hi) (hlo : lo ≤ hi) : swf d (splice m lo hi n) = true := by
  rw [swf_iff] at *
  have hl := rising_filter m (fun e => e.1 < lo) hm.2
  have hr := rising_filter m (fun e => hi ≤ e.1) hm.2
  constructor
  · intro e he
    simp only [splice, List.mem_append, List.mem_filter] at he
    rcases he with (he | he) | he
    · exact hm.1 e he.1
    · exact hn.1 e he
    · exact hm.1 e he.1
  · refine rising_append _ _ (rising_append _ _ hl hn.2 ?_) hr ?_
    · intro e he f hf
      have h1 : e.1 < lo := by simpa using (List.mem_filter.1 he).2
      have h2 := (h f hf).1
      omega
    · intro e he f hf
      have h2 : hi ≤ f.1 := by simpa using (List.mem_filter.1 hf).2
      rcases List.mem_append.1 he with he | he
      · have h1 : e.1 < lo := by simpa using (List.mem_filter.1 he).2
        omega
      · have h1 := (h e he).2
        omega

omit [DecidableEq α] in
theorem smove_keys (m : Sparse α) (lo hi k : Nat) : ∀ e ∈ smove m lo hi k, k ≤ e.1 ∧ e.1 < k + (hi - lo) := by
  intro e he
  simp only [smove, List.mem_map, List.mem_filter, Bool.and_eq_true, decide_eq_true_eq] at he
  obtain ⟨f, ⟨_, h1, h2⟩, rfl⟩ := he
  simp only
  omega

/-- Moving a range keeps the canonical form. -/
theorem swf_smove (d : α) (m : Sparse α) (lo hi k : Nat) (h : swf d m = true) : swf d (smove m lo hi k) = true := by
  induction m with
  | nil => rfl
  | cons e m ih =>
    obtain ⟨j, v⟩ := e
    rw [swf_cons_iff] at h
    obtain ⟨h1, h2, h3⟩ := h
    have hs : smove ((j, v) :: m) lo hi k =
        if lo ≤ j && j < hi then (j - lo + k, v) :: smove m lo hi k else smove m lo hi k := by
      simp only [smove, List.filter_cons]
      split <;> simp
    rw [hs]
    split
    · rename_i hj
      simp only [Bool.and_eq_true, decide_eq_true_eq] at hj
      rw [swf_cons_iff]
      refine ⟨h1, ?_, ih h3⟩
      intro e he
      simp only [smove, List.mem_map, List.mem_filter] at he
      obtain ⟨f, ⟨hf, _⟩, rfl⟩ := he
      have := h2 f hf
      simp only
      omega
    · exact ih h3

theorem sparseOf_keys (d : α) (k : Nat) (l : List α) : ∀ e ∈ sparseOf d k l, k ≤ e.1 ∧ e.1 < k + l.length := by
  induction l generalizing k with
  | nil => simp [sparseOf]
  | cons v l ih =>
    intro e he
    simp only [sparseOf] at he
    split at he
    · have := ih (k + 1) e he
      simp only [List.length_cons]; omega
    · rcases List.mem_cons.1 he with rfl | he
      · simp
      · have := ih (k + 1) e he
        simp only [List.length_cons]; omega

/-- The map of a list of values is canonical. -/
theorem swf_sparseOf (d : α) (k : Nat) (l : List α) : swf d (sparseOf d k l) = true := by
  induction l generalizing k with
  | nil => rfl
  | cons v l ih =>
    simp only [sparseOf]
    split
    · exact ih _
    · rw [swf_cons_iff]
      exact ⟨‹_›, fun e he => by have := sparseOf_keys d (k + 1) l e he; omega, ih _⟩

/-! ### Byte memory -/

/-- Storing a number keeps the canonical form of a memory. -/
theorem Memory.wf_lePut (m : Memory) (a v n : Nat) (h : m.wf = true) : Memory.wf (lePut m a v n) = true := by
  induction n generalizing m a v with
  | zero => exact h
  | succ n ih => exact ih _ _ _ (swf_sset 0 m a _ h)

/-- Storing bytes keeps the canonical form of a memory. -/
theorem Memory.wf_bytesPut (m : Memory) (a : Nat) (l : List Byte) (h : m.wf = true) : Memory.wf (bytesPut m a l) = true := by
  induction l generalizing m a with
  | nil => exact h
  | cons b l ih => exact ih _ _ (swf_sset 0 m a b h)

/-- Clearing a range keeps the canonical form of a memory. -/
theorem Memory.wf_sdrop (m : Memory) (lo hi : Nat) (h : m.wf = true) : Memory.wf (sdrop m lo hi) = true :=
  swf_sdrop 0 m lo hi h

/-- Moving a range keeps the canonical form of a memory. -/
theorem Memory.wf_smove (m : Memory) (lo hi k : Nat) (h : m.wf = true) : Memory.wf (smove m lo hi k) = true :=
  swf_smove 0 m lo hi k h

/-- Putting a canonical memory over a range keeps the canonical form. -/
theorem Memory.wf_splice (m n : Memory) (lo hi : Nat) (hm : m.wf = true) (hn : n.wf = true)
    (h : ∀ e ∈ n, lo ≤ e.1 ∧ e.1 < hi) (hlo : lo ≤ hi) : Memory.wf (splice m lo hi n) = true :=
  swf_splice 0 m n lo hi hm hn h hlo

/-- A byte outside the bytes stored reads as before. -/
theorem sget_lePut_other (m : Memory) (a v n j : Nat) (h : m.wf = true) (hj : j < a ∨ a + n ≤ j) :
    sget 0 (lePut m a v n) j = sget 0 m j := by
  induction n generalizing m a v with
  | zero => rfl
  | succ n ih =>
    have hw : Memory.wf (sset 0 m a (BitVec.ofNat 8 v)) = true := swf_sset 0 m a _ h
    rw [lePut, ih _ _ _ hw (by omega)]
    exact sget_sset_other 0 m a _ j (by omega) h

/-- A byte stored reads as its byte of the number. -/
theorem sget_lePut_in (m : Memory) (a v n i : Nat) (h : m.wf = true) (hi : i < n) :
    sget 0 (lePut m a v n) (a + i) = BitVec.ofNat 8 (v / 256 ^ i) := by
  induction n generalizing m a v i with
  | zero => omega
  | succ n ih =>
    have hw : Memory.wf (sset 0 m a (BitVec.ofNat 8 v)) = true := swf_sset 0 m a _ h
    cases i with
    | zero =>
      rw [lePut, sget_lePut_other _ _ _ _ _ hw (by omega)]
      simpa using sget_sset_same 0 m a (BitVec.ofNat 8 v) h
    | succ i =>
      rw [lePut, show a + (i + 1) = (a + 1) + i by omega, ih _ _ _ _ hw (by omega), Nat.div_div_eq_div_mul, pow_succ']

theorem leGet_congr (m m' : Memory) (a n : Nat) (h : ∀ i, i < n → sget 0 m (a + i) = sget 0 m' (a + i)) :
    leGet m a n = leGet m' a n := by
  induction n generalizing a with
  | zero => rfl
  | succ n ih =>
    simp only [leGet]
    rw [show sget 0 m a = sget 0 m' a by simpa using h 0 (by omega), ih (a + 1) fun i hi => by
      have := h (i + 1) (by omega)
      rwa [show a + (i + 1) = a + 1 + i by omega] at this]

/-- A number read where it was stored. -/
theorem leGet_lePut (m : Memory) (a v n : Nat) (h : m.wf = true) : leGet (lePut m a v n) a n = v % 256 ^ n := by
  induction n generalizing m a v with
  | zero => simp [leGet, Nat.mod_one]
  | succ n ih =>
    have hw : Memory.wf (sset 0 m a (BitVec.ofNat 8 v)) = true := swf_sset 0 m a _ h
    have h0 : sget 0 (lePut m a v (n + 1)) a = BitVec.ofNat 8 v := by
      simpa using sget_lePut_in m a v (n + 1) 0 h (by omega)
    rw [leGet, h0, lePut, ih _ _ _ hw]
    have := Nat.mod_mul (x := v) (a := 256) (b := 256 ^ n)
    rw [pow_succ', this]
    simp

/-- Reset leaves every memory empty, which is canonical. -/
theorem reset_memories_wf : State.reset.core.spad.mem.wf = true ∧ State.reset.pkg.hbm.mem.wf = true
    ∧ State.reset.pkg.taskSave.mem.wf = true := ⟨rfl, rfl, rfl⟩

/-! ### Stores, blocks and regions -/

theorem Store.put_wf (t : Store) (a v n : Nat) (h : t.mem.wf = true) : (t.put a v n).mem.wf = true :=
  Memory.wf_lePut _ _ _ _ h

theorem Store.putBlock_wf (t : Store) (a : Nat) (b : Block) (d : Option Desc) (h : t.mem.wf = true) :
    (t.putBlock a b d).mem.wf = true := by
  simp only [Store.putBlock]
  exact Memory.wf_lePut _ _ _ _ h

@[simp] theorem Store.setFull_mem (t : Store) (a : Nat) (b : Bool) : (t.setFull a b).mem = t.mem := rfl
@[simp] theorem Store.stampLoad_mem (t : Store) (a pts lease : Nat) : (t.stampLoad a pts lease).2.mem = t.mem := rfl
@[simp] theorem Store.stampWrite_mem (t : Store) (a pts : Nat) : (t.stampWrite a pts).2.mem = t.mem := rfl

/-! ### The image of a region (R347) -/

/-- Every key lies in a range. -/
def within (m : Sparse α) (lo hi : Nat) : Prop := ∀ e ∈ m, lo ≤ e.1 ∧ e.1 < hi

theorem within_sset (d : α) (m : Sparse α) (k : Nat) (v : α) (lo hi : Nat) (h : within m lo hi) (h1 : lo ≤ k) (h2 : k < hi) :
    within (sset d m k v) lo hi := by
  induction m with
  | nil =>
    intro e he
    simp only [sset] at he
    split at he
    · simp at he
    · simp only [List.mem_singleton] at he
      subst he
      exact ⟨h1, h2⟩
  | cons e m ih =>
    obtain ⟨k', v'⟩ := e
    have hm : within m lo hi := fun e he => h e (by simp [he])
    intro e he
    simp only [sset] at he
    split at he
    · split at he
      · exact h e he
      · rcases List.mem_cons.1 he with rfl | he
        · exact ⟨h1, h2⟩
        · exact h e he
    · split at he
      · split at he
        · exact hm e he
        · rcases List.mem_cons.1 he with rfl | he
          · exact ⟨h1, h2⟩
          · exact hm e he
      · rcases List.mem_cons.1 he with rfl | he
        · exact h (k', v') (by simp)
        · exact ih hm e he

theorem within_lePut (m : Memory) (a v n lo hi : Nat) (h : within m lo hi) (h1 : lo ≤ a) (h2 : a + n ≤ hi) :
    within (lePut m a v n) lo hi := by
  induction n generalizing m a v with
  | zero => exact h
  | succ n ih => exact ih _ _ _ (within_sset 0 m a _ lo hi h h1 (by omega)) (by omega) (by omega)

/-- The packed bits are a canonical memory. -/
theorem packBits_wf (m : Sparse Bool) (lo hi base : Nat) : Memory.wf (packBits m lo hi base) = true := by
  suffices h : ∀ (l : Sparse Bool) (acc : Memory), acc.wf = true → Memory.wf (l.foldl (fun acc e =>
      let k := base + (e.1 - lo) / 8
      sset 0 acc k (sget 0 acc k ||| BitVec.ofNat 8 (2 ^ ((e.1 - lo) % 8)))) acc) = true from h _ _ rfl
  intro l
  induction l with
  | nil => exact fun _ h => h
  | cons e l ih => exact fun acc h => ih _ (swf_sset 0 acc _ _ h)

theorem packBits_within (m : Sparse Bool) (lo hi base : Nat) (n : Nat) (hn : hi - lo ≤ 8 * n) :
    within (packBits m lo hi base) base (base + n) := by
  suffices h : ∀ (l : Sparse Bool) (acc : Memory), (∀ e ∈ l, lo ≤ e.1 ∧ e.1 < hi) → within acc base (base + n) →
      within (l.foldl (fun acc e =>
        let k := base + (e.1 - lo) / 8
        sset 0 acc k (sget 0 acc k ||| BitVec.ofNat 8 (2 ^ ((e.1 - lo) % 8)))) acc) base (base + n) from
    h _ _ (fun e he => by simpa using (List.mem_filter.1 he).2) (fun e he => by simp at he)
  intro l
  induction l with
  | nil => exact fun _ _ h => h
  | cons e l ih =>
    intro acc hl h
    have he := hl e (by simp)
    exact ih _ (fun e he => hl e (by simp [he])) (within_sset 0 acc _ _ _ _ h (by omega) (by omega))

/-- Packed numbers over a canonical memory are a canonical memory. -/
theorem packNums_wf (m : Sparse Nat) (lo hi base step n : Nat) (acc : Memory) (h : acc.wf = true) :
    Memory.wf (packNums m lo hi base step n acc) = true := by
  unfold packNums
  generalize m.filter _ = l
  induction l generalizing acc with
  | nil => exact h
  | cons e l ih => exact ih _ (Memory.wf_lePut _ _ _ _ h)

theorem packNums_within (m : Sparse Nat) (lo hi base step n : Nat) (acc : Memory) (bot top : Nat) (h : within acc bot top)
    (hb : bot ≤ base) (ht : base + (hi - lo) * step + n ≤ top + step) : within (packNums m lo hi base step n acc) bot top := by
  suffices hl : ∀ (l : Sparse Nat) (acc : Memory), (∀ e ∈ l, lo ≤ e.1 ∧ e.1 < hi) → within acc bot top →
      within (l.foldl (fun acc e => lePut acc (base + (e.1 - lo) * step) e.2 n) acc) bot top from
    hl _ _ (fun e he => by simpa using (List.mem_filter.1 he).2) h
  intro l
  induction l with
  | nil => exact fun _ _ h => h
  | cons e l ih =>
    intro acc hl h
    have he := hl e (by simp)
    have hm : (e.1 - lo + 1) * step ≤ (hi - lo) * step := Nat.mul_le_mul_right _ (by omega)
    rw [Nat.succ_mul] at hm
    exact ih _ (fun e he => hl e (by simp [he])) (within_lePut acc _ _ _ _ _ h (by omega) (by omega))

theorem swf_append (d : α) (m n : Sparse α) (lo mid hi : Nat) (hm : swf d m = true) (hn : swf d n = true)
    (h1 : within m lo mid) (h2 : within n mid hi) : swf d (m ++ n) = true := by
  rw [swf_iff] at *
  refine ⟨fun e he => (List.mem_append.1 he).elim (hm.1 e) (hn.1 e), rising_append m n hm.2 hn.2 fun e he f hf => ?_⟩
  have := (h1 e he).2
  have := (h2 f hf).1
  omega

omit [DecidableEq α] in
theorem within_append (m n : Sparse α) (lo mid hi : Nat) (h1 : within m lo mid) (h2 : within n mid hi) (ha : lo ≤ mid) (hb : mid ≤ hi) :
    within (m ++ n) lo hi := fun e he => (List.mem_append.1 he).elim
  (fun h => by have := h1 e h; omega) (fun h => by have := h2 e h; omega)

omit [DecidableEq α] in
theorem within_mono (m : Sparse α) (lo hi lo' hi' : Nat) (h : within m lo hi) (h1 : lo' ≤ lo) (h2 : hi ≤ hi') : within m lo' hi' :=
  fun e he => by have := h e he; omega

omit [DecidableEq α] in
theorem within_nil (lo hi : Nat) : within ([] : Sparse α) lo hi := fun e he => by simp at he

/-- The image of a region is canonical and stays in the bytes the layout gives it. -/
theorem Core.image_wf (c : Core) (r base : Nat) (h : c.spad.mem.wf = true) :
    Memory.wf (c.image r base) = true ∧ within (c.image r base) base (base + imageSize r) := by
  unfold Core.image
  split
  · rename_i hr
    have a1 := Memory.wf_smove c.spad.mem (r * 65536) (r * 65536 + 65536) base h
    have b1 : within (smove c.spad.mem (r * 65536) (r * 65536 + 65536) base) base (base + 0x10000) := fun e he => by
      have := smove_keys _ _ _ _ e he; omega
    have a2 := packBits_wf c.spad.fe (r * 65536 / 4) (r * 65536 / 4 + 16384) (base + 0x10000)
    have b2 := packBits_within c.spad.fe (r * 65536 / 4) (r * 65536 / 4 + 16384) (base + 0x10000) 2048 (by omega)
    have a3 := packNums_wf (natMap BitVec.toNat c.spad.desc) (r * 65536 / 64) (r * 65536 / 64 + 1024) (base + 0x10800) 2 2 [] rfl
    have b3 := packNums_within (natMap BitVec.toNat c.spad.desc) (r * 65536 / 64) (r * 65536 / 64 + 1024) (base + 0x10800) 2 2 []
      (base + 0x10800) (base + 0x11000) (within_nil _ _) (by omega) (by omega)
    have a4 := packNums_wf c.spad.wts (r * 65536 / 64) (r * 65536 / 64 + 1024) (base + 0x11000) 8 4 [] rfl
    have b4 := packNums_within c.spad.wts (r * 65536 / 64) (r * 65536 / 64 + 1024) (base + 0x11000) 8 4 []
      (base + 0x11000) (base + 0x13000) (within_nil _ _) (by omega) (by omega)
    have a5 := packNums_wf c.spad.rts (r * 65536 / 64) (r * 65536 / 64 + 1024) (base + 0x11004) 8 4 _ a4
    have b5 := packNums_within c.spad.rts (r * 65536 / 64) (r * 65536 / 64 + 1024) (base + 0x11004) 8 4 _
      (base + 0x11000) (base + 0x13000) b4 (by omega) (by omega)
    have a12 := swf_append 0 _ _ base (base + 0x10000) (base + 0x10800) a1 a2 b1 b2
    have b12 := within_append _ _ base (base + 0x10000) (base + 0x10800) b1 b2 (by omega) (by omega)
    have a123 := swf_append 0 _ _ base (base + 0x10800) (base + 0x11000) a12 a3 b12 b3
    have b123 := within_append _ _ base (base + 0x10800) (base + 0x11000) b12 b3 (by omega) (by omega)
    refine ⟨swf_append 0 _ _ base (base + 0x11000) (base + 0x13000) a123 a5 b123 b5, ?_⟩
    exact within_mono _ _ _ _ _ (within_append _ _ base (base + 0x11000) (base + 0x13000) b123 b5 (by omega) (by omega))
      (by omega) (by simp [imageSize, hr])
  · split
    · rename_i hr hr2
      have a1 := packNums_wf (natMap BitVec.toNat c.acc) ((r - 16) * 4 * 4096) ((r - 16) * 4 * 4096 + 16384) base 4 4 [] rfl
      have b1 := packNums_within (natMap BitVec.toNat c.acc) ((r - 16) * 4 * 4096) ((r - 16) * 4 * 4096 + 16384) base 4 4 []
        base (base + 0x10000) (within_nil _ _) (by omega) (by omega)
      have a2 := packBits_wf c.tmode ((r - 16) * 4) ((r - 16) * 4 + 4) (base + 0x10000)
      have b2 := packBits_within c.tmode ((r - 16) * 4) ((r - 16) * 4 + 4) (base + 0x10000) 1 (by omega)
      refine ⟨swf_append 0 _ _ base (base + 0x10000) (base + 0x10001) a1 a2 b1 b2, ?_⟩
      exact within_mono _ _ _ _ _ (within_append _ _ base (base + 0x10000) (base + 0x10001) b1 b2 (by omega) (by omega))
        (by omega) (by simp [imageSize, hr, hr2])
    · rename_i hr hr2
      have a1 := packNums_wf (natMap (fun d => d.data.toNat) c.wb) ((r - 40) * 16 * 64) ((r - 40) * 16 * 64 + 1024) base 64 64 [] rfl
      have b1 := packNums_within (natMap (fun d => d.data.toNat) c.wb) ((r - 40) * 16 * 64) ((r - 40) * 16 * 64 + 1024) base 64 64 []
        base (base + 0x10000) (within_nil _ _) (by omega) (by omega)
      have a2 := packNums_wf (natMap (fun d => d.mask.toNat) c.wb) ((r - 40) * 16 * 64) ((r - 40) * 16 * 64 + 1024)
        (base + 0x10000) 16 16 [] rfl
      have b2 := packNums_within (natMap (fun d => d.mask.toNat) c.wb) ((r - 40) * 16 * 64) ((r - 40) * 16 * 64 + 1024)
        (base + 0x10000) 16 16 [] (base + 0x10000) (base + 0x14000) (within_nil _ _) (by omega) (by omega)
      have a3 := packNums_wf (natMap (fun d => d.desc.toNat) c.wb) ((r - 40) * 16 * 64) ((r - 40) * 16 * 64 + 1024)
        (base + 0x14000) 2 2 [] rfl
      have b3 := packNums_within (natMap (fun d => d.desc.toNat) c.wb) ((r - 40) * 16 * 64) ((r - 40) * 16 * 64 + 1024)
        (base + 0x14000) 2 2 [] (base + 0x14000) (base + 0x14800) (within_nil _ _) (by omega) (by omega)
      have a12 := swf_append 0 _ _ base (base + 0x10000) (base + 0x14000) a1 a2 b1 b2
      have b12 := within_append _ _ base (base + 0x10000) (base + 0x14000) b1 b2 (by omega) (by omega)
      refine ⟨swf_append 0 _ _ base (base + 0x14000) (base + 0x14800) a12 a3 b12 b3, ?_⟩
      exact within_mono _ _ _ _ _ (within_append _ _ base (base + 0x14000) (base + 0x14800) b12 b3 (by omega) (by omega))
        (by omega) (by simp [imageSize, hr, hr2])

/-- Writing a region's image into a store keeps its memory canonical. -/
theorem Store.putImage_wf (st : Store) (c : Core) (r base : Nat) (h : st.mem.wf = true) (hc : c.spad.mem.wf = true) :
    (st.putImage c r base).mem.wf = true := by
  obtain ⟨h1, h2⟩ := c.image_wf r base hc
  exact Memory.wf_splice _ _ _ _ h (swf_filter 0 _ _ h1) (fun e he => h2 e (List.mem_filter.1 he).1) (by omega)

/-- Putting a region into the zero state keeps the scratchpad's memory canonical. -/
theorem Core.zeroRegion_wf (c : Core) (r : Nat) (h : c.spad.mem.wf = true) : (c.zeroRegion r).spad.mem.wf = true := by
  unfold Core.zeroRegion
  split
  · exact Memory.wf_sdrop _ _ _ h
  · split <;> exact h

/-- Filling a region from an image keeps the scratchpad's memory canonical. -/
theorem Core.fillRegion_wf (c : Core) (r base : Nat) (st : Store) (h : c.spad.mem.wf = true) (hs : st.mem.wf = true) :
    (c.fillRegion r base st).spad.mem.wf = true := by
  have hz := c.zeroRegion_wf r h
  unfold Core.fillRegion
  split
  · refine Memory.wf_splice _ _ _ _ hz (Memory.wf_smove _ _ _ _ hs) (fun e he => ?_) (by omega)
    have := smove_keys _ _ _ _ e he
    omega
  · split <;> exact hz

end Sys2Proof.Machine
end

