-- ==== Sys2Proof/Tests/Slice0.lean ====
section
/-! SUPPORT. Tests of the model on small states: words of the spec decode as they should and ill-formed instructions are refused;
for each statement with hypotheses a witness that meets them, clause by clause; worked examples of the spec; a step. -/

namespace Sys2Proof.Tests

set_option maxRecDepth 8000
set_option Elab.async false

open Sys2Proof.Machine

/-! ### States -/

/-- A task in its start state on core 0, with every region granted (R274). -/
def s0 : State := State.reset.withTask.ready

/-- `s0` with bytes put into HBM. -/
def poke (s : State) (a v n : Nat) : State :=
  s.updPkg fun k => { k with hbm := { k.hbm with mem := lePut k.hbm.mem a v n } }

/-- `s0` with one context in slot 0 of partition 0: gang 1, ASID 1, rank 0 of 2, cores 0 and 1, page tables at 0x1000 whose
first 1 GiB is one SYSA and XDEV leaf at physical address 0 (R335, R237), and channels: 0 undeclared, 1 FP32 sums with 4
elements to rank 0, 2 raw and single, 3 a collective, 4 and 5 a pipe (R314). The second 1 GiB is a read-only leaf at address 0. The
die stores, stacks, links, the Ethernet port and the switch are ready (R367). -/
def s1 : State :=
  let t := s0.updPkg fun k => { k with hbm := {}, regs := { k.regs with funcready := (List.range 22).map (1024 + ·) } }
  let t := t.updPart 0 fun q => { q with cores := [0, 1], regs := { q.regs with ctxtab := 0, chanbase := 0x400, imgtab := 0x3000 } }
  let t := poke (t.putEntry 0 placedImage) 32 1 4
  let t := poke (poke (poke (poke (poke t 0 1 2) 2 1 2) 6 2 2) 8 0x1000 8) 36 2 4
  let t := poke (poke (poke (poke t 40 0x200 8) 48 0x300 8) 0x200 0x80018000 4) 0x300 0x00010000 4
  let t := poke (poke (poke t 0x1000 0x2001 8) 0x2000 0x33 8) 0x2008 0x43 8
  poke (poke (poke (poke (poke t 0x410 0x01030101 4) 0x420 0x01000031 4) 0x430 0x03 4) 0x440 0x02 4) 0x450 0x01000032 4

/-- `s0` with the operands of a memory operation: x2 an address of the scratchpad, x3 zero. -/
def withX (s : State) (n : Nat) (v : Word) : State := s.updTh fun t => { t with x := sset 0 t.x n v }

/-- `s0` in handler mode, after a reported fault. -/
def sH : State := s0.updTh fun t => { t with mode := .handler, csr := { t.csr with estat := 1, trapvec := 1 }, snap := some {} }

/-- What the next state of an outcome satisfies. -/
def nextIs (r : Host.Outcome State Fault Refusal) (f : State → Bool) : Bool :=
  match r with
  | .next t => f t
  | _ => false

/-- A command of the task of `s0`, with token 2. -/
def cmd0 : Cmd :=
  { ref := 0, tid := 1, task := placedTask, own := 0, after := 0, instr := .ccp 0 2 0 2 0, sword := 0, slot := 0, baddr := 0, tok := 2, fl := 0,
    due := 0, blk := List.replicate 16 0, xa := 0, xb := 0 }

/-- `s0` with x2 the last row of 256 bytes of the scratchpad, p1 lanes 0 and 63, all words full. -/
def sV (full : Bool) : State :=
  ((withX s0 2 0xFFF00).updTh fun t => { t with p := sset 0 t.p 1 0x8000000000000001 }).updCore fun c =>
    { c with spad := { c.spad with fe := if full then sset false (sset false [] 0x3FFC0 true) 0x3FFFF true else [] } }


/-- The descriptor of slot 0 of `s1`. -/
def d1 : CtxDesc :=
  { slot := 0, gang := 1, asid := 1, rank := 0, gangsz := 2, root := 0x1000, save := 0, kennel := 0, ksize := 1, ncore := 2,
    cmap := 0x200, pmap := 0x300 }

/-- A state with operands for a step of the device. -/
def evs (s : State) (e : Stim) : State := { s with ev := e }

/-- Changes of the running task, of the package and of partition 0. -/
def th (s : State) (f : Thread → Thread) : State := s.updTh f
def pk (s : State) (f : Package → Package) : State := s.updPkg f
def part0 (s : State) (f : Partition → Partition) : State := s.updPart 0 f

/-- `s` with one image in partition 0, with its table entry. -/
def img (s : State) (i : Image) : State := (part0 s fun q => { q with images := [i] }).putEntry 0 i

/-- The 1 GiB leaf of `s1`. -/
def leaf1 : TlbEnt := ⟨1, 0, 2 ^ 30, 0, 12⟩

/-- A nest in the M queue, and a tile move behind it. -/
def nest0 : MOp := { instr := .ngo 0, seq := 0, slot := 0, sword := 0, baddr := 0, xa := 0, xb := 0, cfg := {}, scale := [] }
def move0 : MOp := { nest0 with instr := .tmov 0 1 2, seq := 1 }

/-- An image whose text is one page at VA 0x100000. -/
def image1 : Image := { placedImage with textVa := 0x100000, textLen := 16 }

/-- A queued access of the task of `s0` at byte 0xFFFFC of its scratchpad. -/
def acc0 (i : Instr) : QAcc := { tid := 1, task := placedTask, instr := i, va := 0xFFFFC, place := .spad 0 0xFFFFC, b := 1 }

/-- A copy of one row of 64 bytes from 0 to 64 of the own scratchpad, with a signal at 0x1000. -/
def copy0 : Cmd := { cmd0 with blk := [0, 0, 64, 0, 64, 1, 0, 0, 0, 0, 0x1000, 0, 7, 1, 0, 0] }

/-- The same on an engine, its one step at hand. -/
def copy1 : Cmd := { copy0 with eng := some 0, next := [⟨0, 0, 0, 64⟩] }

/-- A packet that arrives for gang 1 of partition 0. -/
def pkt0 : Packet := { gang := 1, payload := [1, 2, 3, 4] }

/-! ### Decoding -/

/-- Whether the decoder reads an operation from a slot word and its extension byte. -/
def reads (e : Option Nat) (w : Nat) (i : Instr) : Bool :=
  match decodeSlot e w with
  | .ok j => decide (j = i)
  | .error _ => false

/-- Whether the decoder refuses a slot word with ILLOP. -/
def illop (e : Option Nat) (w : Nat) : Bool :=
  match decodeSlot e w with
  | .error .illop => true
  | _ => false

/-- Words of MAJ 0x0 (XA), their fields put together as R16 and R28 lay them out (R75 to R77). -/
theorem test_decode_XA : ∀ e ∈ [
    (0x03007209, Instr.add 3 7 8 9), (0x03047209, .sub 3 7 8 9), (0x03087209, .and 3 7 8 9), (0x030C7209, .or 3 7 8 9),
    (0x03107209, .xor 3 7 8 9), (0x03147209, .andn 3 7 8 9), (0x03187209, .shl 3 7 8 9), (0x031C7209, .shr 3 7 8 9),
    (0x03207209, .sar 3 7 8 9), (0x03247209, .rotr 3 7 8 9), (0x03287209, .slt 3 7 8 9), (0x032C7209, .sltu 3 7 8 9),
    (0x03307209, .seq 3 7 8 9), (0x03347209, .sne 3 7 8 9), (0x03387209, .min 3 7 8 9), (0x033C7209, .max 3 7 8 9),
    (0x03407209, .minu 3 7 8 9), (0x03447209, .maxu 3 7 8 9), (0x03487209, .mul 3 7 8 9), (0x034C7209, .mulh 3 7 8 9),
    (0x03507209, .mulhu 3 7 8 9), (0x03547209, .div 3 7 8 9), (0x03587209, .divu 3 7 8 9), (0x035C7209, .rem 3 7 8 9),
    (0x03607209, .remu 3 7 8 9), (0x03647200, .clz 3 7 8), (0x03687200, .ctz 3 7 8), (0x036C7200, .popc 3 7 8),
    (0x03707209, .sel 3 7 8 9), (0x03747209, .bfx 3 7 8 9), (0x03787209, .bfi 3 7 8 9)
    ], reads none e.1 e.2 = true := by decide +kernel

/-- Words of MAJ 0x1 (XI), their fields put together as R16 and R28 lay them out (R78). -/
theorem test_decode_XI : ∀ e ∈ [
    (0x1301C8FD, Instr.addi 3 7 8 (-3)), (0x1311C8FD, .andi 3 7 8 (-3)), (0x1321C8FD, .ori 3 7 8 (-3)),
    (0x1331C8FD, .xori 3 7 8 (-3)), (0x1341C813, .shli 3 7 8 19), (0x1351C813, .shri 3 7 8 19), (0x1361C813, .sari 3 7 8 19),
    (0x1371C8FD, .slti 3 7 8 (-3)), (0x1381C8FD, .sltui 3 7 8 (-3)), (0x1391C8FD, .seqi 3 7 8 (-3)),
    (0x13A1C8FD, .mini 3 7 8 (-3)), (0x13B1C8FD, .maxi 3 7 8 (-3)), (0x13C1C8FD, .muli 3 7 8 (-3))
    ], reads none e.1 e.2 = true := by decide +kernel

/-- Words of MAJ 0x2 (XL), their fields put together as R16 and R28 lay them out (R79). -/
theorem test_decode_XL : ∀ e ∈ [
    (0x2307FFFD, Instr.li 3 7 (-3)), (0x2347ABCD, .lhi 3 7 43981), (0x2387FFFD, .lpc 3 7 (-3))
    ], reads none e.1 e.2 = true := by decide +kernel

/-- Words of MAJ 0x3 (XB), their fields put together as R16 and R28 lay them out (R80 to R85). -/
theorem test_decode_XB : ∀ e ∈ [
    (0x3301FFFF, Instr.br 3 7 (-1)), (0x3311FFFF, .brn 3 7 (-1)), (0x33223FFF, .bz 3 8 (-1)), (0x33323FFF, .bnz 3 8 (-1)),
    (0x33403FFF, .jmp 3 (-1)), (0x33503FFF, .call 3 (-1)), (0x33623FFF, .jr 3 8 (-1)), (0x33723FFF, .calr 3 8 (-1)),
    (0x33803FFF, .brlc 3 (-1)), (0x33920021, .loops 3 8 33)
    ], reads none e.1 e.2 = true := by decide +kernel

/-- Words of MAJ 0x4 (XM), their fields put together as R16 and R28 lay them out (R128, R129). -/
theorem test_decode_XM : ∀ e ∈ [
    (0x4301C8FD, Instr.ldW 3 7 8 (-3)), (0x4311C8FD, .ldH 3 7 8 (-3)), (0x4321C8FD, .ldHu 3 7 8 (-3)),
    (0x4331C8FD, .ldB 3 7 8 (-3)), (0x4341C8FD, .ldBu 3 7 8 (-3)), (0x4351C8FD, .stW 3 7 8 (-3)), (0x4361C8FD, .stH 3 7 8 (-3)),
    (0x4371C8FD, .stB 3 7 8 (-3)), (0x4381C8FD, .ldf 3 7 8 (-3)), (0x4391C8FD, .ldfe 3 7 8 (-3)),
    (0x43A1C8FD, .stef 3 7 8 (-3)), (0x43B1C8FD, .stf 3 7 8 (-3)), (0x43C008FD, .clrf 3 8 (-3))
    ], reads none e.1 e.2 = true := by decide +kernel

/-- Words of MAJ 0x5 (XS), their fields put together as R16 and R28 lay them out (R86 to R102). -/
theorem test_decode_XS : ∀ e ∈ [
    (0x53007009, Instr.csrr 3 7 9), (0x53047009, .csrw 3 7 9), (0x53087009, .csrs 3 7 9), (0x530C7009, .csrc 3 7 9),
    (0x531070C8, .trap 3 7 200), (0x53140000, .eret 3), (0x531BECFE, .wait 3 31 12 63 2), (0x531C00A5, .twait 3 165),
    (0x53200A40, .gjoin 3 41), (0x53240A40, .gleave 3 41), (0x53280A40, .gsync 3 41), (0x532C0000, .fold 3),
    (0x53307009, .tdom 3 7 9), (0x53347002, .tbud 3 7 2), (0x53387209, .snapr 3 7 8 9), (0x533C7209, .snapw 3 7 8 9),
    (0x53407209, .tlook 3 7 8 9), (0x53447209, .tins 3 7 8 9), (0x53480209, .tinvVa 3 8 9), (0x53487000, .tinvEntry 3 7),
    (0x534C7209, .pand 3 7 8 9), (0x53507209, .por 3 7 8 9), (0x53547209, .pxor 3 7 8 9), (0x53587209, .pandn 3 7 8 9),
    (0x535C7200, .pnez 3 7 8), (0x53607201, .pget 3 7 8 1), (0x53647201, .pput 3 7 8 1), (0x53687200, .pcnt 3 7 8),
    (0x536C7200, .pfirst 3 7 8), (0x53707002, .rtime 3 7 2)
    ], reads none e.1 e.2 = true := by decide +kernel

/-- Words of MAJ 0x6 (VA), their fields put together as R16 and R28 lay them out (R108 to R114). -/
theorem test_decode_VA : ∀ e ∈ [
    (0x63007209, Instr.vaddF 3 7 8 9), (0x63047209, .vsubF 3 7 8 9), (0x63087209, .vmulF 3 7 8 9), (0x630C7209, .vfmaF 3 7 8 9),
    (0x63107209, .vfmsF 3 7 8 9), (0x63147209, .vfnmaF 3 7 8 9), (0x63187209, .vminF 3 7 8 9), (0x631C7209, .vmaxF 3 7 8 9),
    (0x63207200, .vabsF 3 7 8), (0x63247200, .vnegF 3 7 8), (0x63287209, .vdivF 3 7 8 9), (0x632C7200, .vsqrtF 3 7 8),
    (0x63307200, .vrsqrtF 3 7 8), (0x63347200, .vrcpF 3 7 8), (0x63387200, .vexp2F 3 7 8), (0x633C7200, .vlog2F 3 7 8),
    (0x63407209, .vfeq 3 7 8 9), (0x63447209, .vfne 3 7 8 9), (0x63487209, .vflt 3 7 8 9), (0x634C7209, .vfle 3 7 8 9),
    (0x63507209, .vfun 3 7 8 9), (0x63547209, .vsel 3 7 8 9), (0x63587200, .vsumF 3 7 8), (0x635C7200, .vmaxrF 3 7 8),
    (0x63607200, .vminrF 3 7 8), (0x63647200, .vroundF 3 7 8), (0x63687200, .vtruncF 3 7 8)
    ], reads none e.1 e.2 = true := by decide +kernel

/-- Words of MAJ 0x7 (VB), their fields put together as R16 and R28 lay them out (R115 to R121). -/
theorem test_decode_VB : ∀ e ∈ [
    (0x73007209, Instr.vaddI 3 7 8 9), (0x73047209, .vsubI 3 7 8 9), (0x73087209, .vmulI 3 7 8 9),
    (0x730C7209, .vmulhI 3 7 8 9), (0x73107209, .vand 3 7 8 9), (0x73147209, .vor 3 7 8 9), (0x73187209, .vxor 3 7 8 9),
    (0x731C7209, .vshl 3 7 8 9), (0x73207209, .vshr 3 7 8 9), (0x73247209, .vsar 3 7 8 9), (0x73287209, .vminI 3 7 8 9),
    (0x732C7209, .vmaxI 3 7 8 9), (0x73307209, .vminuI 3 7 8 9), (0x73347209, .vmaxuI 3 7 8 9), (0x73387209, .vieq 3 7 8 9),
    (0x733C7209, .vilt 3 7 8 9), (0x73407209, .viltu 3 7 8 9), (0x73447200, .vsumI 3 7 8), (0x73487200, .vbcast 3 7 8),
    (0x734C7209, .vgetl 3 7 8 9), (0x73507209, .vsetl 3 7 8 9), (0x73547209, .vperm 3 7 8 9), (0x73587209, .vrot 3 7 8 9),
    (0x735C7000, .vid 3 7), (0x73607200, .vcvtFi 3 7 8), (0x73647200, .vcvtIf 3 7 8), (0x73687200, .vtruncI 3 7 8),
    (0x736C721B, .vpackBf 3 7 8 1 11), (0x7370721B, .vpackH 3 7 8 1 11), (0x7374723B, .vpackD8 3 7 8 3 11),
    (0x7378723B, .vpackI8 3 7 8 3 11), (0x737C7210, .vunpkBf 3 7 8 1), (0x73807210, .vunpkH 3 7 8 1),
    (0x73847230, .vunpkD8 3 7 8 3), (0x73887230, .vunpkI8 3 7 8 3)
    ], reads none e.1 e.2 = true := by decide +kernel

/-- Words of MAJ 0x8 (VM), their fields put together as R16 and R28 lay them out (R142 to R149). -/
theorem test_decode_VM : ∀ e ∈ [
    (0x8300723D, Instr.vld 3 7 8 (-3)), (0x8304723D, .vst 3 7 8 (-3)), (0x83087209, .vlds 3 7 8 9), (0x830C7209, .vsts 3 7 8 9),
    (0x83107209, .vldx 3 7 8 9), (0x83147209, .vstx 3 7 8 9), (0x8318723D, .vldf 3 7 8 (-3)), (0x831C723D, .vstf 3 7 8 (-3)),
    (0x8320023D, .vqld 3 8 (-3)), (0x8324723D, .vqst 3 7 8 (-3)), (0x8328723D, .vldd 3 7 8 (-3)), (0x832C7209, .vstd 3 7 8 9),
    (0x83307209, .vprn24 3 7 8 9), (0x83347209, .vprn48 3 7 8 9), (0x83387209, .vsdot 3 7 8 9), (0x833C7200, .vexpd 3 7 8),
    (0x83407209, .vdot4I8 3 7 8 9), (0x83447209, .vdot2Bf 3 7 8 9)
    ], reads none e.1 e.2 = true := by decide +kernel

/-- Words of MAJ 0x9 (MA), their fields put together as R16 and R28 lay them out (R157 to R172). -/
theorem test_decode_MA : ∀ e ∈ [
    (0x93009200, Instr.nset 3 9 8), (0x93049FFD, .nseti 3 9 (-3)), (0x93080000, .ngo 3), (0x930C0001, .nstop 3 1),
    (0x93100200, .cseq 3 8), (0x93140200, .mscl 3 8), (0x93185181, .tzero 3 5 6 1), (0x931C5209, .tout 3 5 8 9),
    (0x93205209, .tin 3 5 8 9), (0x93245209, .tacc 3 5 8 9), (0x93285080, .tmov 3 5 2), (0x932C9209, .wbld 3 9 8 9),
    (0x93309080, .wprn24 3 9 2), (0x93349080, .wprn48 3 9 2), (0x93385088, .tmma 3 5 2 8)
    ], reads none e.1 e.2 = true := by decide +kernel

/-- Words of MAJ 0xB (CC), their fields put together as R16 and R28 lay them out (R176 to R187). -/
theorem test_decode_CC : ∀ e ∈ [
    (0xB3029209, Instr.ccp 3 5 1 8 9), (0xB3069209, .cnd 3 5 1 8 9), (0xB30A9209, .cgat 3 5 1 8 9),
    (0xB30E9209, .csct 3 5 1 8 9), (0xB312C209, .cwb 3 5 4 8 9), (0xB3169209, .cfill 3 5 1 8 9), (0xB31A9209, .cred 3 5 1 8 9),
    (0xB31EC209, .csig 3 5 4 8 9)
    ], reads none e.1 e.2 = true := by decide +kernel

/-- Words of MAJ 0xC (CN), their fields put together as R16 and R28 lay them out (R190 to R196). -/
theorem test_decode_CN : ∀ e ∈ [
    (0xC303A240, Instr.chbind 3 58 9), (0xC303A001, .chbindUnbind 3 58), (0xC3049200, .csnd 3 9 8), (0xC3087240, .crcv 3 7 9),
    (0xC30C7240, .crad 3 7 9), (0xC3100200, .fld 3 8), (0xC3140209, .fst 3 8 9), (0xC3180209, .famoAdd 3 8 9),
    (0xC31C0209, .famoMax 3 8 9), (0xC3200209, .famoOr 3 8 9), (0xC3240209, .famoSwap 3 8 9), (0xC32AD209, .xar 3 5 5 8 9),
    (0xC32ED209, .xrs 3 5 5 8 9), (0xC332D209, .xag 3 5 5 8 9), (0xC336D209, .xbc 3 5 5 8 9), (0xC33AD209, .xmrg 3 5 5 8 9),
    (0xC33ED209, .xred 3 5 5 8 9), (0xC342D209, .xbar 3 5 5 8 9)
    ], reads none e.1 e.2 = true := by decide +kernel

/-- Words of MAJ 0xD (XQ), their fields put together as R16 and R28 lay them out (R131 to R139). -/
theorem test_decode_XQ : ∀ e ∈ [
    (0xD3000209, Instr.qldW 3 8 9), (0xD3040209, .qldH 3 8 9), (0xD3080209, .qldB 3 8 9), (0xD30C7209, .qstW 3 7 8 9),
    (0xD3107209, .qstH 3 7 8 9), (0xD3147209, .qstB 3 7 8 9), (0xD3180209, .amoAdd 3 8 9), (0xD31C0209, .amoAnd 3 8 9),
    (0xD3200209, .amoOr 3 8 9), (0xD3240209, .amoXor 3 8 9), (0xD3280209, .amoMin 3 8 9), (0xD32C0209, .amoMax 3 8 9),
    (0xD3300209, .amoMinu 3 8 9), (0xD3340209, .amoMaxu 3 8 9), (0xD3380209, .amoSwap 3 8 9), (0xD33C7209, .amoCas 3 7 8 9),
    (0xD3400200, .rwlRd 3 8), (0xD3440200, .rwlWr 3 8), (0xD3480200, .rwlRu 3 8), (0xD34C0200, .rwlWu 3 8),
    (0xD3500209, .waita 3 8 9), (0xD3540209, .waitc 3 8 9)
    ], reads none e.1 e.2 = true := by decide +kernel

/-- The two bundles that the spec encodes, word for word (after R29). -/
theorem test_decode_bundles :
    (match decodeBundle 0x00005187 0x10020804 0x600CA2CC 0 with
      | .ok b => !b.endBit && !b.vj && decide (b.ops.map (·.op) = [.add 0 5 6 7, .addi 0 8 8 4, .vfmaF 0 10 11 12])
      | .error _ => false) = true
    ∧ (match decodeBundle 0xF8800100 0x66028A6A 0x20091170 0 with
      | .ok b => b.endBit && !b.vj && decide (b.ops.map (·.op) = [.endB false, .vaddF 70 40 41 42, .li 0 9 70000])
      | .error _ => false) = true := by decide +kernel

/-- The header bits END and VJOIN, and a header whose bits 25 and 24 are not zero (R10). -/
theorem test_decode_headers : decodeHeader 0xF8000000 = some (.endB false) ∧ decodeHeader 0xFC000000 = some (.endB true)
    ∧ decodeHeader 0xF4000000 = some .vjoin ∧ decodeHeader 0xF9000000 = none := by decide +kernel

/-- The extension byte: guard bits 6 to 4, bit 6 of a predicate or tile, and the high bits of each immediate (R13). -/
theorem test_decode_extensions :
    reads (some 0xE0) 0x0F0071C9 (.add 127 7 7 9) = true
    ∧ reads (some 0x1F) 0x10021CFF (.addi 0 8 28 (-1)) = true
    ∧ reads (some 0x10) 0x10021C00 (.addi 0 8 28 (-4096)) = true
    ∧ reads (some 0x0F) 0x2009FFFF (.li 0 9 1048575) = true
    ∧ reads (some 0x10) 0x30400000 (.jmp 0 (-262144)) = true
    ∧ reads (some 0x10) 0x80007200 (.vld 0 7 8 (-1024)) = true
    ∧ reads (some 0x1C) 0x504C7209 (.pand 0 71 72 73) = true
    ∧ reads (some 0x04) 0x80307209 (.vprn24 0 7 8 73) = true
    ∧ reads (some 0x18) 0x9028F7C0 (.tmov 0 79 95) = true
    ∧ reads (some 0) 0 .nop = true ∧ reads (some 0x20) 0 (.add 16 0 0 0) = true := by decide +kernel

/-- Words that the decoder refuses by name: an undefined minor, an extension that must be zero, x64, a tile above a95, the
reserved MAJ 0xA (R13, R19, R24, R28). -/
theorem test_decode_refuses : illop none 0x007C7209 = true ∧ illop (some 0x01) 0x00007209 = true ∧ illop (some 0x10) 0x00007209 = true
    ∧ illop (some 0x10) 0x90280000 = false ∧ illop (some 0x10) 0x902BF000 = true ∧ illop none 0x90188001 = true
    ∧ (match decodeSlot none 0xA0000000 with | .error .illslot => true | _ => false) = true := by decide +kernel

/-- A row of the table whose bits the decoder reads, header rows among them. -/
theorem test_decode_table_word : decodeTableWord 32 0x10020804 = some (.addi 0 8 8 4)
    ∧ decodeTableWord 32 0xF8000000 = some (.endB false) ∧ decodeTableWord 32 0xA0000000 = none := by decide +kernel

/-! ### Well-formedness -/

/-- An ill-formed operation for each register rule of R24 and R73, and its neighbour that is legal: x61, v63, p128, lq and vq
as a destination, a pair at x60 or at an odd place outside its limits. -/
theorem test_illformed_registers :
    (∀ i ∈ [Instr.add 0 61 1 1, .add 0 1 61 1, .add 0 1 1 63, .add 128 1 1 1, .add 0 56 1 1, .vaddF 0 63 1 1, .vaddF 0 1 63 1,
      .vaddF 0 62 1 1, .pand 0 128 1 1, .pand 0 1 1 128, .vprn24 0 1 1 128, .qldW 0 60 1, .crcv 0 63 1], wellFormed i = false)
    ∧ ∀ i ∈ [Instr.add 0 60 1 1, .add 0 1 56 60, .add 127 1 1 1, .vaddF 0 61 1 62, .pand 0 127 127 127, .vprn24 0 1 1 127,
      .qldW 0 54 1, .crcv 0 61 63], wellFormed i = true := by decide +kernel

/-- For each check of an immediate, a selector or a field (R12, R13, R16, R29, and the entries), an operation that fails it by
one. -/
theorem test_illformed_immediates : ∀ i ∈ [
    Instr.add 0 0 0 0, .addi 0 1 1 4096, .addi 0 1 1 (-4097), .muli 0 1 1 4096, .shli 0 1 1 32, .sari 0 1 1 (-1),
    .li 0 1 1048576, .lpc 0 1 (-1048577), .lhi 0 1 65536, .br 0 64 0, .brn 0 1 262144, .bz 0 1 (-262145), .jmp 0 262144,
    .brlc 0 262144, .loops 0 1 64, .ldW 0 1 1 4096, .clrf 0 1 4096, .csrr 0 1 5, .csrw 0 1 0xFFF, .trap 0 1 256, .wait 0 32 0 0 0,
    .wait 0 0 32 0 0, .wait 0 0 0 64 0, .wait 0 0 0 0 4, .twait 0 256, .gjoin 0 64, .gsync 0 64, .tdom 0 1 3, .tdom 0 1 7,
    .tdom 0 1 11, .tdom 0 1 14, .tbud 0 1 5, .rtime 0 1 3, .tinvEntry 0 0, .pget 0 1 1 2, .pput 0 1 1 2, .vpackBf 0 1 1 2 0,
    .vpackH 0 1 1 0 16, .vpackD8 0 1 1 4 0, .vpackI8 0 1 1 0 16, .vunpkBf 0 1 1 2, .vunpkD8 0 1 1 4, .vld 0 1 1 1024,
    .vqld 0 2 (-1025), .vldd 0 1 1 1024, .nset 0 5 1, .nset 0 32 1, .nseti 0 7 0, .nseti 0 0 2048, .nstop 0 2, .tzero 0 96 1 0,
    .tzero 0 0 0 0, .tzero 0 95 2 0, .tzero 0 0 64 0, .tzero 0 0 1 2, .tout 0 96 1 1, .tin 0 96 1 1, .tacc 0 96 1 1, .tmov 0 96 0,
    .tmov 0 0 96, .wbld 0 64 1 1, .wprn24 0 64 0, .wprn48 0 0 63, .tmma 0 96 0 1, .tmma 0 0 64 1, .ccp 0 8 0 1 1, .cnd 0 0 8 1 1,
    .cwb 0 0 1 1 1, .csig 0 0 2 1 1, .xar 0 0 2 1 1, .xbar 0 8 0 1 1, .chbind 0 56 0, .chbind 0 57 64, .chbindUnbind 0 61,
    .csnd 0 64 1, .crcv 0 1 64, .crad 0 1 64], wellFormed i = false := by decide +kernel

/-- The neighbours that are legal. -/
theorem test_wellformed_immediates : ∀ i ∈ [
    Instr.add 0 0 0 1, .add 1 0 0 0, .nop, .addi 0 1 1 4095, .addi 0 1 1 (-4096), .shli 0 1 1 31, .sari 0 1 1 0, .li 0 1 1048575,
    .lpc 0 1 (-1048576), .lhi 0 1 65535, .brn 0 1 262143, .bz 0 1 (-262144), .loops 0 1 63, .csrr 0 1 4, .trap 0 1 255,
    .wait 0 31 31 63 3, .twait 0 255, .gjoin 0 63, .tdom 0 1 13, .tbud 0 1 4, .rtime 0 1 2, .tinvEntry 0 1, .pget 0 1 1 1,
    .vpackBf 0 1 1 1 15, .vpackD8 0 1 1 3 15, .vunpkH 0 1 1 1, .vld 0 1 1 1023, .nset 0 31 1, .nseti 0 8 (-2048), .nstop 0 1,
    .tzero 0 33 63 1, .tmov 0 95 95, .wprn24 0 63 62, .tmma 0 95 63 1, .ccp 0 7 7 1 1, .cwb 0 7 4 1 1, .xar 0 7 5 1 1,
    .chbind 0 60 63, .csnd 0 63 1], wellFormed i = true := by decide +kernel

/-! ### The hypotheses of the statements can be met

One theorem for each statement with hypotheses: a state and operands that meet them, clause by clause. Where an operation
acts (`Acts`), the witness is its first case: presented at issue with nothing in its way. -/

/-- O1, O2: every operation of the statement acts in the start state of a task. -/
theorem witness_ScalarArithmeticResults : ∀ i ∈ [Instr.add 0 1 2 3, .sub 0 1 2 3, .and 0 1 2 3, .or 0 1 2 3, .xor 0 1 2 3, .andn 0 1 2 3,
    .shl 0 1 2 3, .shr 0 1 2 3, .sar 0 1 2 3, .rotr 0 1 2 3, .slt 0 1 2 3, .sltu 0 1 2 3, .seq 0 1 2 3, .sne 0 1 2 3, .min 0 1 2 3,
    .max 0 1 2 3, .minu 0 1 2 3, .maxu 0 1 2 3, .mul 0 1 2 3, .mulh 0 1 2 3, .mulhu 0 1 2 3, .clz 0 1 2, .ctz 0 1 2, .popc 0 1 2,
    .sel 1 1 2 3, .div 0 1 2 3, .divu 0 1 2 3, .rem 0 1 2 3, .remu 0 1 2 3], clearToAct i s0 = true := by decide +kernel

/-- The same as `Acts`, for one of them. -/
theorem witness_DivisionResults : ∃ o t, Acts (.div 0 1 2 3) s0 o t := ⟨_, _, .inl ⟨by decide +kernel, rfl, rfl⟩⟩

theorem witness_FieldAndImmediateResults : ∀ i ∈ [Instr.bfx 0 1 2 3, .bfi 0 1 2 3, .addi 0 1 2 (-4096), .andi 0 1 2 4095, .ori 0 1 2 0,
    .xori 0 1 2 0, .shli 0 1 2 31, .shri 0 1 2 0, .sari 0 1 2 31, .slti 0 1 2 0, .sltui 0 1 2 (-1), .seqi 0 1 2 0, .mini 0 1 2 0,
    .maxi 0 1 2 0, .muli 0 1 2 0, .li 0 1 1048575, .lhi 0 1 65535, .lpc 0 1 0], clearToAct i s0 = true := by decide +kernel

theorem witness_PredicateResults : ∀ i ∈ [Instr.pand 0 1 2 3, .por 0 1 2 3, .pxor 0 1 2 3, .pandn 0 1 2 3, .pnez 0 1 2, .pput 0 1 2 0,
    .pput 0 1 2 1, .pget 0 1 2 0, .pget 0 1 2 1, .pcnt 0 1 2, .pfirst 0 1 2], clearToAct i s0 = true := by decide +kernel

/-- O5: a predicate of all ones and one of all zeros, a scalar zero and not zero, and the last bundle of the text as target. -/
theorem witness_BranchesTransferWhenTaken :
    (∀ i ∈ [Instr.br 0 0 1023, .br 0 1 1023, .brn 0 1 1023, .brn 0 0 1023, .bz 0 2 1023, .bz 0 3 1023, .bnz 0 3 1023, .bnz 0 2 1023,
      .jmp 0 1023, .call 0 1023, .jr 0 2 1023, .calr 0 2 1023], clearToAct i (withX s0 3 1) = true)
    ∧ (s0.opnds (.br 0 0 1)).pa = -1 ∧ (s0.opnds (.br 0 1 1)).pa = 0 ∧ (s0.opnds (.bz 0 2 1)).xa = 0
    ∧ ((withX s0 3 1).opnds (.bz 0 3 1)).xa ≠ 0
    ∧ inText s0 (s0.core.th.pc + BitVec.ofInt 32 (1023 * 16)) ∧ inText s0 ((s0.opnds (.jr 0 2 1)).xa + BitVec.ofInt 32 (1023 * 16)) := by
  unfold inText; decide +kernel

/-- `s0` with loop counts. -/
def sLoop (l e : Word) : State := s0.updTh fun t => { t with csr := { t.csr with lc := l, ec := e } }

/-- O6: a predicate of one bit, and a target one bundle past the text or not aligned. -/
theorem witness_TransfersTrapOnBadTargets :
    let s := (withX s0 3 8).updTh fun t => { t with p := sset 0 t.p 1 1 }
    (∀ i ∈ [Instr.br 0 1 1, .brn 0 1 1, .jr 0 3 0, .jr 0 2 1024, .calr 0 3 0, .calr 0 2 1024, .jmp 0 1024, .call 0 1024, .br 0 0 1024,
      .brn 0 2 1024, .bz 0 2 1024, .bnz 0 3 1024], clearToAct i s = true)
    ∧ (s.opnds (.br 0 0 1024)).pa = -1 ∧ (s.opnds (.brn 0 2 1024)).pa = 0 ∧ (s.opnds (.bz 0 2 1024)).xa = 0 ∧ (s.opnds (.bnz 0 3 1024)).xa ≠ 0
    ∧ clearToAct (.brlc 0 1024) (sLoop 1 0) = true ∧ (sLoop 1 0).core.th.csr.lc ≠ 0
    ∧ clearToAct (.brlc 0 1024) (sLoop 0 2) = true ∧ 1 < (sLoop 0 2).core.th.csr.ec.toNat
    ∧ (s.opnds (.br 0 1 1)).pa ≠ 0 ∧ (s.opnds (.br 0 1 1)).pa ≠ -1
    ∧ ((s.opnds (.jr 0 3 0)).xa + BitVec.ofInt 32 (0 * 16)).toNat % 16 ≠ 0
    ∧ ((s.opnds (.jr 0 2 1024)).xa + BitVec.ofInt 32 (1024 * 16)).toNat = s.textLen
    ∧ (s.core.th.pc + BitVec.ofInt 32 (1024 * 16)).toNat % 16 = 0 := by decide +kernel

/-- O7: LC above 0; LC 0 with EC 2; LC 0 with EC 1. -/
theorem witness_LoopBranchCountsAndRotates :
    let f := fun (l e : Word) => s0.updTh fun t => { t with csr := { t.csr with lc := l, ec := e } }
    clearToAct (.loops 0 2 63) s0 = true ∧ (∀ s ∈ [f 1 0, f 0 2, f 0 1], clearToAct (.brlc 0 1023) s = true)
    ∧ (f 1 0).core.th.csr.lc ≠ 0 ∧ 1 < (f 0 2).core.th.csr.ec.toNat ∧ (f 0 1).core.th.csr.ec.toNat ≤ 1
    ∧ inText (f 1 0) ((f 1 0).core.th.pc + BitVec.ofInt 32 (1023 * 16)) := by unfold inText; decide +kernel

/-- O8: the four CSR operations act; a landing of each kind exists, and the package has a context for RANK and GANGSZ (O9). -/
theorem witness_SpecialRegisterAccess :
    (∀ i ∈ [Instr.csrr 0 1 0x009, .csrw 0 1 0x009, .csrs 0 1 0x00B, .csrc 0 1 0x008], clearToAct i s0 = true)
    ∧ (∃ l : Landing, l.dest = .csr 0x009 .write 5 ∧ l.bad = false) := by
  exact ⟨by decide +kernel, ⟨⟨0, 0, 0, false, .csr 0x009 .write 5, true, false⟩, rfl, rfl⟩⟩

theorem witness_SpecialRegisterValues : s1.taskCtx s1.thBefore.task = some d1 := by decide +kernel

/-- O10: a return with the handler's work done, from a reported fault and from none, to an EPC not aligned and to the end of the
text; `fold` of a foldable task and of another. -/
theorem witness_TrapInstructionEntersAndReturns :
    let s2 := sH.updTh fun t => { t with csr := { t.csr with estat := 0 } }
    let back := fun (e : Word) => sH.updTh fun t => { t with csr := { t.csr with epc := e } }
    clearToAct (.trap 0 1 255) s0 = true ∧ clearToAct (.eret 0) sH = true ∧ clearToAct (.eret 0) s2 = true
    ∧ (∀ s ∈ [back 8, back 16384], clearToAct (.eret 0) s = true ∧ handlerDone s ∧ s.core.th.csr.estat.getLsbD 0 = true)
    ∧ (back 8).core.th.csr.epc.toNat % 16 ≠ 0 ∧ (let u := back 16384;
      u.core.th.csr.epc.toNat % 16 = 0 ∧ u.textLen ≤ u.core.th.csr.epc.toNat)
    ∧ sH.core.th.csr.estat.getLsbD 0 = true ∧ inText sH sH.core.th.csr.epc ∧ handlerDone sH ∧ handlerDone s2
    ∧ (sH.getPart sH.core.th.task.part).shrink.contains sH.core.num = false ∧ s2.core.th.csr.estat.getLsbD 0 = false
    ∧ clearToAct (.fold 0) s0 = true ∧ s0.core.th.task.foldable = false
    ∧ (let f := s0.updTh fun t => { t with task := { t.task with foldable := true } }
      clearToAct (.fold 0) f = true ∧ f.core.th.task.foldable = true) := by
  unfold inText handlerDone; decide +kernel

/-- O11: thresholds at the counters, one below a counter, and all ones; a token at 0 and at 1; a member and another. -/
theorem witness_WaitsIssueWhenSatisfied :
    let q := s0.updTh fun t => { t with lqPend := [⟨0, none⟩] }
    let k := s0.updTh fun t => { t with cbuf := [cmd0] }
    let m := s0.updTh fun t => { t with csr := { t.csr with gmask := 2 } }
    let e : Slip := { slot := 0, why := 2, seq := 1, ext := 0, sword := 0, baddr := 0, rrb := 0, instr := .ccp 0 2 0 2 0, ops := {}, pend := [.a], lanes := [], part := 0 }
    let h := (s0.updCore fun c => { c with env := { c.env with seq := 4 } }).updTh fun t => { t with slips := [e] }
    clearToAct (.wait 0 0 0 0 0) s0 = true ∧ (s0.core.th.ql + s0.heldOf 1 ≤ 0 ∧ s0.qs + s0.heldOf 2 ≤ 0 ∧ s0.cp + s0.heldOf 3 ≤ 0
      ∧ s0.core.th.tl + s0.heldOf 4 ≤ 0)
    ∧ clearToAct (.wait 0 31 31 0 3) h = true ∧ h.cp = 0 ∧ h.heldOf 3 = 1 ∧ clearToAct (.twait 0 4) h = true ∧ h.heldTok 2 = 1
    ∧ clearToAct (.wait 0 0 31 63 3) q = true ∧ ¬ (q.core.th.ql + q.heldOf 1 ≤ 0) ∧ clearToAct (.wait 0 31 31 63 3) q = true
    ∧ clearToAct (.twait 0 255) s0 = true ∧ (∀ i, i < 8 → s0.tok i = 0 ∧ s0.heldTok i = 0)
    ∧ clearToAct (.twait 0 4) k = true ∧ bit 4 2 = true ∧ k.tok 2 ≠ 0
    ∧ clearToAct (.gjoin 0 63) s0 = true ∧ (s0.getCtx s0.core.th.task.part s0.core.th.task.slot).open 63 = none
    ∧ (let o := s0.updCtx 0 0 fun x => { x with episodes := [{ grp := 63, die := some 0, line := none, arrived := [2], opened := 0 }] };
      clearToAct (.gjoin 0 63) o = true ∧ o.core.th.csr.gmask.getLsbD 63 = false
      ∧ (o.getCtx o.core.th.task.part o.core.th.task.slot).open 63 ≠ none)
    ∧ clearToAct (.gleave 0 1) m = true ∧ clearToAct (.gsync 0 1) m = true ∧ m.core.th.csr.gmask.getLsbD 1 = true
    ∧ clearToAct (.gsync 0 0) m = true ∧ m.core.th.csr.gmask.getLsbD 0 = false := by decide +kernel

/-- O12: an entry of the tag table at its last index, and none; a snapshot of the own task, named by x0 and by its core's number,
and of another stopped core. -/
theorem witness_TaskQueriesAndTagTable :
    let t0 := (withX s0 3 255).updTh fun t => { t with tags := [(255, 1)] }
    let other : Thread := { tid := 2, core := 1, task := placedTask, snap := some {} }
    let st := (withX s1 3 1).updPkg fun k => { k with parked := [other] }
    let sv : State := st.updCore fun c => { c with env := { c.env with served := some (st.opnds (.snapr 0 1 2 3)) } }
    (∀ i ∈ [Instr.tdom 0 1 0, .tdom 0 1 6, .tdom 0 1 10, .tdom 0 1 12, .tdom 0 1 13, .tbud 0 1 0, .tbud 0 1 4, .rtime 0 1 0, .rtime 0 1 1,
      .rtime 0 1 2, .tlook 0 1 2 4, .tins 0 3 2 4, .tinvVa 0 2 4, .tinvEntry 0 3], clearToAct i t0 = true)
    ∧ t0.thBefore.tags.find? (fun e => e.2 = tagOf (t0.opnds (.tlook 0 1 2 4)) + 1) = some (255, 1)
    ∧ s0.thBefore.tags.find? (fun e => e.2 = tagOf (s0.opnds (.tlook 0 1 2 4)) + 1) = none
    ∧ (t0.opnds (.tins 0 3 2 4)).xd.toNat = 255
    ∧ (let u := withX s0 3 256; clearToAct (.tins 0 3 2 4) u = true ∧ clearToAct (.tinvEntry 0 3) u = true ∧ 255 < (u.opnds (.tins 0 3 2 4)).xd.toNat
      ∧ 255 < (u.opnds (.tinvEntry 0 3)).xd.toNat)
    ∧ (let u := sH.updTh fun t => { t with snap := none }; u.core.th.snap = none ∧ clearToAct (.snapr 0 1 2 0) u = true)
    ∧ clearToAct (.snapr 0 1 2 0) sH = true ∧ clearToAct (.snapw 0 1 2 0) sH = true ∧ sH.core.th.mode = .handler
    ∧ sH.core.th.snap.isSome = true
    ∧ (match sv.snapOf 3 (st.opnds (.snapr 0 1 2 3)).xb with | .ok x => decide (x = other) | .error _ => false) = true
    ∧ other.tid ≠ sv.core.th.tid
    ∧ (let own := s1.updTh fun t => { t with mode := .handler, snap := some {} }
      clearToAct (.snapr 0 1 2 4) own = true ∧ own.core.th.mode = .handler
      ∧ (match own.snapOf 4 (own.opnds (.snapr 0 1 2 4)).xb with | .ok x => decide (x.tid = own.core.th.tid) | .error _ => false) = true)
    ∧ suppressedBy (.snapr 0 1 2 3) (st.opnds (.snapr 0 1 2 3)).g = false := by decide +kernel

/-- O13: the header bits with nothing held; views with a mark of another task's thread in the linear and in the tile view. -/
theorem witness_HeaderBitsAndNop : (∀ i ∈ [Instr.vjoin, .endB false, .endB true], clearToAct i s0 = true)
    ∧ (∀ e ∈ s0.core.th.slips, isDirect e.instr = true → s0.core.env.seq / 4 ≤ e.seq / 4)
    ∧ (let s := { s1 with todo := [{ num := 1 }] }
      (s.allCores.map (·.num)).Nodup ∧ ∃ c ∈ s.joinViews.allCores, c.num ≠ s.core.num)
    ∧ (let m : Mark := { old := 0, by_ := some (9, 0, false), seen := [] };
      let t := s0.updCore fun c => { c with linOld := [(4, [m])], swzOld := [(0, [m])] }
      swf [] t.core.linOld = true ∧ swf [] t.core.swzOld = true ∧ m ∈ sget [] t.core.linOld 4 ∧ m ∈ sget [] t.core.swzOld 0) := by
  decide +kernel

/-- The state of O14: a loaded bundle `addi x8, x8, 4` at the pc of the task. -/
def sF : State := State.reset.withFetchWord 32 0x10020804

/-- The state in which its bundle is presented. -/
def uF : State := (match ((sF.updCore Core.tick).holdOut).land.slips with | .next t => t | _ => sF).mark .issued

/-- O14: each hypothesis of its first clause at `sF` and `uF`; then direct accesses that act and that a guard suppresses, a step
asked for in a package that runs and in one held in reset, and a step due. -/
theorem witness_StepRunsTheDecodedBundle :
    PresentsIn sF uF
    ∧ uF.fetch = .ok (some [0x10020804, 0, 0, 0])
    ∧ decodeBundle 0x10020804 0 0 0 = .ok { endBit := false, vj := false, ops := [{ slot := 0, ext := 0, word := 0x10020804, op := .addi 0 8 8 4 }] }
    ∧ (let b : Bundle := { endBit := false, vj := false, ops := [{ slot := 0, ext := 0, word := 0x10020804, op := .addi 0 8 8 4 }] }
      uF.modeTrap b = none ∧ (b.ops.any fun o => isDirect o.op) = false
      ∧ (∀ o ∈ slotsOf b, nextIs (exec o.op (uF.usedOverlay.enter.atSlot o)) (fun t => t.core.issue.goesOn) = true)
      ∧ uF.usedOverlay.readsPoison (slotsOf b) = false
      ∧ nextIs (uF.usedOverlay.enter.chain (ctlLast (slotsOf b))) (fun t => t.core.issue.goesOn) = true)
    ∧ isDirect (.ldW 0 1 2 0) = true ∧ (s0.drainQ s0.core.num s0.core.th.tid s0.core.drainFuel).1 = true
    ∧ s0.acts ⟨0, 0, 0, .ldW 0 1 2 0⟩ = true ∧ s0.acts ⟨0, 0, 0, .ldW 1 1 2 0⟩ = false
    ∧ { s0 with agenda := [(.drainmax, {})] }.agenda = (.drainmax, {}) :: [] ∧ s0.pkg.held = false
    ∧ (∀ i ∈ [Instr.packageReset, .attest, .rdmaWrite], inReset i = true)
    ∧ (let t := s0.updPkg fun k => { k with time := 2048, rslots := [⟨{ vc := 0, gen := false, pkt := {} }, 0⟩] }
      t.agenda = [] ∧ t.dueStep.isSome = true) := by
  refine ⟨⟨?_, ?_, ?_, ?_, ?_, ?_, ?_, ?_, ?_, ⟨_, rfl, ?_, ?_, rfl, ?_, ?_, ?_⟩⟩, rfl, rfl, ?_, ?_, ?_, ?_, ?_, rfl, ?_, ?_, ?_⟩ <;>
    decide +kernel

/-- O16, O17: a well-formed operation of each format; the statement's hypotheses hold of the words of the decode tests. -/
theorem witness_EncodingRoundTrip : ∀ i ∈ [Instr.add 127 60 60 56, .addi 0 1 1 (-4096), .li 15 1 1048575, .brlc 0 (-262144), .wait 0 31 31 63 3,
    .vld 0 61 60 1023, .tmov 0 95 95, .ccp 0 7 7 60 60, .nop], slotOp i = true ∧ wellFormed i = true := by decide +kernel

theorem witness_DecodingIsCanonical : reads (some 0x1F) 0x10021CFF (.addi 0 8 28 (-1)) = true ∧ reads none 0x00547209 (.div 0 7 8 9) = true := by
  decide +kernel

/-- O18: a state at issue; each range of names is met at its ends. A link port bound to a channel with a message, one bound to a
channel without, and one not bound. -/
theorem witness_RegistersReadThroughRotation : s0.core.env.served = none
    ∧ (let m : ChanMsg := { core := 0, ch := 1, num := 0, src := 0, payload := [1, 2, 3, 4] }
      let u := (s1.updTh fun t => { t with binds := [(0, 2), (3, 3)] }).updCtx 0 0 fun x => { x with msgs := [m] }
      u.core.env.served = none ∧ u.portChan 57 = some 1 ∧ u.headMsg 1 = some m ∧ u.portChan 60 = some 2 ∧ u.headMsg 2 = none
      ∧ u.portChan 58 = none) := by decide +kernel

/-- O19: forbidden operations in each mode, END among them. -/
theorem witness_ModeForbidsOperations :
    (∀ i ∈ [Instr.eret 0, .snapw 0 1 2 3, .csrr 0 1 0x21, .csrw 0 1 0x25], (shape i).cls ≠ .dev ∧ forbiddenIn s0.core.th.mode i = true)
    ∧ (∀ i ∈ [Instr.endB true, .ccp 0 1 0 2 0, .ngo 0, .qldW 0 2 3, .gsync 0 1, .fold 0, .trap 0 1 2, .add 0 1 56 2, .add 0 57 1 2],
      forbiddenIn sH.core.th.mode i = true)
    ∧ s0.core.env.served = none ∧ sH.core.env.served = none := by decide +kernel

/-- O20: a guard of all zeros on an operation of each class, on one on memory and on one that names a port; the classes, and
operations of each kind. -/
theorem witness_SuppressedOperationsDoNothing : (∀ i ∈ [Instr.add 1 1 2 3, .vlds 1 1 2 3, .tzero 1 0 1 0, .ccp 1 0 2 0 2, .vaddF 1 1 62 3],
      (shape i).cls ≠ .dev ∧ s0.core.env.served = none
      ∧ forbiddenIn s0.core.th.mode i = false ∧ Role.g ∉ s0.pendSrcs i ∧ suppressedBy i (s0.srcP (shape i).g) = true)
    ∧ (shape (.add 1 1 2 3)).cls = .x ∧ (shape (.tzero 1 0 1 0)).cls = .m ∧ (shape (.ccp 1 0 2 0 2)).cls = .c
    ∧ (∀ i ∈ [Instr.vaddF 1 1 2 3, .vaddF 1 1 62 3, .vaddF 1 62 2 3], (shape i).cls = .v)
    ∧ (shape (.vaddF 1 1 62 3)).pops ≠ [] ∧ (shape (.vaddF 1 1 2 3)).pops = [] := by decide +kernel

/-- O21: register operations of several classes act and answer a next state. -/
theorem witness_ResultsOnlyEnterTheResultHolders : ∀ i ∈ [Instr.add 0 1 2 3, .li 0 1 5, .pand 0 1 2 3, .csrr 0 1 0x009, .vaddF 0 1 2 3, .vfeq 0 1 2 3,
    .vsumF 0 1 2, .vprn24 0 1 2 3], registerOp i = true ∧ clearToAct i s0 = true ∧ nextIs (exec i s0) (fun _ => true) = true := by decide +kernel

theorem witness_PoppingTouchesOnlyThePorts : (shape (.add 0 1 2 3)).pops = [] ∧ (shape (.add 0 1 56 3)).pops = [56]
    ∧ (shape (.vaddF 0 1 62 3)).pops = [126] := by decide +kernel

/-- O23: a landing of each kind in a thread whose register files are in canonical form; one that an error has struck, for each. -/
theorem witness_ResultsLandInTheirRegister :
    swf 0 s0.core.th.x = true ∧ swf 0 s0.core.th.p = true ∧ swf 0 s0.core.th.v = true
    ∧ (∀ d ∈ [Dest.x 63 7, .p 127 5 (-1), .v 61 0 (laneMask 1)], ∃ l : Landing, ∃ r, l.dest = d ∧ l.bad = true ∧ l.dest.reg = some r)
    ∧ (∃ l : Landing, l.dest = .x 63 7) ∧ (∃ l : Landing, l.dest = .p 127 5 (-1)) ∧ (∃ l : Landing, l.dest = .v 61 0 (laneMask 1)) :=
  ⟨by decide +kernel, by decide +kernel, by decide +kernel,
    by intro d hd; simp at hd; rcases hd with rfl | rfl | rfl <;> exact ⟨⟨0, 0, 0, false, _, true, true⟩, _, rfl, rfl, rfl⟩, ⟨⟨0, 0, 0, false, .x 63 7, true, false⟩, rfl⟩, ⟨⟨0, 0, 0, false, .p 127 5 (-1), true, false⟩, rfl⟩,
    ⟨⟨0, 0, 0, false, .v 61 0 (laneMask 1), true, false⟩, rfl⟩⟩

/-- O24: two results due for x5 and one for x6 not due. -/
theorem witness_LaterBundleWinsALandingCycle :
    let s := s0.updTh fun t => { t with inflight := [⟨0, 4, 0, false, .x 5 1, true, false⟩, ⟨0, 8, 0, false, .x 5 2, true, false⟩, ⟨1, 9, 0, false, .x 6 3, true, false⟩] }
    swf 0 s.core.th.x = true ∧ (s.core.th.inflight.map (·.seq)).Nodup
    ∧ (∀ e ∈ s.core.th.inflight, e.remain = 0 → e.seq ≤ 8) ∧ (∀ e ∈ s.core.th.inflight, e.remain = 0 → ∀ w, e.dest ≠ .x 6 w) := by
  refine ⟨by decide +kernel, by decide +kernel, by decide +kernel, ?_⟩
  intro e he h w hw
  simp [State.updTh] at he
  rcases he with rfl | rfl | rfl <;> simp_all

/-- O25: a pending source, a pending destination, a full buffer, an empty one; vectors past the holders; a held effect of a foldable task. -/
theorem witness_PendingSourcesSlip :
    let l := fun (d : Dest) => (s0.updCore fun c => { c with env := { c.env with seq := 4 } }).updTh fun t =>
      { t with inflight := [⟨5, 0, 0, true, d, true, false⟩] }
    let slips := fun (s : State) (i : Instr) => s.core.env.served = none ∧ forbiddenIn s.core.th.mode i = false ∧ Role.g ∉ s.pendSrcs i
      ∧ suppressedBy i (s.srcP 0) = false ∧ s.portTrap i = none ∧ s.portStall i = false ∧ s.pushHold i (s.opnds i) = none
    let e : Slip := { slot := 0, why := 2, seq := 0, ext := 0, sword := 0, baddr := 0, rrb := 0, instr := .vaddF 0 1 2 3, ops := {}, pend := [.a], lanes := [], part := 0 }
    (∀ r ∈ [(Dest.x 2 1, Dest.x 1 1, [Instr.add 0 1 2 3, .sub 0 1 2 3, .mul 0 1 2 3, .div 0 1 2 3]), (.p 2 1 (-1), .p 1 1 (-1), [.pand 0 1 2 3, .por 0 1 2 3]),
        (.v 2 1 (-1), .v 1 1 (-1), [.vaddF 0 1 2 3, .vmulF 0 1 2 3, .vsel 0 1 2 3])], ∀ i ∈ r.2.2, registerOp i = true ∧
      (slips (l r.1) i ∧ (l r.1).pendSrcs i ≠ []) ∧ slips (l r.2.1) i ∧ (l r.2.1).pendSrcs i = [] ∧ (l r.2.1).pendDest i = true)
    ∧ (shape (.add 0 1 2 3)).vs = [] ∧ s0.core.th.slips.countP (·.slot = s0.core.env.slot) < 4
    ∧ (let u := s0.updTh fun t => { t with slips := [e, e, e, e] }; ¬ u.core.th.slips.countP (·.slot = u.core.env.slot) < 4)
    ∧ (let u := s0.updTh fun t => { t with slips := [e] }
      (shape (.vaddF 0 1 2 3)).vs ≠ [] ∧ 2 < (u.core.th.slips.map fun e => (shape e.instr).vs.length).sum + (shape (.vaddF 0 1 2 3)).vs.length)
    ∧ (let u := s0.updTh fun t => { t with task := { t.task with foldable := true } }
      let g := (withX u 2 0x1000).updCore fun c => { c with spad := { c.spad with mem := lePut c.spad.mem 0x1034 1 4 } }
      (∀ i ∈ [Instr.amoAdd 0 2 4, .csig 0 0 0 2 0, .ccp 0 0 0 2 0], (shape i).vs = [] ∧ takesHold i = true)
      ∧ cmdFields (.amoAdd 0 2 4) = none ∧ isCsig (.csig 0 0 0 2 0) = true ∧ (cmdFields (.ccp 0 0 0 2 0)).isSome = true
      ∧ (g.seen.word ((g.opnds (.ccp 0 0 0 2 0)).xa.toNat + 52)).getLsbD 0 = true ∧ g.core.th.task.foldable = true
      ∧ u.core.th.task.foldable = true ∧ u.core.th.holdq.length < u.core.th.task.hold) := by decide +kernel

/-- O26: an exception in task mode with a handler and without, and in handler mode; with a result in flight past the stop; a launch
that has recorded no fault. -/
theorem witness_TrapEntrySavesAndEnters :
    let s := s0.updTh fun t => { t with csr := { t.csr with trapvec := 0x101 }, inflight := [⟨2, 0, 0, false, .x 5 1, true, false⟩] }
    folds s 0x0C = false ∧ (∀ e ∈ s.core.th.slips, e.serving = false) ∧ (∀ l ∈ s.core.th.inflight, l.isCsr = false ∧ 2 ≤ l.remain)
    ∧ s.core.th.mode = .task ∧ s.core.th.csr.trapvec.getLsbD 0 = true
    ∧ folds sH 0x0C = false ∧ sH.core.th.mode = .handler ∧ s0.core.th.csr.trapvec.getLsbD 0 = false
    ∧ (let l : Launch := { slot := 0, mail := 0, record := [], start := 0 };
      let u := part0 s0 fun q => { q with launches := [l] }
      swf {} u.pkg.parts = true ∧ u.getLaunch u.core.th.task.part u.core.th.task.slot = some l ∧ l.recDone = false ∧ l.faults = 0
      ∧ u.core.th.mode = .task ∧ u.core.th.csr.trapvec.getLsbD 0 = false) := by decide +kernel

/-- O28: a snapshot with a result and a slip entry, all legal; one with an entry that is not, in task mode with a handler. -/
theorem witness_ResumptionRestoresTheSnapshot :
    let e : Slip := { slot := 0, why := 2, seq := 1, ext := 0, sword := 0x1083, baddr := 0, rrb := 0, instr := .add 0 1 2 3, ops := {}, pend := [.a], lanes := [], part := 0 }
    let n : Snap := { rpc := 16, land := [⟨2, 0, 0, false, .x 5 1, true, false⟩], slips := [e] }
    let s := sH.updTh fun t => { t with snap := some n }
    s.core.th.snap = some n ∧ n.legal (s.core.th.mq ++ n.newM.map (·.2)) (s.core.th.cbuf ++ n.newC.map (·.2)) = true
    ∧ (let m : Snap := { rpc := 16, land := [⟨2, 0, 0, false, .x 56 1, true, false⟩], slips := [e] }
      m.legal [] [] = false ∧ s.core.th.csr.trapvec.getLsbD 0 = true ∧ (∀ e ∈ m.slips, e.serving = false) ∧ ∀ l ∈ m.land, l.isCsr = false) := by
  decide +kernel

/-- What the finite value of a code, its sign, numerator and denominator, satisfies. -/
def finIs (a : Word) (f : Bool → Nat → Nat → Bool) : Bool :=
  match f32 a with
  | .fin s p q => f s p q
  | _ => false

/-- O29 to O38: every vector operation of the statements acts in the start state of a task. O29: operands that are NaN, infinite,
finite, zero and negative, and powers too small, too large and between, at both ends. -/
theorem witness_VectorFloatResults :
    ((f32 0x7FC00000).isNan = true ∧ (f32 0x7F800001).isNan = true ∧ (f32 0x7F800000 = .inf false) ∧ f32 0xFF800000 = .inf true
    ∧ finIs 0x40400000 (fun s p q => !s && p ≠ 0 && decide (p = 3 * q)) = true ∧ finIs 0 (fun _ p _ => p = 0) = true
    ∧ finIs 0xC0000000 (fun s p q => s && p ≠ 0 && decide (p = 2 * q)) = true
    ∧ finIs 0x32000000 (fun _ p q => p ≠ 0 && decide (p * 2 ^ 26 < q)) = true
    ∧ finIs 0x43800000 (fun _ p q => decide (256 * q ≤ p)) = true ∧ finIs 0xC3800000 (fun _ p q => decide (256 * q ≤ p)) = true
    ∧ (let mid := fun (_ : Bool) (p q : Nat) => decide (q ≤ p * 2 ^ 26) && decide (p < 256 * q);
      finIs 0x32800000 mid = true ∧ finIs 0x437FFFFF mid = true ∧ finIs 0xC37FFFFF mid = true ∧ finIs 0x40400000 mid = true)
    ∧ finIs 0x40400000 (fun _ p q => p % q = 0) = true ∧ finIs 0x41000000 (fun _ p q => p = 8 * q) = true)
    ∧ ∀ i ∈ [Instr.vaddF 0 1 2 3, .vsubF 0 1 2 3, .vmulF 0 1 2 3, .vfmaF 0 1 2 3, .vfmsF 0 1 2 3, .vfnmaF 0 1 2 3,
    .vdivF 0 1 2 3, .vsqrtF 0 1 2, .vrsqrtF 0 1 2, .vrcpF 0 1 2, .vexp2F 0 1 2, .vlog2F 0 1 2, .vabsF 0 1 2, .vnegF 0 1 2,
    .vroundF 0 1 2, .vtruncF 0 1 2], clearToAct i s0 = true := by decide +kernel

/-- O30: a fraction at the upper bound, and one below it. -/
theorem witness_RoundingIsToNearestEven : (2 ^ 25 - 1) * 2 ^ 103 * 1 ≤ (2 ^ 25 - 1) * 2 ^ 103 ∧ 1 < (2 ^ 25 - 1) * 2 ^ 103 * 3 := by decide

theorem witness_MinimaAndMaximaPropagateNaN : ∀ i ∈ [Instr.vminF 0 1 2 3, .vmaxF 0 1 2 3], clearToAct i s0 = true := by decide +kernel

theorem witness_VectorIntegerResults : ∀ i ∈ [Instr.vaddI 0 1 2 3, .vsubI 0 1 2 3, .vmulI 0 1 2 3, .vmulhI 0 1 2 3, .vand 0 1 2 3, .vor 0 1 2 3,
    .vxor 0 1 2 3, .vshl 0 1 2 3, .vshr 0 1 2 3, .vsar 0 1 2 3, .vminI 0 1 2 3, .vmaxI 0 1 2 3, .vminuI 0 1 2 3, .vmaxuI 0 1 2 3,
    .vieq 0 1 2 3, .vilt 0 1 2 3, .viltu 0 1 2 3],
    clearToAct i s0 = true := by decide +kernel

/-- O33: the compares act; the word of one with every operand at its bound; a result for p0. -/
theorem witness_VectorCompares : (∀ i ∈ [Instr.vfeq 0 1 2 3, .vfne 0 1 2 3, .vflt 0 1 2 3, .vfle 0 1 2 3, .vfun 0 1 2 3],
      clearToAct i s0 = true)
    ∧ reads none (6 * 2 ^ 28 + 15 * 2 ^ 24 + 0x14 * 2 ^ 18 + 63 * 2 ^ 12 + 62 * 2 ^ 6 + 62) (.vfun 15 63 62 62) = true
    ∧ ({ remain := 0, seq := 0, flg := 1, pend := false, dest := .p 0 5 (-1) } : Landing).dest = .p 0 5 (-1)
    ∧ swf 0 s0.core.th.p = true := by decide +kernel

theorem witness_VectorReductions : ∀ i ∈ [Instr.vsumF 0 1 2, .vmaxrF 0 1 2, .vminrF 0 1 2, .vsumI 0 1 2], clearToAct i s0 = true := by decide +kernel

theorem witness_LaneMovementResults : ∀ i ∈ [Instr.vsel 1 1 2 3, .vbcast 0 1 2, .vperm 0 1 2 3, .vrot 0 1 2 3, .vid 0 1, .vgetl 0 1 2 3,
    .vsetl 0 1 2 3], clearToAct i s0 = true := by decide +kernel

theorem witness_ConversionAndPackingResults : ∀ i ∈ [Instr.vcvtFi 0 1 2, .vtruncI 0 1 2, .vcvtIf 0 1 2, .vpackBf 0 1 2 1 15, .vpackH 0 1 2 0 0,
    .vpackD8 0 1 2 3 15, .vpackI8 0 1 2 0 0, .vunpkBf 0 1 2 1, .vunpkH 0 1 2 0, .vunpkD8 0 1 2 3, .vunpkI8 0 1 2 0],
    clearToAct i s0 = true := by decide +kernel

theorem witness_PruningAndDotResults : ∀ i ∈ [Instr.vprn24 0 1 2 3, .vprn48 0 1 2 3, .vexpd 0 1 2, .vsdot 0 1 2 3, .vdot4I8 0 1 2 3,
    .vdot2Bf 0 1 2 3], clearToAct i s0 = true := by decide +kernel

/-- O38: under a guard of all ones and one of all zeros. -/
theorem witness_GuardsThatAreOperands : ∀ g ∈ [0, 1], ∀ i ∈ [Instr.sel g 1 2 3, .vsel g 1 2 3, .vsdot g 1 2 3, .vexpd g 1 2],
    clearToAct i s0 = true := by decide +kernel

/-- `s` with a grant of one region of the scratchpad. -/
def sSmall (s : State) : State := s.updTh fun t => { t with task := { t.task with spad := 1 } }

/-- O39: an aligned word at the last place of the scratchpad; full and empty words; each of the three traps. -/
theorem witness_ScalarLoadResults :
    let s := withX s0 2 0xFFFFC
    let f := s.updCore fun c => { c with spad := { c.spad with fe := sset false c.spad.fe 0x3FFFF true } }
    let small := s.updTh fun t => { t with task := { t.task with spad := 1 } }
    (∀ i ∈ [Instr.ldW 0 1 2 0, .ldH 0 1 2 0, .ldHu 0 1 2 0, .ldB 0 1 2 0, .ldBu 0 1 2 0], clearToAct i s = true)
    ∧ banksServe s [(0, 0xFFFFC)] ∧ reaches s 0xFFFFC 4 ∧ s.seen.bad 0xFFFFC = false ∧ joined s 0xFFFFC
    ∧ (∀ i ∈ [Instr.ldf 0 1 2 0, .ldfe 0 1 2 0], clearToAct i f = true ∧ clearToAct i s = true) ∧ banksServe f [(0, 0xFFFFC)]
    ∧ reaches f 0xFFFFC 4 ∧ f.core.spad.full 0xFFFFC = true ∧ f.seen.full 0xFFFFC = true ∧ s.core.spad.full 0xFFFFC = false
    ∧ (∀ i ∈ [Instr.ldW 0 1 3 0, .ldH 0 1 3 0, .ldHu 0 1 3 0, .ldf 0 1 3 0, .ldfe 0 1 3 0], clearToAct i (withX s0 3 1) = true)
    ∧ (∀ i ∈ [Instr.ldW 0 1 2 1, .ldH 0 1 2 2, .ldHu 0 1 2 2, .ldB 0 1 2 4, .ldBu 0 1 2 4, .ldf 0 1 2 1, .ldfe 0 1 2 1], clearToAct i s = true)
    ∧ (∀ i ∈ [Instr.ldW 0 1 2 0, .ldH 0 1 2 0, .ldHu 0 1 2 0, .ldB 0 1 2 0, .ldBu 0 1 2 0, .ldf 0 1 2 0, .ldfe 0 1 2 0],
      clearToAct i small = true)
    ∧ small.core.th.task.spad * 65536 < 0xFFFFC + 1 := by
  unfold banksServe reaches joined; decide +kernel

/-- O40: the same word for the stores, empty and full; each of the three traps. -/
theorem witness_ScalarStoreResults :
    let s := withX s0 2 0xFFFFC
    let f := s.updCore fun c => { c with spad := { c.spad with fe := sset false c.spad.fe 0x3FFFF true } }
    (∀ i ∈ [Instr.stW 0 1 2 0, .stH 0 1 2 0, .stB 0 1 2 0, .stef 0 1 2 0, .stf 0 1 2 0, .clrf 0 2 0], clearToAct i s = true)
    ∧ banksServe s [(0, 0xFFFFC)] ∧ reaches s 0xFFFFC 4 ∧ joined s 0xFFFFC ∧ swf 0 s.core.spad.mem = true
    ∧ s.core.spad.full 0xFFFFC = false ∧ clearToAct (.stef 0 1 2 0) f = true ∧ reaches f 0xFFFFC 4 ∧ f.core.spad.full 0xFFFFC = true
    ∧ (let small := s.updTh fun t => { t with task := { t.task with spad := 1 } }
      (∀ i ∈ [Instr.stW 0 1 3 0, .stH 0 1 3 0, .stef 0 1 3 0, .stf 0 1 3 0, .clrf 0 3 0], clearToAct i (withX s0 3 1) = true)
      ∧ (∀ i ∈ [Instr.stW 0 1 2 1, .stH 0 1 2 2, .stB 0 1 2 4, .stef 0 1 2 1, .stf 0 1 2 1, .clrf 0 2 1], clearToAct i s = true)
      ∧ (∀ i ∈ [Instr.stW 0 1 2 0, .stH 0 1 2 0, .stB 0 1 2 0, .stef 0 1 2 0, .stf 0 1 2 0, .clrf 0 2 0], clearToAct i small = true)
      ∧ small.core.th.task.spad * 65536 < 0xFFFFC + 1) := by
  unfold banksServe reaches joined; decide +kernel

/-- O41: contiguous, strided and indexed lanes under a guard of lanes 0 and 63, and of none (p2); full words for vldf. The
described load is of two blocks of BF16 elements. Each trap of a lane, at the only active one and past one in order; each of a
described load: a format code of no format, reserved bits, a raw block, a run past the end and one past the grant. -/
theorem witness_VectorLoadResults :
    let s := sV false
    let a := fun (l : Nat) => (s.opnds (.vld 1 5 2 0)).xa + BitVec.ofInt 32 (0 * 256) + BitVec.ofNat 32 (4 * l)
    (∀ i ∈ [Instr.vld 1 5 2 0, .vlds 1 5 2 3, .vldx 1 5 2 3], clearToAct i s = true)
    ∧ (activeLanes (s.opnds (.vld 1 5 2 0)).g) = [0, 63]
    ∧ banksServe s ((activeLanes (s.opnds (.vld 1 5 2 0)).g).map fun l => (l, (a l).toNat)) ∧ (a 0).toNat % 256 = 0
    ∧ (∀ l ∈ activeLanes (s.opnds (.vld 1 5 2 0)).g, reaches s (a l) 4 ∧ s.seen.bad (a l).toNat = false ∧ joined s (a l).toNat)
    ∧ clearToAct (.vldf 1 5 2 0) (sV true) = true ∧ banksServe (sV true) ([0, 63].map fun l => (l, (a l).toNat))
    ∧ (∀ l ∈ [0, 63], reaches (sV true) (a l) 4 ∧ (sV true).seen.bad (a l).toNat = false
      ∧ (sV true).core.spad.full (a l).toNat = true ∧ (sV true).seen.full (a l).toNat = true) ∧ swf false (sV true).core.spad.fe = true
    ∧ (let t := s0.updCore fun c => { c with spad := { c.spad with desc := [(0, 3), (1, 3)] } }
      let d := fun n => (t.seen.descAt n).toNat
      let w := fmtWidth (d 0 % 256)
      clearToAct (.vldd 0 5 2 0) t = true ∧ banksServe t ((List.range (2 * w)).map fun j => (0, 0 + 4 * j)) ∧ w ≠ 0
      ∧ 0 + 8 * w ≤ 0x100000 ∧ 0 + 8 * w ≤ t.core.th.task.spad * 65536
      ∧ ∀ n, n < 128 → fmtWidth (d n % 256) = w ∧ d n < 4096 ∧ t.seen.bad n = false ∧ joined t n
        ∧ t.owns t.core (n / 65536) t.core.th.task.part t.core.th.task.slot t.core.th.tid = true) := by
  unfold banksServe reaches joined; decide +kernel

theorem witness_VectorLoadResults_traps :
    let s := sV false
    let a := fun (l : Nat) => (s.opnds (.vld 1 5 2 0)).xa + BitVec.ofInt 32 (0 * 256) + BitVec.ofNat 32 (4 * l)
    (∀ i ∈ [Instr.vld 1 5 2 0, .vldf 1 5 2 0, .vlds 1 5 2 3, .vldx 1 5 2 3],
      clearToAct i (withX s 2 0xFFF01) = true ∧ clearToAct i (withX s 2 0x100000) = true)
    ∧ (∀ i ∈ [Instr.vld 1 5 2 0, .vldf 1 5 2 0, .vlds 1 5 2 3, .vldx 1 5 2 3], clearToAct i (sSmall s) = true)
    ∧ (sSmall s).core.th.task.spad * 65536 < (a 0).toNat + 4
    ∧ (let u := withX (withX s 2 0xFFFFC) 3 0x4000000
      let x := fun (l : Nat) => (u.opnds (.vlds 1 5 2 3)).xa + BitVec.ofNat 32 l * (u.opnds (.vlds 1 5 2 3)).xb
      clearToAct (.vlds 1 5 2 3) u = true ∧ (x 0).toNat % 4 = 0 ∧ (x 0).toNat < 0x100000
      ∧ (x 0).toNat + 4 ≤ u.core.th.task.spad * 65536 ∧ (x 63).toNat % 4 = 0 ∧ 0x100000 ≤ (x 63).toNat)
    ∧ (clearToAct (.vldd 0 5 2 0) (withX s0 2 32) = true ∧ clearToAct (.vldd 0 5 2 0) (withX s0 2 0x100000) = true
      ∧ clearToAct (.vldd 0 5 2 0) (withX s0 2 0) = true)
    ∧ (let named := fun (d : Nat) => clearToAct (.vldd 0 5 2 0) (s0.updCore fun c => { c with spad := { c.spad with desc := [(0, d)] } })
      named 0xFF = true ∧ named 0x1003 = true ∧ named 0 = true ∧ named 0x30 = true)
    ∧ fmtValid 0xFF = false ∧ fmtValid 3 = true ∧ fmtValid 0 = true ∧ fmtWidth 0 = 0 ∧ fmtValid 0x30 = true ∧ fmtWidth 0x30 = 0
    ∧ s0.owns s0.core 0 s0.core.th.task.part s0.core.th.task.slot s0.core.th.tid = true
    ∧ (let t := sSmall (withX (s0.updCore fun c => { c with spad := { c.spad with desc := [(0x3FF, 3), (0x400, 3), (0x3FFF, 3)] } }) 2 0xFFC0)
      clearToAct (.vldd 0 5 2 0) t = true ∧ 0xFFC0 + 8 * fmtWidth 3 ≤ 0x100000 ∧ t.core.th.task.spad * 65536 < 0xFFC0 + 8 * fmtWidth 3
      ∧ t.owns t.core (0xFFC0 / 65536) t.core.th.task.part t.core.th.task.slot t.core.th.tid = true
      ∧ (∀ n, n < 128 → t.seen.descAt (0xFFC0 + n) = 3)
      ∧ clearToAct (.vldd 0 5 2 0) (withX t 2 0xFFFC0) = true ∧ t.seen.descAt 0xFFFC0 = 3 ∧ 0x100000 < 0xFFFC0 + 8 * fmtWidth 3
      ∧ t.owns t.core (0xFFFC0 / 65536) t.core.th.task.part t.core.th.task.slot t.core.th.tid = true) := by
  decide +kernel

/-- O42: the same lanes for the stores; a described store of BF16 elements; the traps as for the loads. -/
theorem witness_VectorStoreResults :
    let s := sV false
    let a := fun (l : Nat) => (s.opnds (.vst 1 5 2 0)).xa + BitVec.ofInt 32 (0 * 256) + BitVec.ofNat 32 (4 * l)
    (∀ i ∈ [Instr.vst 1 5 2 0, .vstf 1 5 2 0, .vsts 1 5 2 3, .vstx 1 5 2 3], clearToAct i s = true)
    ∧ banksServe s ((activeLanes (s.opnds (.vst 1 5 2 0)).g).map fun l => (l, (a l).toNat)) ∧ (a 0).toNat % 256 = 0
    ∧ banksServe s ((activeLanes (s.opnds (.vsts 1 5 2 3)).g).map fun l => (l, 0xFFF00))
    ∧ (∀ l ∈ [0, 63], reaches s (a l) 4 ∧ joined s (a l).toNat ∧ s.core.spad.full (a l).toNat = false)
    ∧ swf 0 s.core.spad.mem = true ∧ swf false s.core.spad.poison = true ∧ swf false s.core.spad.fe = true ∧ swf 0 s.core.spad.desc = true
    ∧ (let s0 := withX s0 3 3
      let o := s0.opnds (.vstd 0 5 2 3)
      let d := o.xb.toNat % 65536
      let w := fmtWidth (d % 256)
      clearToAct (.vstd 0 5 2 3) s0 = true
      ∧ banksServe s0 (((activeLanes o.g).map fun j => (o.xa.toNat + j * w / 8) / 4 * 4).eraseDups.map fun n => (0, n))
      ∧ o.xa.toNat % 64 = 0 ∧ w ≠ 0 ∧ fmtKeep (d % 256) = 0 ∧ d < 4096 ∧ o.xa.toNat + 8 * w ≤ 0x100000
      ∧ o.xa.toNat + 8 * w ≤ s0.core.th.task.spad * 65536
      ∧ ∀ n, n < 128 → joined s0 n ∧ s0.owns s0.core (n / 65536) s0.core.th.task.part s0.core.th.task.slot s0.core.th.tid = true) := by
  unfold banksServe reaches joined; decide +kernel

theorem witness_VectorStoreResults_traps :
    let s := sV false
    let a := fun (l : Nat) => (s.opnds (.vst 1 5 2 0)).xa + BitVec.ofInt 32 (0 * 256) + BitVec.ofNat 32 (4 * l)
    (∀ i ∈ [Instr.vst 1 5 2 0, .vstf 1 5 2 0, .vsts 1 5 2 3, .vstx 1 5 2 3],
      clearToAct i (sSmall s) = true ∧ clearToAct i (withX s 2 0xFFF01) = true ∧ clearToAct i (withX s 2 0x100000) = true)
    ∧ (sSmall s).core.th.task.spad * 65536 < (a 0).toNat + 4
    ∧ (let named := fun (p d : Word) => clearToAct (.vstd 0 5 2 3) (withX (withX s0 2 p) 3 d)
      named 32 3 = true ∧ named 0x100000 3 = true ∧ named 0 0xFF = true ∧ named 0 0x1003 = true ∧ named 0 0 = true ∧ named 0 0x30 = true
      ∧ named 0 0x13 = true)
    ∧ fmtValid 0xFF = false ∧ fmtValid (0x1003 % 256) = true ∧ fmtValid 0 = true ∧ fmtWidth 0 = 0 ∧ fmtKeep 0x13 ≠ 0 ∧ fmtValid 0x13 = true
    ∧ clearToAct (.vstd 0 5 2 3) (withX (withX s0 2 0xFFFC0) 3 3) = true ∧ 0x100000 < 0xFFFC0 + 8 * fmtWidth 3
    ∧ clearToAct (.vstd 0 5 2 3) (sSmall (withX (withX s0 2 0xFFC0) 3 3)) = true
    ∧ (sSmall s0).core.th.task.spad * 65536 < 0xFFC0 + 8 * fmtWidth 3 := by
  decide +kernel

/-- `s1` with the pair x2, x3, and x4. -/
def sP (lo hi b : Word) : State := withX (withX (withX s1 2 lo) 3 hi) 4 b

/-- A task made foldable. -/
def foldy (s : State) : State := s.updTh fun t => { t with task := { t.task with foldable := true } }

/-- O43: an address of the own scratchpad, for each of the three shapes; then each trap: a high half of 65536, an odd address, a
window address of a core outside the partition, a read-only page, a lock operation of a foldable task; an operand X(B) pending. -/
theorem witness_QueuedOperationsEnterTheQueue :
    let s := sP 0xFFF00 0 0
    let va := queuedVa (s.opnds (.qldW 0 2 4)) 0
    let ro := (sP 0x40000000 0 0).updCore fun c => { c with utlb := [⟨1, 0x40000000, 2 ^ 30, 0, 0x10⟩] }
    (∀ i ∈ [Instr.qldW 0 2 4, .qldH 0 2 4, .qldB 0 2 4, .waita 0 2 4, .waitc 0 2 4, .amoAdd 0 2 4, .amoAnd 0 2 4, .amoOr 0 2 4,
      .amoXor 0 2 4, .amoMin 0 2 4, .amoMax 0 2 4, .amoMinu 0 2 4, .amoMaxu 0 2 4, .amoSwap 0 2 4, .amoCas 0 1 2 4, .rwlRd 0 2, .rwlWr 0 2,
      .rwlRu 0 2, .rwlWu 0 2, .qstW 0 1 2 4, .qstH 0 1 2 4, .qstB 0 1 2 4, .vqld 0 2 0, .vqst 0 1 2 0], clearToAct i s = true)
    ∧ (s.opnds (.qldW 0 2 4)).xa1.toNat < 65536 ∧ va % 4 = 0 ∧ va % 256 = 0 ∧ placeIs s va (.spad 0 0xFFF00)
    ∧ (Place.spad 0 0xFFF00).readOnly = false ∧ s.core.th.task.foldable = false ∧ lqRoom s
    ∧ s.core.th.ql < 32 ∧ s.qs < 32 ∧ s.thBefore.vq.length + s.core.th.vqPend.length < 4
    ∧ (∀ i ∈ [Instr.amoAdd 0 2 4, .amoCas 0 1 2 4, .rwlRd 0 2], clearToAct i (foldy s) = true) ∧ (foldy s).core.th.task.foldable = true
    ∧ (foldy s).noHold = false ∧ placeIs (foldy s) va (.spad 0 0xFFF00) ∧ lqRoom (foldy s)
    ∧ (foldy s).locate va = .found (.spad 0 0xFFF00)
    ∧ clearToAct (.qldW 0 2 4) (sP 0 65536 0) = true ∧ 65536 ≤ ((sP 0 65536 0).opnds (.qldW 0 2 4)).xa1.toNat
    ∧ clearToAct (.qldW 0 2 4) (sP 2 0 0) = true ∧ queuedVa ((sP 2 0 0).opnds (.qldW 0 2 4)) 0 % 4 ≠ 0
    ∧ clearToAct (.qldW 0 2 4) (sP 0xF00000 0xFF00 0) = true
    ∧ (sP 0xF00000 0xFF00 0).locate (queuedVa ((sP 0xF00000 0xFF00 0).opnds (.qldW 0 2 4)) 0) = .bad 4
    ∧ clearToAct (.amoAdd 0 2 4) ro = true ∧ ro.locate 0x40000000 = .found (.mem 0 0x10) ∧ (Place.mem 0 0x10).readOnly = true
    ∧ (∀ i ∈ [Instr.qstW 0 1 2 4, .qstH 0 1 2 4, .vqld 0 2 0, .vqst 0 1 2 0], clearToAct i (sP 0 65536 0) = true ∧ clearToAct i (sP 1 0 0) = true
      ∧ clearToAct i (sP 0xF00000 0xFF00 0) = true ∧ clearToAct i ro = true)
    ∧ queuedVa ((sP 1 0 0).opnds (.qstH 0 1 2 4)) 0 % 2 ≠ 0 ∧ queuedVa (ro.opnds (.vqst 0 1 2 0)) 0 = 0x40000000
    ∧ (∀ q ∈ [sP 0 65536 0, sP 2 0 0, sP 0xF00000 0xFF00 0], ∀ i ∈ [Instr.qldW 0 2 4, .qstW 0 1 2 4, .amoAdd 0 2 4, .amoCas 0 1 2 4, .waita 0 2 4],
      let u := (q.updCore fun c => { c with env := { c.env with seq := 4 } }).updTh fun t => { t with inflight := [⟨5, 0, 0, true, .x 4 1, true, false⟩] }
      u.core.env.served = none ∧ forbiddenIn u.core.th.mode i = false ∧ suppressedBy i (u.srcP (shape i).g) = false ∧ u.portTrap i = none
      ∧ u.portStall i = false ∧ u.pendSrcs i = [.b])
    ∧ 65536 ≤ ((sP 0 65536 0).opnds (.amoAdd 0 2 4)).xa1.toNat ∧ queuedVa ((sP 2 0 0).opnds (.amoAdd 0 2 4)) 0 % 4 ≠ 0 := by
  unfold placeIs lqRoom; decide +kernel

/-- O44: the own rank and rank 1; bit 16 of the high half, rank 2 of 2, an address not of a word. -/
theorem witness_FabricOperationsReachTheirRank :
    let rank := fun (s : State) => (s.opnds (.fld 0 2)).xa1.toNat / 2 ^ 22
    let own := sP 0xFFFFC 0 0
    let far := sP 0xFFFFC 0x400000 0
    (∀ s ∈ [own, far, sP 0 0x10000 0, sP 0 0x800000 0, sP 2 0 0], ∀ i ∈ [Instr.fld 0 2, .fst 0 2 4, .famoAdd 0 2 4, .famoMax 0 2 4, .famoOr 0 2 4,
      .famoSwap 0 2 4], clearToAct i s = true)
    ∧ (∀ s ∈ [own, far], bits (s.opnds (.fld 0 2)).xa1.toNat 21 16 = 0 ∧ (s.opnds (.fld 0 2)).xa.toNat % 4 = 0
      ∧ s.taskCtx s.core.th.task = some d1 ∧ rank s < d1.gangsz ∧ s.core.th.task.foldable = false ∧ s.qs < 32 ∧ lqRoom s
      ∧ clearToAct (.famoAdd 0 2 4) (foldy s) = true ∧ (foldy s).noHold = false ∧ lqRoom (foldy s))
    ∧ rank own = d1.rank ∧ placeIs own 0xFFFFC (.spad 0 0xFFFFC) ∧ placeIs (foldy own) 0xFFFFC (.spad 0 0xFFFFC)
    ∧ (Place.spad 0 0xFFFFC).readOnly = false ∧ rank far ≠ d1.rank
    ∧ bits ((sP 0 0x10000 0).opnds (.fld 0 2)).xa1.toNat 21 16 ≠ 0 ∧ d1.gangsz ≤ rank (sP 0 0x800000 0)
    ∧ ((sP 2 0 0).opnds (.fld 0 2)).xa.toNat % 4 ≠ 0 := by
  unfold placeIs lqRoom; decide +kernel

/-- O45: a channel of each kind; a message at hand and none; a credit and none; a pipe outside a bound set. -/
theorem witness_ChannelOperationResults :
    let m : ChanMsg := { core := 0, ch := 1, num := 0, src := 0, payload := [1, 2, 3, 4] }
    let h := s1.updCtx 0 0 fun x => { x with msgs := [m] }
    let f := s1.updCtx 0 0 fun x => { x with used := sset 0 x.used (chKey s1.myLog 1) 2 }
    (clearToAct (.chbind 0 57 2) s1 = true ∧ (s1.myChan 2).kind ≠ 0 ∧ (s1.myChan 2).kind ≠ 3 ∧ (s1.myChan 2).ty = 3 ∧ (s1.myChan 2).count = 1)
    ∧ clearToAct (.chbindUnbind 0 60) s1 = true
    ∧ clearToAct (.csnd 0 1 2) s1 = true ∧ (s1.myChan 1).kind ≠ 0 ∧ (s1.myChan 1).kind ≠ 3 ∧ s1.pipeRole 1 true = false ∧ s1.hasCredit 1 = true
    ∧ s1.core.th.task.foldable = false ∧ clearToAct (.csnd 0 1 2) (foldy s1) = true ∧ (foldy s1).noHold = false
    ∧ s1.core.th.holdq.contains (.reserved s1.core.env.seq) = false
    ∧ (th s1 fun t => { t with holdq := [.reserved s1.core.env.seq] }).core.th.holdq.contains (.reserved s1.core.env.seq) = true
    ∧ h.headMsg 1 = some m ∧ (h.myChan 1).kind ≠ 0 ∧ h.pipeRole 1 false = false ∧ clearToAct (.crcv 0 1 1) h = true
    ∧ clearToAct (.crad 0 1 1) h = true ∧ (h.myChan 1).op ≠ 0 ∧ (h.myChan 1).op ≠ 4 ∧ (h.myChan 1).ty ≠ 3
    ∧ (s1.myChan 0).kind = 0 ∧ (∀ i ∈ [Instr.chbind 0 57 0, .csnd 0 0 2, .crcv 0 1 0, .crad 0 1 0], clearToAct i s1 = true)
    ∧ clearToAct (.chbind 0 57 3) s1 = true ∧ (s1.myChan 3).kind = 3
    ∧ (∀ i ∈ [Instr.csnd 0 3 2, .crcv 0 1 3, .crad 0 1 3], clearToAct i s1 = true)
    ∧ clearToAct (.csnd 0 4 2) s1 = true ∧ s1.pipeRole 4 true = true ∧ clearToAct (.crcv 0 1 4) s1 = true ∧ s1.pipeRole 4 false = true
    ∧ (s1.myChan 4).kind ≠ 0 ∧ (s1.myChan 4).kind ≠ 3 ∧ (s1.myChan 2).kind ≠ 2
    ∧ clearToAct (.chbind 0 57 5) s1 = true ∧ (s1.myChan 5).kind = 2 ∧ (s1.myChan 5).ty = 3 ∧ (s1.myChan 5).count = 1 ∧ s1.core.th.task.role = none
    ∧ (th s1 fun t => { t with task := { t.task with role := some 1 } }).core.th.task.role ≠ none
    ∧ clearToAct (.crcv 0 1 1) s1 = true ∧ s1.headMsg 1 = none ∧ clearToAct (.csnd 0 1 2) f = true ∧ f.hasCredit 1 = false := by decide +kernel

/-- O46: an M queue with room, a nest of tiles in the grant, a tile operand at the end of the grant. -/
theorem witness_CellSequenceConfiguration :
    clearToAct (.cseq 0 2) s0 = true ∧ s0.core.th.mq.length < 4 ∧ s0.core.th.mq.countP (fun m => isNest m.instr) < 2
    ∧ accTrap s0 (s0.early (.ngo 0)).shadow.tiles = none ∧ s0.core.env.served = none ∧ clearToAct (.ngo 0) s0 = true ∧ 95 < 4 * s0.core.th.task.accr
    ∧ clearToAct (.tmma 0 95 63 2) s0 = true := by decide +kernel

/-- O47: the configuration; tiles in and outside the grant; a full queue; a nest to stop, alone and all, one that completes
already, and a running one with another behind it. -/
theorem witness_MatrixConfigurationAndQueue :
    let l : List Instr := [.ngo 0, .tzero 0 95 1 1, .tout 0 95 2 3, .tin 0 95 2 3, .tacc 0 95 2 3, .tmov 0 95 0, .wprn24 0 63 62, .wprn48 0 63 62,
      .wbld 0 63 2 3]
    let small := s0.updTh fun t => { t with task := { t.task with accr := 1 } }
    let full := s0.updTh fun t => { t with mq := [move0, move0, move0, move0] }
    let stop := s0.updTh fun t => { t with mq := [move0, nest0, move0] }
    (∀ i ∈ [Instr.nset 0 0 2, .nseti 0 31 (-2048), .mscl 0 2, .tmma 0 95 63 2], clearToAct i s0 = true)
    ∧ (({} : MCfg).sel.map (·.1)).Pairwise (· < ·)
    ∧ (s0.opnds (.mscl 0 2)).xa.toNat % 64 = 0 ∧ reaches s0 (s0.opnds (.mscl 0 2)).xa 1 ∧ s0.seen.bad 0 = false ∧ (∀ j, j < 16 → joined s0 (4 * j))
    ∧ (∀ i ∈ l, clearToAct i s0 = true) ∧ s0.core.th.mq.length < 4 ∧ s0.core.th.mq.countP (fun m => isNest m.instr) < 2 ∧ 95 < 4 * s0.core.th.task.accr
    ∧ (∀ i ∈ l, clearToAct i small = true) ∧ 4 * small.core.th.task.accr ≤ 95 ∧ (∀ i ∈ l, clearToAct i full = true) ∧ 4 ≤ full.core.th.mq.length
    ∧ clearToAct (.nstop 0 0) stop = true ∧ clearToAct (.nstop 0 1) stop = true ∧ stop.core.th.mq = [move0] ++ nest0 :: [move0]
    ∧ isNest nest0.instr = true ∧ nest0.doneAt = none
    ∧ (∀ e ∈ [move0], e.stoppable 0 = false ∧ isNest e.instr = false) ∧ stop.pkg.time = 0
    ∧ (let m := { nest0 with started := some 0, doneAt := some 1 }
      let s := s0.updTh fun t => { t with mq := [move0, m, nest0] }
      clearToAct (.nstop 0 0) s = true ∧ s.core.th.mq = [move0] ++ m :: [nest0] ∧ m.started.isSome = true ∧ s.pkg.time < 1)
    ∧ (let m := { nest0 with started := some 0, pass := some 9 }
      let s := s0.updTh fun t => { t with mq := [move0, m, move0, nest0] }
      clearToAct (.nstop 0 1) s = true ∧ s.core.th.mq = [move0] ++ m :: ([move0] ++ nest0 :: []) ∧ m.pass.isSome = true
      ∧ m.doneAt = none ∧ nest0.started = none ∧ nest0.pass = none) := by
  unfold reaches joined; decide +kernel

/-- The commands and collectives, each with its last token and all its flags. -/
def cmds0 : List Instr :=
  [.ccp 0 7 7 2 0, .cnd 0 7 7 2 3, .cgat 0 7 7 2 0, .csct 0 7 7 2 0, .cwb 0 7 4 2 0, .cfill 0 7 7 2 0, .cred 0 7 7 2 0, .csig 0 7 4 2 0,
    .xar 0 7 5 2 0, .xrs 0 7 5 2 0, .xag 0 7 5 2 0, .xbc 0 7 5 2 0, .xmrg 0 7 5 2 0, .xred 0 7 5 2 0, .xbar 0 7 5 2 0]

/-- `s1` with x2 the last block of the scratchpad; with a grant of one region; with a full class counter. -/
def sC : State := withX s1 2 0xFFFC0
def sCsmall : State := sC.updTh fun t => { t with task := { t.task with spad := 1 } }
def sCfull : State := sC.updTh fun t => { t with cbuf := List.replicate 32 cmd0 }

/-- O48: a parameter block in the grant, and each trap; a foldable task; a full class counter. -/
theorem witness_CommandsEnterTheirBuffer :
    (∀ i ∈ cmds0, ∀ s ∈ [sC, withX s1 2 4, withX s1 2 0x100000, sCsmall, foldy sC, sCfull], clearToAct i s = true)
    ∧ banksServe sC ((List.range 16).map fun k => (0, 0xFFFC0 + 4 * k)) ∧ (sC.opnds (.ccp 0 7 7 2 0)).xa = 0xFFFC0
    ∧ (∀ s ∈ [sC, foldy sC, sCfull], reaches s 0xFFFC0 1 ∧ s.seen.bad 0xFFFC0 = false ∧ ∀ j, j < 16 → joined s (0xFFFC0 + 4 * j))
    ∧ sC.core.th.task.foldable = false ∧ sC.cp < 32
    ∧ sCsmall.core.th.task.spad * 65536 ≤ 0xFFFC0 ∧ (foldy sC).core.th.task.foldable = true ∧ (foldy sC).noHold = false
    ∧ sCfull.core.th.task.foldable = false ∧ 32 ≤ sCfull.cp := by
  unfold banksServe reaches joined; decide +kernel

/-- A slip entry of `add x1, x2, x3`. -/
def slip0 : Slip :=
  { slot := 1, why := 2, seq := 1, ext := 0, sword := 0x1083, baddr := 0, rrb := 0, instr := .add 0 1 2 3, ops := { g := -1, xa := 5, xb := 7 },
    pend := [], lanes := [], part := 0 }

/-- `Gives` of an operation that a slip entry may hold. -/
theorem gives_add : Gives (.add 0 1 2 3) (fun o t => t.putX 1 1 (o.xa + o.xb)) := by
  intro s o t h
  exact present_acts (m := { eff := fun o s => .next (s.putX 1 1 (o.xa + o.xb)) }) h rfl rfl rfl rfl rfl

/-- A bank-served `vld` in slot 1 with a lane still to serve. -/
def slipV : Slip := { slip0 with instr := .vld 0 1 2 0, why := 0, lanes := [(0, 0)], checked := true }

/-- O49, the slips: an entry whose source lands poisoned, and one whose source lands whole; an entry to serve, by what it gives and
as a register operation; one that a source holds; one whose banks serve it. -/
theorem witness_CoreStepsBetweenBundles_slips :
    (let e := { slip0 with pend := [.a] }
      let s := fun (b : Bool) => th s0 fun t => { t with slips := [e], inflight := [⟨0, 0, 0, false, .x 2 1, true, b⟩] };
      (s true).landDue.core.th.slips = [e] ∧ (.a, (0, 2)) ∈ srcRegs e.rrb e.instr ∧ Role.a ∈ e.pend
      ∧ (s true).landDue.core.th.pending e.seq (0, 2) = false ∧ (0, 2) ∈ (s true).landDue.core.th.rpoison
      ∧ (s false).landDue.core.th.slips = [e] ∧ (s false).landDue.core.th.rpoison = [])
    ∧ (let s := th s0 fun t => { t with slips := [slip0] };
      s.landDue.core.th.slips[0]? = some slip0 ∧ s.at_.core.th.slips[s.ev.k]? = some slip0 ∧ s.at_.slipHeld slip0 = none
      ∧ slotOp slip0.instr = true ∧ isDirect slip0.instr = false ∧ slip0.lanes = [] ∧ suppressedBy slip0.instr slip0.ops.g = false
      ∧ (let v := s.at_.updCore fun c => { c with env := slip0.env }
        v.pushHold slip0.instr slip0.ops = none ∧ ((v.mark .issued).putX 1 1 (slip0.ops.xa + slip0.ops.xb)).core.issue = .issued)
      ∧ registerOp slip0.instr = true ∧ s.at_.core.th.task.foldable = false)
    ∧ (let s := th s0 fun t => { t with slips := [{ slip0 with pend := [.a] }] };
      s.at_.core.th.slips[s.ev.k]? = some { slip0 with pend := [.a] } ∧ s.at_.slipHeld { slip0 with pend := [.a] } = some 2)
    ∧ (let s := th s0 fun t => { t with slips := [slipV] };
      s.at_.core.th.slips[s.ev.k]? = some slipV ∧ s.at_.slipHeld slipV = none ∧ progressive slipV.instr = true ∧ slipV.why = 0 ∧ slipV.lanes ≠ []
      ∧ s.at_.core.qacc = [] ∧ s.at_.pkg.waiters = []) := by
  decide +kernel

/-- O49, clause by clause: a pending fault; a hold that has run out; a spent allowance; a micro-TLB miss with a
leaf and with a fault; an overlay that is wanted; a full episode; a rebase due, and one in progress. -/
theorem witness_CoreStepsBetweenBundles :
    (let s := th s0 fun t => { t with pendF := [⟨0x0A, 5, 0⟩] };
      s.at_.core.phase = .run ∧ s.at_.core.th.mode = .task ∧ s.at_.core.th.bubble = 0 ∧ s.at_.core.th.pendF = [⟨0x0A, 5, 0⟩])
    ∧ (let s := th s0 fun t => { t with csr := { t.csr with estat := 3 }, holdCnt := 0 };
      s.at_.core.th.csr.estat.getLsbD 1 = true ∧ s.at_.core.th.holdCnt = 0)
    ∧ (let s := th s0 fun t => { t with limited := true, begun := true, left := 0 };
      s.at_.core.phase = .run ∧ s.at_.core.th.limited = true ∧ s.at_.core.th.spent = false ∧ s.at_.core.th.begun = true ∧ s.at_.core.th.left = 0)
    ∧ (let s := fun va => s1.updCore fun c => { c with xreq := some va };
      (s 0).pkg.dtlb = [] ∧ (∀ va ∈ [0x100000, 0x80000000], (s va).at_.core.xreq = some va ∧ (s va).at_.taskCtx (s va).at_.core.th.task = some d1)
      ∧ (s 0x100000).at_.walk d1 0x100000 = .leaf leaf1 ∧ (s 0x80000000).at_.walk d1 0x80000000 = .fault 2) := by
  decide +kernel

theorem witness_CoreStepsBetweenBundles_units :
    (let s := img s1 image1;
      s.at_.overlayWanted s.at_.core = some 0 ∧ s.at_.taskCtx s.at_.core.th.task = some d1
      ∧ (s.at_.images s.at_.core.th.task.part).find? (fun i => i.id = s.at_.core.th.task.image) = some image1
      ∧ min 4096 ((image1.textLen - 0 * 16384) / 4) = 4 ∧ (∀ k, k < 4 → s.at_.walk d1 (image1.textVa + 4 * k) = .leaf leaf1)
      ∧ attrNx leaf1.attr = false ∧ s.at_.pkg.dtlb = [])
    ∧ (let e : Episode := { grp := 1, die := some 0, line := some 0, arrived := [1], opened := 0 }
      let s := evs ((th s1 fun t => { t with csr := { t.csr with gmask := 2 }, waitG := some 1, arrived := true }).updCtx 0 0 fun x =>
        { x with episodes := [e] }) { n := 1 };
      s.holdsRota s.ev.p s.ev.s = false ∧ (part0 s fun q => { q with gang := 1 }).holdsRota s.ev.p s.ev.s = true
      ∧ (s.getCtx s.ev.p s.ev.s).episodes.find? (fun e => e.grp = s.ev.n) = some e ∧ e.line ≠ none
      ∧ s.groupMembers s.ev.p s.ev.s e.grp ≠ [] ∧ ∀ h ∈ s.groupMembers s.ev.p s.ev.s e.grp, h.tid ∈ e.arrived)
    ∧ (part0 s1 fun q => { q with fts := [(0, 2 ^ 31 + 1)] }).rebaseDue 0 = true
    ∧ (let s := part0 s1 fun q => { q with rebasing := true };
      (s.getPart s.ev.p).rebasing = true ∧ swf 0 s.pkg.hbm.wts = true ∧ swf 0 s.pkg.hbm.rts = true ∧ swf {} s.pkg.parts = true
      ∧ (s.getPart s.ev.p).cores.Nodup ∧ 0 ∈ (s.getPart s.ev.p).cores ∧ 2 ∉ (s.getPart s.ev.p).cores) := by decide +kernel

/-- O50: an access at the head of its core's queue, one that a waiting operation holds back, a request and a message in the queue. -/
theorem witness_QueuedAccessesAtTheirHome_queue :
    (let q := acc0 (.qldW 0 2 4)
      let s := evs (s0.updCore fun c => { c with qacc := [q] }) { w := 1 };
      s.ev.n ≠ 1 ∧ s.paused s.ev.c = false ∧ (s.headsQ s.ev.c).find? (fun q => q.tid = s.ev.w) = some q ∧ q.blocks = [] ∧ s.ev.j = 0 ∧ q.sends = none
      ∧ s.pkg.rem.length < 2 ^ 15
      ∧ (s.touchPlace q.task.part q.task.slot (q.place.plus (64 * s.ev.j))).1 = true)
    ∧ (let w : Waiter := { core := 0, acc := acc0 (.waita 0 2 4), counted := false }
      let q : QAcc := { acc0 (.qldW 0 2 4) with id := 1 }
      let s := pk (s0.updCore fun c => { c with qacc := [q, { q with id := 2, hdl := true }] }) fun g => { g with waiters := [w] };
      q ∈ (s.getCore 0).qacc ∧ q ∉ s.headsQ 0 ∧ { q with id := 2, hdl := true } ∈ s.headsQ 0)
    ∧ (let q : QAcc := { acc0 (.fld 0 2) with sends := some (.request (2 ^ 54 + 0x100000) .load { kind := 2, arg := 4 }) }
      let s := evs ((part0 s1 fun q => { q with gang := 1 }).updCore fun c => { c with qacc := [q] }) { w := 1 };
      s.paused s.ev.c = false ∧ (s.headsQ s.ev.c).find? (fun q => q.tid = s.ev.w) = some q ∧ s.taskCtx q.task = some d1
      ∧ swf {} s.pkg.parts = true ∧ swf 0 (s.getPart q.task.part).fts = true)
    ∧ (let q : QAcc := { acc0 (.csnd 0 1 2) with sends := some (.message none pkt0) }
      let s := evs ((part0 s1 fun q => { q with gang := 1 }).updCore fun c => { c with qacc := [q] }) { w := 1 };
      s.paused s.ev.c = false ∧ (s.headsQ s.ev.c).find? (fun q => q.tid = s.ev.w) = some q) := by
  decide +kernel

/-- O50, at the home: a scratchpad and HBM; a free and a held lock word; a registered wait whose word satisfies it and whose does not;
results to return. -/
theorem witness_QueuedAccessesAtTheirHome :
    (let q := acc0 (.qldW 0 2 4);
      q.place = .spad 0 0xFFFFC ∧ unseen (sget [] (s0.getCore 0).swzOld (0xFFFFC / 4)) 0 = [] ∧ (s0.getCore 0).spad.bad 0xFFFFC = false
      ∧ q.va % 4 = 0 ∧ 0xFFFFC % 4 = q.va % 4)
    ∧ (let locked := s0.updCore fun c => { c with spad := { c.spad with mem := lePut [] 0xFFFFC 0x80000000 4 } }
      let w0 := (s0.getCore 0).spad.word 0xFFFFC
      let w1 := (locked.getCore 0).spad.word 0xFFFFC;
      (!w0.getLsbD 31 && decide (w0.toNat % 2 ^ 16 < 0xFFFF)) = true ∧ (!w0.getLsbD 31 && decide (w0.toNat % 2 ^ 16 = 0)) = true
      ∧ decide (w0.toNat % 2 ^ 16 = 0) = true ∧ (!w0.getLsbD 31) = true ∧ w1.getLsbD 31 = true ∧ w1.toNat / 2 ^ 16 % 2 ^ 14 < 0x3FFF
      ∧ ((s0.updCore fun c => { c with spad := { c.spad with mem := lePut [] 0xFFFFC 1 4 } }).core.spad.word 0xFFFFC).toNat % 2 ^ 16 ≠ 0)
    ∧ (let q : QAcc := { acc0 (.vqld 0 2 0) with va := 0xFFF00, place := .spad 0 0xFFF00, blocks := [3] };
      q.place = .spad 0 0xFFF00 ∧ 0xFFF00 % 256 = 0 ∧ (s0.getCore 0).spad.bad (0xFFF00 + 64 * 3) = false
      ∧ ∀ i, i < 16 → unseen (sget [] (s0.getCore 0).swzOld (0xFFF00 / 4 + 16 * 3 + i)) 0 = [])
    ∧ (let q : QAcc := { acc0 (.qldW 0 2 4) with va := 0x100000, place := .mem 0x100000 2 };
      q.place = .mem 0x100000 2 ∧ 2 % 4 = 2 ∧ s1.pkg.hbm.bad 0x100000 = false ∧ (s1.getCore 0).line (s1.asidOf q.task) q.va 0x100000 2 = none)
    ∧ (let w : Waiter := { core := 0, acc := acc0 (.waita 0 2 4), counted := false }
      let s := evs (pk s0 fun g => { g with waiters := [w] }) { n := 1 };
      s.ev.n = 1 ∧ s.pkg.waiters[s.ev.k]? = some w ∧ w.acc.place = .spad 0 0xFFFFC ∧ unseen (sget [] (s.getCore 0).swzOld (0xFFFFC / 4)) w.core = []
      ∧ (s.getCore 0).spad.word 0xFFFFC ≠ w.acc.b ∧ (s.getCore 0).spad.bad 0xFFFFC = false
      ∧ ((s.updCore fun c => { c with spad := { c.spad with poison := [(0x3FFF, true)] } }).getCore 0).spad.bad 0xFFFFC = true
      ∧ (s.updCore fun c => { c with spad := { c.spad with mem := lePut [] 0xFFFFC 1 4 } }).core.spad.word 0xFFFFC = w.acc.b)
    ∧ (∃ t : Thread, t.lqPend = [⟨0, some 5⟩] ∧ t.vqPend = [⟨0, 0, 0⟩]) := by
  refine ⟨by decide +kernel, by decide +kernel, by decide +kernel, by decide +kernel, by decide +kernel,
    ⟨{ lqPend := [⟨0, some 5⟩], vqPend := [⟨0, 0, 0⟩] }, rfl, rfl⟩⟩

/-- A machine with one M operation, at a cycle. -/
def sM (m : MOp) (now : Nat) : State := pk (th s0 fun t => { t with mq := [m] }) fun k => { k with time := now }

/-- Whether a step of that operation is the one due. -/
def mDueIs (s : State) (m : MOp) (i : Instr) : Bool :=
  decide (s.at_.core.th.mq.find? (·.seq = s.ev.n) = some m) && decide ((m.due s.at_ s.at_.core).map (·.2) = some i)

/-- A nest in MAC mode on INT32 tiles, started, and the state in which tile 0 is an INT32 tile, the A blocks at 0 and slab 0 dense INT8. -/
def nest1 : MOp := { nest0 with cfg := { sel := [(1, 64), (4, 1)], cellseq := 0 }, started := some 0 }
def int8 : DBlock := { data := 0, desc := 2, mask := 0 }
def sN : State :=
  (sM nest1 2).updCore fun c =>
    { c with tmode := [(0, true)], wb := (List.range 64).map fun k => (k, int8)
             spad := { c.spad with desc := (List.range 64).map fun k => (k, 2) } }

/-- The same nest with its pass in progress. -/
def nest2 : MOp := { nest1 with pass := some 0, passA := List.replicate 64 int8, passS := List.replicate 64 int8 }

/-- O51: starts whose checks pass, one after queued accesses, and one that fails; a pass start, a pass landing, a row of tzero, a row
read and a row written of tmov, a completion of each shape. -/
theorem witness_MatrixUnitSteps :
    (∀ m ∈ [{ nest0 with instr := .tzero 0 95 1 1 }, { nest0 with instr := .tmov 0 95 0, behind := true }, nest0],
      mDueIs (sM m 0) m .mOpStart = true ∧ ((sM m 0).at_.touchList 0 0 m.regions).1 = true
      ∧ (let u := ((sM m 0).at_.touchList 0 0 m.regions).2
        u.startChecks m = none ∧ (u.touchList 0 0 m.spadRegions).1 = true ∧ (isNest m.instr = true → m.cfg.tiles.isSome = true)))
    ∧ (let m : MOp := { nest0 with instr := .wbld 0 0 2 0, xa := 4 };
      mDueIs (sM m 0) m .mOpStart = true ∧ ((sM m 0).at_.touchList 0 0 m.regions).1 = true
      ∧ (((sM m 0).at_.touchList 0 0 m.regions).2.startChecks m).isSome = true)
    ∧ (mDueIs sN nest1 .passStart = true ∧ nest1.tileNo = 0 ∧ nest1.slabNo = 0 ∧ (sN.at_.touchList 0 0 [16 + 0 / 4, 40 + 0 / 16]).1 = true
      ∧ ((sN.core.slab 0).any (fun e => fmtKeep e.fmt ≠ 0)) = false ∧ (∀ a ∈ nest1.aBlocks 1, a % 64 = 0 ∧ a < 0x100000))
    ∧ (mDueIs (sM nest2 32) nest2 .passLanding = true ∧ nest2.cells = none ∧ nest2.sbk = false ∧ nest2.int = true ∧ macMode nest2.cfg.cellseq = true
      ∧ nest2.passA.length = 64 ∧ nest2.passS.length = 64 ∧ (∀ e ∈ nest2.passA, e.fmt = 2) ∧ swf 0 (sM nest2 32).at_.core.acc = true)
    ∧ (let m : MOp := { nest0 with instr := .tzero 0 95 1 1, started := some 0 };
      mDueIs (sM m 10) m .tileRowTransfer = true ∧ swf 0 (sM m 10).at_.core.acc = true)
    ∧ (let m : MOp := { nest0 with instr := .tmov 0 95 0, started := some 0, row := 63 };
      mDueIs (sM m 63) m .tileRowTransfer = true ∧ m.reads (sM m 63).at_.pkg.time = true ∧ sget false (sM m 63).at_.core.tpoison 0 = false)
    ∧ (∀ r ∈ [0, 63], let m : MOp := { nest0 with instr := .tmov 0 95 0, started := some 0, row := 64, rows := [(r + 4, r, List.replicate 64 7)] };
      mDueIs (sM m (r + 4)) m .tileRowTransfer = true ∧ m.reads (sM m (r + 4)).at_.pkg.time = false)
    ∧ (∀ i ∈ [Instr.ngo 0, .tmma 0 1 2 3, .tzero 0 1 1 0, .tout 0 1 2 3, .tin 0 1 2 3, .tacc 0 1 2 3, .tmov 0 1 2, .wprn24 0 1 2, .wprn48 0 1 2,
      .wbld 0 1 2 0], mDueIs (sM { nest0 with instr := i, started := some 0, doneAt := some 1, row := 64 } 1)
        { nest0 with instr := i, started := some 0, doneAt := some 1, row := 64 } .mOpComplete = true)
    ∧ (swf zeroBlock s0.at_.core.wb = true ∧ (∀ j, j < 64 → s0.at_.core.spad.bad (0 + 64 * j) = false
      ∧ fmtKeep ((s0.at_.core.spad.descAt (0 + 64 * j)).toNat % 256) = 0)
      ∧ ∀ j, j < 1024 → unseen (sget [] s0.at_.core.swzOld (0 / 4 + j)) s0.at_.core.num = []) := by
  decide +kernel

/-- O51, the rest of a pass start: what it reads passes its checks; with A blocks of another format it does not. -/
theorem witness_MatrixUnitSteps_pass :
    let u := (sN.at_.touchList 0 0 [16, 40]).2
    let v := u.touchList u.core.th.task.part u.core.th.task.slot ((nest1.aBlocks 1).map spadRegion).eraseDups
    v.1 = true ∧ checkRead u.core nest1 (v.2.readA nest1.fork nest1.pts (nest1.aBlocks 1)).1 (u.core.slab 0) = none
    ∧ u.passBad nest1 (nest1.aBlocks 1) = false ∧ u.core.th.task = sN.at_.core.th.task
    ∧ (let w := v.2.updCore fun c => { c with spad := { c.spad with desc := [] } };
      (checkRead u.core nest1 (w.readA nest1.fork nest1.pts (nest1.aBlocks 1)).1 (u.core.slab 0)).isSome = true) := by decide +kernel

/-- A pass of blocks of one format on a tile, landing, with a slab of another. -/
def nestP (int : Bool) (seq : Word) (k fa fs : Nat) : MOp :=
  { nest0 with cfg := { sel := [(1, 64), (4, if int then 1 else 0)], cellseq := seq }, started := some 0, pass := some 0
               passA := List.replicate k { data := 5, desc := BitVec.ofNat 16 fa, mask := 0 }
               passS := List.replicate 64 { data := 5, desc := BitVec.ofNat 16 fs, mask := -1 } }

/-- A row transfer in progress, at row 0 or the last, in the linear and in the swizzled view. -/
def rowOp (i : Instr) (row : Nat) (xa xb : Word) : MOp := { nest0 with instr := i, started := some 0, row, xa, xb }

/-- O51: passes dense and compressed, on FP32 and INT32 tiles, in MAC mode and in others; four products with a NaN, infinities of
one sign and of two, and all finite; then a row stored, and a row loaded and added. -/
theorem witness_MatrixUnitSteps_rows :
    (∀ r ∈ [(nestP false 0 64 3 3, 1, 16), (nestP false 0x10001 64 2 2, 1, 8), (nestP false 0 128 3 0x13, 2, 16),
        (nestP true 0x10002 128 2 0x12, 2, 8)], let m := r.1
      mDueIs (sM m 64) m .passLanding = true ∧ m.cells = none ∧ m.sbk = false ∧ m.passA.length = 64 * r.2.1 ∧ m.passS.length = 64
      ∧ (∀ a ∈ m.passA, a.width = r.2.2) ∧ (∀ c ∈ m.passS, c.width = r.2.2 ∧ (fmtKeep c.fmt = 0 ↔ r.2.1 = 1))
      ∧ swf 0 (sM m 64).at_.core.acc = true)
    ∧ (nestP false 0 64 3 3).int = false ∧ macMode (nestP false 0 64 3 3).cfg.cellseq = true
    ∧ (nestP true 0x10002 128 2 0x12).int = true ∧ macMode (nestP true 0x10002 128 2 0x12).cfg.cellseq = false
    ∧ (∃ x ∈ ([.nan false, .fin false 1 1, .fin true 1 2, .fin false 0 1] : List Machine.Num), x.isNan = true)
    ∧ (let l : List Machine.Num := [.inf true, .inf false, .fin true 1 2, .fin false 0 1];
      Machine.Num.inf true ∈ l ∧ Machine.Num.inf false ∈ l)
    ∧ (let l : List Machine.Num := [.inf true, .fin false 3 1, .fin true 1 2, .fin false 0 1];
      (∀ x ∈ l, x.isNan = false) ∧ Machine.Num.inf true ∈ l ∧ Machine.Num.inf (!true) ∉ l)
    ∧ (let l : List Machine.Num := [.fin false 1 1, .fin false 1 1, .fin false 1 1, .fin false 1 1];
      l.length = 4 ∧ ∀ i, i < 4 → l[i]? = some (.fin false 1 1)) := by
  decide +kernel

theorem witness_MatrixUnitSteps_transfers :
    (∀ r ∈ [(rowOp (.tout 0 95 2 3) 0 0 3, 0, false), (rowOp (.tout 0 95 2 3) 63 0x40 0x80100003, 0x40 + 63 * 64, true)],
      let m := r.1
      let s := sM m (m.row + 2)
      mDueIs s m .tileRowTransfer = true ∧ swf 0 s.at_.core.acc = true ∧ swf 0 s.at_.core.spad.mem = true ∧ swf 0 s.at_.core.spad.desc = true
      ∧ m.xb.getLsbD 31 = r.2.2 ∧ m.xa.toNat + m.row * (m.xb.toNat / 2 ^ 20 % 2 ^ 11 * 64) = r.2.1 ∧ r.2.1 % 64 = 0
      ∧ sget false s.at_.core.tpoison 95 = false ∧ fmtWidth (m.xb.toNat % 65536 % 256) = 16
      ∧ descSub true (m.xb.toNat % 65536) = none ∧ r.2.1 + 8 * 16 ≤ 0x100000
      ∧ ∀ k, k < 32 → unseen (sget [] s.at_.core.linOld (viewAddr r.2.2 (r.2.1 + 4 * k) / 4)) s.at_.core.num = []
        ∧ unseen (sget [] s.at_.core.swzOld (viewAddr r.2.2 (r.2.1 + 4 * k) / 4)) s.at_.core.num = [])
    ∧ (∀ m ∈ [rowOp (.tin 0 95 2 3) 0 0 0, rowOp (.tacc 0 95 2 3) 0 0 0, rowOp (.tin 0 95 2 3) 0 0 0x10000, rowOp (.tacc 0 95 2 3) 0 0 0x10000],
      let d := if m.xb.getLsbD 16 then 2 else 3
      let s := (sM m 2).updCore fun c => { c with spad := { c.spad with desc := [(0, d), (1, d)] } }
      mDueIs s m .tileRowTransfer = true ∧ swf 0 s.at_.core.acc = true ∧ swf 0 s.at_.core.spad.mem = true ∧ swf 0 s.at_.core.spad.desc = true
      ∧ (let w := fmtWidth (d.toNat % 256)
        (s.at_.core.spad.descAt (viewBlock false 0)) = d ∧ descSub true d.toNat = none ∧ 0 + 8 * w ≤ 0x100000
        ∧ sget false s.at_.core.tpoison 95 = false ∧ (s.at_.touchList s.at_.core.th.task.part s.at_.core.th.task.slot (runOf 0 (8 * w))).1 = true
        ∧ (∀ k, k < w / 8 → s.at_.core.spad.descAt (viewBlock false (0 + 64 * k)) = d ∧ s.at_.core.spad.bad (viewBlock false (0 + 64 * k)) = false)
        ∧ (m.xb.getLsbD 16 = true → d.toNat % 16 = 2 ∨ d.toNat % 16 = 6)
        ∧ ∀ k, k < 2 * w → unseen (sget [] s.at_.core.swzOld (viewAddr false (0 + 4 * k) / 4)) s.at_.core.num = [])) := by
  decide +kernel

/-- `s1` with it buffered at core 0; behind a running command of core 0; on the engine. -/
def sK : State := th s1 fun t => { t with cbuf := [copy0], cref := 1 }
def sSteal : State :=
  { evs (pk sK fun k => { k with cmds := [{ copy0 with ref := 5, eng := some 0 }] }) { c := 1 } with
    todo := [{ num := 1, phase := .run, th := { tid := 2, core := 1, task := placedTask } }] }
def sE : State := evs (pk s1 fun k => { k with cmds := [copy1] }) { w := 1 }

/-- O52: a command to start and one to steal; a start check that fails; a step; completions with and without a signal. -/
theorem witness_EngineAndChannelSteps :
    (sK.firstStart sK.ev.c (fun _ => true) = some copy0 ∧ sK.engineBusy 0 = false ∧ sK.cmdCtx copy0 = some d1 ∧ isColl copy0.instr = false
      ∧ isCgat copy0.instr = false ∧ isCsct copy0.instr = false ∧ copy0.next = [] ∧ copy0.startFault d1.rank d1.gangsz = none
      ∧ copy0.first = some ⟨0, 0, 0, 0⟩)
    ∧ sSteal.stealPick sSteal.ev.c = some copy0
    ∧ ({ copy0 with blk := copy0.blk.set 0 2 }).startFault d1.rank d1.gangsz ≠ none
    ∧ (sE.findCmd sE.ev.w sE.ev.k = some copy1 ∧ sE.paused copy1.own = false ∧ copy1.stopped = false ∧ copy1.next[sE.ev.j]? = some ⟨0, 0, 0, 64⟩
      ∧ sE.cmdCtx copy1 = some d1 ∧ copy1.ctl = 0 ∧ copy1.fe = false ∧ gaRank copy1.src = d1.rank ∧ gaRank copy1.dst = d1.rank
      ∧ (let k : Seg := ⟨0, 0, 0, 64⟩;
        copy1.srcAt k = 0 ∧ copy1.dstAt k = 64
        ∧ ∀ i, i < 64 → (sE.getCore 0).spad.bad i = false ∧ unseen (sget [] (sE.getCore 0).swzOld (i / 4)) 0 = []
          ∧ unseen (sget [] (sE.getCore 0).swzOld ((64 + i) / 4)) 0 = [])
      ∧ (sE.remoteTouch copy1.own 0 copy1.task.part copy1.task.slot).1 = true ∧ swf 0 (sE.getCore copy1.own).spad.mem = true)
    ∧ (let c : Cmd := { copy1 with next := [] };
      let s := evs (pk s1 fun k => { k with cmds := [c] }) { w := 1 };
      s.findCmd s.ev.w s.ev.k = some c ∧ s.written c = true ∧ s.cmdCtx c = some d1 ∧ c.signals = true ∧ c.held = false ∧ c.signalled = false
      ∧ gaRank c.sig = d1.rank ∧ gaVa c.sig = 0x1000 ∧ c.sigop = 0 ∧ unseen (sget [] (s.getCore c.own).swzOld (0x1000 / 4)) c.own = []
      ∧ swf 0 (s.getCore c.own).spad.mem = true ∧ (s.remoteTouch c.own 0 c.task.part c.task.slot).1 = true)
    ∧ (let c : Cmd := { copy1 with next := [], blk := copy1.blk.set 13 0 };
      let s := evs (pk s1 fun k => { k with cmds := [c] }) { w := 1 };
      s.written c = true ∧ c.signals = false) := by decide +kernel

/-- What a block step asks of `n` bytes of the own scratchpad in a view, from `a` on. -/
def ownBytes (s : State) (c : Cmd) (sw : Bool) (a n : Nat) : Bool :=
  let o := s.getCore c.own
  a % 4 = 0 && decide (a + n ≤ 0x100000) && (List.range n).all fun i => !o.spad.bad (viewAddr sw (a + i))
    && (unseen (sget [] (if sw then o.linOld else o.swzOld) (viewAddr sw (a + i) / 4)) c.own).isEmpty
    && (s.remoteTouch c.own ((a + i) / 65536) c.task.part c.task.slot).1

/-- `s1` with a command on engine 0 and a step of it at hand. -/
def sStep (c : Cmd) (k : Seg) : State := evs (pk s1 fun g => { g with cmds := [{ c with eng := some 0, next := [k] }] }) { w := 1 }

/-- A block of two rows by the index list at 0x2000, and the indices read. -/
def ix : Cmd := { copy0 with blk := [0, 0, 64, 0, 64, 2, 128, 128, 1, 0, 0, 0, 0, 0, 0x2000, 0], idx := [7, 2] }

/-- O52, the block steps: of each command at the own scratchpad, in either view and with descriptors, the rows of an index list at
its second entry; a column of a slab with its mask; a source and a destination on another rank; an index list to read. -/
theorem witness_EngineAndChannelSteps_blocks :
    (∀ r ∈ [({ copy0 with instr := .cnd 0 2 0 2 0, blk := [0, 0, 64, 0, 64, 1, 0, 0, 0, 2, 0, 0, 0, 0, 4096, 8192] }, (⟨1, 0, 0, 64⟩ : Seg), 4096, 8256),
        ({ ix with instr := .cgat 0 2 0 2 0 }, ⟨0, 1, 0, 64⟩, 256, 192), ({ ix with instr := .csct 0 2 0 2 0 }, ⟨0, 1, 0, 64⟩, 128, 320),
        ({ copy0 with instr := .cfill 0 2 1 2 0, blk := [0, 0, 64, 0, 64, 1, 0, 0, 5, 7, 0, 0, 0, 0, 3, 0] }, ⟨0, 0, 0, 64⟩, 0, 64),
        ({ copy0 with instr := .cred 0 2 0 2 0, blk := [0, 0, 64, 0, 64, 1, 0, 0, 0x12, 0, 0, 0, 0, 0, 0, 0] }, ⟨0, 0, 0, 64⟩, 0, 64)],
      let c := { r.1 with eng := some 0, next := [r.2.1] }
      let s := sStep r.1 r.2.1
      let k := r.2.1
      let va := fun (base : Nat) (plane row : Int) => (((gaVa base : Int) + k.plane * plane + row + k.pos) % (2 ^ 48 : Int)).toNat
      s.findCmd s.ev.w s.ev.k = some c ∧ s.paused c.own = false ∧ c.stopped = false ∧ c.next[s.ev.j]? = some k ∧ s.cmdCtx c = some d1
      ∧ gaRank c.dst = d1.rank ∧ gaRank c.src = d1.rank ∧ 0 < k.n ∧ k.n % 4 = 0 ∧ k.n ≤ 64
      ∧ va c.src (if isCnd c.instr then sextNat (c.w 14) 32 else 0) ((if isCgat c.instr then (lget 0 c.idx k.row).toNat else k.row : Nat) * sextNat (c.w 6) 32) = r.2.2.1
      ∧ va c.dst (if isCnd c.instr then sextNat (c.w 15) 32 else 0) ((if isCsct c.instr then (lget 0 c.idx k.row).toNat else k.row : Nat) * sextNat (c.w 7) 32) = r.2.2.2
      ∧ ownBytes s c c.sswz r.2.2.1 k.n = true ∧ ownBytes s c c.dswz r.2.2.2 k.n = true ∧ (c.dh = true → k.n = 64 ∧ r.2.2.2 % 64 = 0 ∧ r.2.2.1 % 64 = 0)
      ∧ swf 0 (s.getCore c.own).spad.mem = true ∧ swf 0 (s.getCore c.own).spad.desc = true ∧ swf false (s.getCore c.own).spad.fe = true
      ∧ swf Owner.none (s.getCore c.own).owner = true) := by
  decide +kernel

theorem witness_EngineAndChannelSteps_others :
    (let c : Cmd := { copy0 with instr := .cwb 0 2 0 2 0, blk := [0, 0, 0, 0, 0, 0, 0, 0, 0, 0x13F, 0, 0, 0, 0, 0x8000, 0] }
      let s := (sStep c ⟨0, 0, 63, 64⟩).updCore fun x => { x with spad := { x.spad with desc := [(63, 0x13)] } }
      gaRank c.src = d1.rank ∧ gaVa c.src + 4096 * 0 + 64 * 63 = 4032 ∧ c.arg0 % 64 + 0 = 63 ∧ gaVa c.arg1 + 1024 * 0 + 16 * 63 = 0x83F0
      ∧ c.arg1 ≠ 0 ∧ fmtKeep (((s.getCore c.own).spad.descAt (viewBlock c.sswz 4032)).toNat % 256) ≠ 0 ∧ gaRank c.arg1 = d1.rank
      ∧ ownBytes s c c.sswz 4032 64 = true ∧ ownBytes s c false 0x83F0 16 = true ∧ swf ⟨0, 0, 0⟩ (s.getCore c.own).wb = true
      ∧ (s.remoteTouch c.own (40 + 63 / 16) c.task.part c.task.slot).1 = true)
    ∧ (let far := fun (i : Instr) => { copy0 with instr := i, blk := [0, 2 ^ 22, 64, 0, 64, 1, 0, 0, 0, 0, 0, 0, 0, 0, 0, 0] }
      ∀ i ∈ [Instr.ccp 0 2 0 2 0, .cwb 0 2 0 2 0, .cred 0 2 0 2 0], usesSrc i = true ∧ gaRank (far i).src ≠ d1.rank
        ∧ (sStep (far i) ⟨0, 0, 0, 64⟩).cmdCtx (far i) = some d1)
    ∧ (∀ i ∈ [Instr.ccp 0 2 0 2 0, .cred 0 2 0 2 0, .cfill 0 2 1 2 0],
      let c : Cmd := { copy0 with instr := i, blk := [0, 0, 64, 2 ^ 22, 256, 1, 0, 0, if isCred i then 0x12 else 1, 0, 0, 0, 0, 0, 0, 0] }
      let s := sStep c ⟨0, 0, 0, 256⟩
      gaRank c.dst ≠ d1.rank ∧ gaRank c.src = d1.rank ∧ ownBytes s c c.sswz 0 256 = true ∧ (c.dh = true → 0 % 64 = 0 ∧ 256 % 64 = 0))
    ∧ (∀ i ∈ [Instr.cgat 0 2 0 2 0, .csct 0 2 0 2 0],
      let c : Cmd := { ix with instr := i, idx := [] }
      let s := th s1 fun t => { t with cbuf := [c], cref := 1 }
      s.firstStart s.ev.c (fun _ => true) = some c ∧ s.engineBusy 0 = false ∧ s.cmdCtx c = some d1 ∧ s.findCmd c.tid c.ref = none ∧ c.next = []
      ∧ c.startFault d1.rank d1.gangsz = none ∧ 0 < c.rows ∧ 0 < c.rowlen ∧ gaVa c.arg1 + 4 * c.rows ≤ 0x100000 ∧ gaVa c.arg1 % 4 = 0
      ∧ ownBytes s c false (gaVa c.arg1) (4 * c.rows) = true ∧ swf Owner.none (s.getCore c.own).owner = true)
    ∧ sK.findCmd copy0.tid copy0.ref = none ∧ sSteal.findCmd copy0.tid copy0.ref = none ∧ sSteal.cmdCtx copy0 = some d1 := by decide +kernel

/-- O52, the steps of a collective: a header and elements to a home with a place free, and with none; elements to every rank. -/
theorem witness_EngineAndChannelSteps_collective :
    (∀ r ∈ [(Instr.xar 0 2 0 2 0, 8), (.xrs 0 2 0 2 0, 8), (.xmrg 0 2 0 2 0, 8), (.xag 0 2 0 2 0, 8), (.xbc 0 2 0 2 0, 8), (.xag 0 2 0 2 0, 0)], ∀ lent ∈ [0, 1],
      let k : Seg := ⟨0, 0, 0, r.2⟩
      let c : Cmd := { cmd0 with instr := r.1, eng := some 0, next := [k], lent, blk := [0, 0, 64, 0, 8, 0x301, 0, 1, 0, 0, 0, 0, 0, 0, 0, 0] }
      let s := evs (poke (pk s1 fun g => { g with cmds := [c] }) 0x430 0x01000103 4) { w := 1 }
      s.findCmd s.ev.w s.ev.k = some c ∧ s.paused c.own = false ∧ c.stopped = false ∧ c.next[s.ev.j]? = some k ∧ s.cmdCtx c = some d1
      ∧ isColl c.instr = true ∧ s.hasPlace c = decide (lent = 0) ∧ (gaVa c.src + k.pos * 4) % 2 ^ 48 = 0 ∧ 0 + r.2 * 4 ≤ 0x100000
      ∧ ownBytes s c c.sswz 0 (r.2 * 4) = true ∧ swf Owner.none (s.getCore c.own).owner = true)
    ∧ collOp (.xar 0 2 0 2 0) = 0x0A ∧ collOp (.xag 0 2 0 2 0) = 0x0C := by decide +kernel

/-- A task of core 0 that has issued END, with a hold queue. -/
def sEnd (l : List Held) : State := th (s1.updCore fun c => { c with phase := .ending }) fun t => { t with holdq := l }

/-- O52, the packet and the held effects: a message for a known gang; a credit to return; each entry of a hold queue; a core to free. -/
theorem witness_EngineAndChannelSteps_channels :
    (let s := evs s1 { m := pkt0 };
      s.takeIn = some (pkt0, s) ∧ s.gangCtx pkt0.part pkt0.gang = some d1 ∧ (s.getPart pkt0.part).torn = false
      ∧ (let t := part0 s fun q => { q with torn := true }
        t.takeIn = some (pkt0, t) ∧ t.gangCtx pkt0.part pkt0.gang = some d1 ∧ (t.getPart pkt0.part).torn = true))
    ∧ (let c : Cmd := { copy1 with stopped := true };
      let s := evs (pk s1 fun k => { k with cmds := [c] }) { w := 1 };
      s.findCmd s.ev.w s.ev.k = some c ∧ s.paused c.own = false)
    ∧ (let s := evs (s1.updCtx 0 0 fun x => { x with back := [(1, 1)] }) { k := 1 };
      s.ev.n ≠ 1 ∧ s.ev.n ≠ 2 ∧ 0 < sget 0 (s.getCtx s.ev.p s.ev.s).back (64 * s.ev.c + s.ev.k))
    ∧ (∀ n ∈ [1, 2], (evs s1 { n }).ev.n = n)
    ∧ (let s := evs (pk s1 fun g => { g with inq := [{ vc := 64, gen := false, pkt := pkt0, held := true }] }) { k := 1 };
      s.ev.k ≠ 0 ∧ (s.pkg.inq[s.ev.k - 1]?).isSome = true)
    ∧ (∀ l ∈ [[], [Held.message 1 [1, 2]], [Held.amo (.amoAdd 0 2 4) 0x1000 5 0 false 0x40]], (sEnd l).at_.core.phase = .ending
      ∧ (sEnd l).at_.settled (sEnd l).at_.core.num = true ∧ (sEnd l).at_.core.th.pendF = [] ∧ (sEnd l).at_.taskCtx (sEnd l).at_.core.th.task = some d1)
    ∧ (sEnd [.message 1 [1, 2]]).at_.hasCredit 1 = true
    ∧ (let u := (sEnd [.amo (.amoAdd 0 2 4) 0x1000 5 0 false 0x40]).at_;
      (u.remoteTouch u.core.num 0x1000 0 0).1 = true ∧ u.core.spad.bad 0x1000 = false ∧ unseen (sget [] u.core.swzOld (0x1000 / 4)) u.core.num = []
      ∧ swf 0 u.core.spad.mem = true ∧ amoNew (.amoAdd 0 2 4) (u.core.spad.word 0x1000) 5 0 = some 5)
    ∧ (let s := s1.updCore fun c => { c with phase := .released };
      (s.getCore s.ev.c).phase = .released ∧ s.settled s.ev.c = true) := by decide +kernel

/-- A launch record: graph at 0x100000, gang 1, completion record at 0x200000, signal at 0x300000, image 0 (R266). -/
def rec0 : List Word := [0x100000, 0, 0x10000, 0, 0, 0, 0x200000, 0, 0x300000, 0, 0, 0, 0, 0, 0, 0]

/-- A launch of it with an arrival at node 0. -/
def launch0 : Launch := { slot := 0, mail := 0, record := rec0, start := 0, arrivals := [0] }

/-- `s1` with both cores free, gang 1 on the rota, and one image. -/
def sI : State := part0 (img { s1 with core := {} } image1) fun q => { q with gang := 1 }

/-- It with a record in mailbox slot 15, armed. -/
def sMail (r : List Word) : State :=
  part0 sI fun q =>
    { q with regs := { q.regs with
        armed := [15], page := (List.range 16).foldl (fun m k => lePut m (64 * 15 + 4 * k) (lget 0 r k).toNat 4) q.regs.page } }

/-- It with the launch, and the words of node 0. -/
def sNode (l : Launch) (w : List Word) : State :=
  (List.range 16).foldl (fun s k => poke s (0x100000 + 4 * k) (lget 0 w k).toNat 4) (part0 sI fun q => { q with launches := [l] })

/-- What the walker reads at node 0. -/
def nodeReads (s : State) (l : Launch) (w : List Word) : Bool :=
  match (s.updLaunch 0 l.slot fun l => { l with arrivals := [] }).look 0 d1 0x100000 16 with
  | .words x _ => decide (x = w)
  | _ => false

/-- Nodes: END, a task of one dimension (0, 8, 2) seeded once, a bound set, a branch on a word, a join of 2, a malformed one. -/
def nEnd : List Word := List.replicate 16 0
def nTask : List Word := [0x00400001, 0x00010000, 0, 0, 0, 0, 8, 2, 0, 1, 1, 0, 1, 1, 0, 0]
def nSet : List Word := [2, 0x00010000, 0, 0, 0, 0, 0, 0, 0, 0, 0, 0, 0, 0, 0, 0]
def nBranch : List Word := [3, 0x00010002, 0x200000, 0, 0, 0, 0, 0, 0, 0, 0, 0, 0, 0, 0, 0]
def nJoin : List Word := [5, 0x00010002, 0, 0, 0, 0, 0, 0, 0, 0, 0, 0, 0, 0, 0, 0]
def nBad : List Word := [6, 0, 0, 0, 0, 0, 0, 0, 0, 0, 0, 0, 0, 0, 0, 0]

/-- A record with its completion record and signal in the memory of host target 0, which is no window. -/
def recHost : List Word := [0x100000, 0, 0x10000, 12, 0, 0, 0, 0, 0, 0, 0, 0, 0, 0, 0, 0]

/-- Images with a malformed calendar entry, and with a collective for which nothing is allowed. -/
def imageCal : Image := { image1 with calendar := [(0, 0x8000)] }
def imageColl : Image := { image1 with channels := [(0, 3, 0)] }

/-- The state in which a record with an image has been taken. -/
def sTaken (r : List Word) (i : Image) : State :=
  ((img (sMail r) i).sweep 0).updPart 0 fun q => { q with regs := { q.regs with armed := q.regs.armed.erase 15 } }
def roomOver (u : State) (i : Image) : Option Nat :=
  chanOver (sget 0 u.pkg.regs.rallow 0 * 1024 - ((u.getPart 0).launches.map (·.reserve)).foldl (· + ·) 0) (sortBy (fun a b => a.1 < b.1) i.channels)

/-- O53, arms and acceptance: a free slot, the last, an armed and an unknown one; an acceptable record, an invalid one, one of no gang. -/
theorem witness_LaunchesAndTasks :
    (let s := evs sI { v := 15 };
      s.ev.v < 16 ∧ s.ev.v ∉ (s.getPart s.ev.p).regs.armed ∧ 15 ∈ ((sMail rec0).getPart 0).regs.armed)
    ∧ ((sMail rec0).acceptable 0 = some 15 ∧ (sMail (rec0.set 0 1)).acceptable 0 = some 15 ∧ (sMail (rec0.set 2 0x20000)).acceptable 0 = some 15)
    ∧ (((sMail rec0).captureLaunch 0 15).record = rec0 ∧ ((sMail (rec0.set 0 1)).captureLaunch 0 15).invalid = true
      ∧ sI.gangCtx 0 ((sMail (rec0.set 2 0x20000)).captureLaunch 0 15).gang = none)
    ∧ (let u := sTaken rec0 image1; let l := (sMail rec0).captureLaunch 0 15;
      u.gangCtx 0 l.gang = some d1 ∧ l.invalid = false ∧ (u.images 0).find? (fun i => i.id = l.image && i.valid) = some image1
      ∧ l.dhost = false ∧ l.shost = false ∧ u.unwritable 0 d1 l.done (64 + 16 * d1.ncore) = none ∧ u.unwritable 0 d1 l.sig 4 = none
      ∧ image1.calendar.length ≤ 4096 ∧ u.calFault 0 0 [] image1.calendar = none ∧ roomOver u image1 = none)
    ∧ (let l := (sMail recHost).captureLaunch 0 15;
      l.dhost = true ∧ l.shost = true ∧ (sTaken recHost image1).hostOk 0 l.done (64 + 16 * d1.ncore) = false
      ∧ (sTaken recHost image1).gangCtx 0 l.gang = some d1)
    ∧ (sTaken (rec0.set 6 0x80000000) image1).unwritable 0 d1 0x80000000 (64 + 16 * d1.ncore) = some 0x80000000
    ∧ (sTaken rec0 imageCal).calFault 0 0 [] imageCal.calendar = some (0, 0x55)
    ∧ roomOver (sTaken rec0 imageColl) imageColl = some 0 := by decide +kernel

/-- A calendar of 4,096 entries, and of one more. -/
theorem witness_LaunchesAndTasks_calendar : 4096 < (List.replicate 4097 ((0, 0) : Word × Word)).length := by
  rw [List.length_replicate]; decide

/-- O53, the walker: each kind of node is read and well-formed, or not. -/
theorem witness_LaunchesAndTasks_nodes :
    (∀ w ∈ [nEnd, nTask, nSet, nBranch, nJoin, nBad], (sNode launch0 w).getLaunch 0 0 = some launch0 ∧ (sNode launch0 w).ctxDesc 0 0 = some d1
      ∧ (sNode launch0 w).onRota 0 launch0.slot = true ∧ nodeReads (sNode launch0 w) launch0 w = true)
    ∧ launch0.arrivals = 0 :: [] ∧ launch0.graph + 64 * 0 = 0x100000
    ∧ (∀ w ∈ [nEnd, nTask, nSet, nBranch, nJoin], badNode w = false) ∧ badNode nBad = true
    ∧ [nEnd, nTask, nSet, nBranch, nJoin].map (fun w => (lget 0 w 0).toNat % 16) = [0, 1, 2, 3, 5]
    ∧ (match (sNode launch0 nBranch).look 0 d1 0x200000 1 with | .words [x] _ => decide (x = 0) | _ => false) = true
    ∧ sget 0 launch0.joins 0 + 1 < 2 ∧ sget 0 [(0, 1)] 0 + 1 = 2 := by decide +kernel

/-- A task with a halvable dimension, in the launch. -/
def task0 : Task := { placedTask with dims := [(0, 8, 2)], order := [0], foldable := true }

/-- A ready entry of it, and a machine in which it is the only one. -/
def ent0 : ReadyEnt := { tasks := [task0], tid := none, cls := 0, since := 0, aged := false }
def sR : State := pk (part0 sI fun q => { q with launches := [launch0], ready := [ent0] }) fun k => { k with time := 2 ^ 20 + 1 }

/-- A core that runs the task, in a phase. -/
def sT (p : Phase) : State :=
  part0 (th (s1.updCore fun c => { c with phase := p }) fun t => { t with task := task0 }) fun q => { q with launches := [launch0] }

/-- O53, tasks: instances, splits, dispatch, aging, parking, folding, clean-up, end detection, the watchdog. -/
theorem witness_LaunchesAndTasks_tasks :
    (swf {} sI.pkg.parts = true ∧ [task0] ≠ [] ∧ [task0].length ≤ launch0.room)
    ∧ (task0.split = some ({ task0 with dims := [(0, 4, 2)] }, { task0 with dims := [(4, 8, 2)] }) ∧ (∀ x ∈ task0.dims, 0 < x.2.2)
      ∧ ({ task0 with dims := [(0, 2, 2)] } : Task).split = none)
    ∧ ((sR.getPart sR.ev.p).nextDispatch ≤ sR.pkg.time ∧ sR.scanOrder sR.ev.p = ent0 :: [] ∧ sR.placeFor sR.ev.p ent0 = some [(0, 0)]
      ∧ task0.role = none)
    ∧ ((sR.getPart sR.ev.p).ready[sR.ev.k]? = some ent0 ∧ ent0.aged = false ∧ 2 ^ 20 < sR.pkg.time - ent0.since)
    ∧ (let s := sT (.stopped 1);
      (s.getCore s.ev.c).phase = .stopped 1 ∧ (s.getCore s.ev.c).mQuiet = true ∧ (s.getCore s.ev.c).qacc = [] ∧ (s.getCore s.ev.c).th.task.role = none
      ∧ swf {} s.pkg.parts = true)
    ∧ (let w : Waiter := { core := 0, acc := acc0 (.waita 0 2 4), counted := false }
      let s := pk ((th (sT (.stopped 1)) fun t => { t with tid := 1, task := { t.task with role := some 0 } }).updCore fun c =>
        { c with qacc := [{ acc0 (.qldW 0 2 4) with id := 1 }] }) fun g => { g with waiters := [w] };
      (∀ q ∈ (s.getCore s.ev.c).qacc, q.tid = (s.getCore s.ev.c).th.tid ∧ s.heldBack q = true) ∧ s.allCores.map (·.num) = [0])
    ∧ (∀ p ∈ [Phase.folding false, .folding true, .dropping], (sT p).drained (sT p).ev.c ((sT p).getCore 0).th.tid = true)
    ∧ ((sT .run).getLaunch 0 0 = some launch0 ∧ 2 ≤ launch0.room)
    ∧ (let s := sT .cleaning;
      (s.getCore s.ev.c).phase = .cleaning ∧ ∀ r ∈ (s.getCore s.ev.c).th.task.regions,
        (s.remoteTouch s.ev.c r (s.getCore s.ev.c).th.task.part (s.getCore s.ev.c).th.task.slot).1 = true)
    ∧ (∀ p ∈ [Phase.cleaning, .released], (sT p).physCore d1 0 = some 0 ∧ ((sT p).getCore 0).phase = p ∧ (sT p).pkg.parked = []) := by decide +kernel

theorem witness_LaunchesAndTasks_end :
    (let l := fun (a : Option Nat) => { launch0 with arrivals := [], endReached := true, sampleAt := a, sample := some (0, 0) };
      ∀ a ∈ [none, some 256], (let s := pk (part0 sI fun q => { q with launches := [l a] }) fun k => { k with time := 256 };
        s.getLaunch s.ev.p s.ev.s = some (l a) ∧ s.endable s.ev.p (l a) = true ∧ (l a).sampleAt.getD 0 ≤ s.pkg.time ∧ s.ctxIdle s.ev.p 0 = true
        ∧ (s.getCtx s.ev.p 0).msgSent = 0 ∧ (s.getCtx s.ev.p 0).msgRecv = 0))
    ∧ (let s := (part0 sI fun q => { q with launches := [launch0] }).updCtx 0 0 fun x => { x with wdog := 2 ^ 26 };
      s.getLaunch s.ev.p s.ev.s = some launch0 ∧ (s.getPart s.ev.p).regs.wdi ≤ (s.getCtx s.ev.p launch0.slot).wdog
      ∧ s.ctxDesc s.ev.p launch0.slot = some d1 ∧ launch0.dhost = false
      ∧ s.unwritable s.ev.p d1 (launch0.done + 64) ((List.range d1.ncore).flatMap (s.hangEntry s.ev.p d1)).length = none) := by decide +kernel

/-- A flit of a packet that goes from core 0 to a core or to the hub. -/
def flit0 (router : Nat) (dest : Option Nat) (p : Option Packet) : MeshFlit := { die := 0, router, port := 4, part := 0, dest, pkt := p }

/-- A machine with it in a mesh queue, in a cycle. -/
def sFlit (t : Nat) (f : MeshFlit) : State := pk s1 fun k => { k with mesh := [f], time := t }

/-- A link that is up on lanes 0 to 3, and a machine with it as link 7. -/
def link0 : Link := { up := true, good := 0xF, lanes := 0xF, width := 4, first := 0 }
def sLink (k : Link) (now : Nat) (e : Stim) : State := evs (pk s1 fun g => { g with links := [(7, k)], time := now }) { e with l := 7 }

/-- The packet of a write of 4 bytes, and its flits under a sequence number. -/
def pktW : Packet := { kind := 1, drank := 1, payload := [1, 2, 3, 4] }
def flitsW (seq : Nat) : List Flit := flitsOf pktW seq 0 false

/-- O54, the mesh: a flit for its own core, toward the hub at the edge and inside, and in each direction; an ownership change; an adapter. -/
theorem witness_MeshAndLinkSteps :
    (∀ e ∈ [(0, { flit0 5 (some 5) (some pkt0) with port := 0 }), (0, { flit0 5 (some 5) none with port := 0 }), (24, flit0 5 none none),
        (24, flit0 21 (some 5) none), (16, flit0 5 (some 6) none), (8, flit0 5 (some 21) none), (0, flit0 6 (some 5) none)],
      (sFlit e.1 e.2).pkg.mesh[(sFlit e.1 e.2).ev.k]? = some e.2 ∧ (sFlit e.1 e.2).flitGoes (sFlit e.1 e.2).ev.k = true)
    ∧ [flit0 5 (some 5) none, flit0 5 none none, flit0 21 (some 5) none, flit0 5 (some 6) none, flit0 5 (some 21) none, flit0 6 (some 5) none].map
      MeshFlit.next = [4, 0, 0, 1, 2, 3]
    ∧ (let s := pk s1 fun g => { g with regs := { g.regs with calownW := some [(3, 1)] }, time := 512 };
      s.pkg.regs.calownW = some [(3, 1)] ∧ s.pkg.time % 256 = 0 ∧ s.pkg.regs.calownAt ≤ s.pkg.time)
    ∧ (∀ f ∈ [flit0 5 none (some pktW), flit0 5 none none, flit0 5 (some 256) none], (let s := pk s1 fun g => { g with adapter := [(0, f)] };
      s.ev.n ≠ 1 ∧ s.ev.n ≠ 2 ∧ s.adapterPick s.ev.l = some 0 ∧ s.adapterNext s.ev.l 0 = some 0 ∧ s.pkg.adapter[0]? = some (0, f)))
    ∧ (let s := evs (pk s1 fun g => { g with hubq := [(pktW, 0)] }) { n := 2 };
      s.hubNext = some 0 ∧ s.pkg.hubq[0]? = some (pktW, 0) ∧ s1.hubRoom pktW = true ∧ s.hubRoom pktW = false ∧ pktW.drank ≠ 0)
    ∧ (let k : Packet := { pkt0 with kind := 8, dcore := 1 };
      (evs s1 { n := 1, m := k }).takeIn = some (k, evs s1 { n := 1, m := k }) ∧ s1.coreFor k = some 1)
    ∧ s1.coreFor { pkt0 with kind := 9 } = none ∧ pkt0.drank = 0 := by decide +kernel

/-- O54, a receiver: the expected packet, an older and a later one, and a damaged one; the sixteenth; with a NAK outstanding. -/
theorem witness_MeshAndLinkSteps_receive :
    (∀ n ∈ [5, 4, 6], (let s := sLink { link0 with expect := 5 } 10 { fs := flitsW n };
      s.switchReady = true ∧ (s.getLink 7).up = true ∧ (s.getLink 7).train = false ∧ s.ev.l < 8 ∧ s.ev.fs ≠ [] ∧ flitVc (s.ev.fs.headD ⟨[], 0⟩) ≠ 64
      ∧ (s.ev.fs.all fun g => flitGood g && flitSeq g = flitSeq (s.ev.fs.headD ⟨[], 0⟩) && flitVc g = flitVc (s.ev.fs.headD ⟨[], 0⟩)) = true
      ∧ (parsePacket s.ev.fs).isSome = true))
    ∧ (∀ b ∈ [true, false], (let s := sLink link0 10 { fs := [ctlFlit b 4] };
      (s.getLink 7).up = true ∧ (s.getLink 7).train = false ∧ s.ev.l < 8 ∧ s.ev.fs ≠ [] ∧ flitGood (s.ev.fs.headD ⟨[], 0⟩) = true
      ∧ flitVc (s.ev.fs.headD ⟨[], 0⟩) = 64))
    ∧ seqDiff (flitSeq ((flitsW 5).headD ⟨[], 0⟩)) 5 = 0 ∧ seqDiff (flitSeq ((flitsW 4).headD ⟨[], 0⟩)) 5 < 0
    ∧ 0 < seqDiff (flitSeq ((flitsW 6).headD ⟨[], 0⟩)) 5
    ∧ ([⟨[], 0⟩] : List Flit).all flitGood = false := by decide +kernel

/-- O54, a sender and its timers: a replay at hand, a new packet; an acknowledgement; each timer; each lane event; each retrain. -/
theorem witness_MeshAndLinkSteps_send :
    (let t : TxPkt := { vc := 0, gen := false, pkt := pktW };
      (let k := (sLink { link0 with replay := [t], resend := 1 } 10 {}).getLink 7;
        k.up = true ∧ k.train = false ∧ 0 < k.resend ∧ k.replay[k.replay.length - k.resend]? = some t)
      ∧ (let k := (sLink { link0 with sendq := [t] } 10 {}).getLink 7;
        k.resend = 0 ∧ k.replay.length < 1024 ∧ k.pick = some 0 ∧ k.sendq[0]? = some t ∧ t.vc < 64)
      ∧ ({ link0 with replay := [t] }.acked < 65536 ∧ 0 < 1 ∧ 1 ≤ [t].length ∧ 0 = (link0.acked + 1) % 65536)
      ∧ (let k := { link0 with replay := [t] }; k.up = true ∧ k.train = false ∧ k.replay ≠ [] ∧ k.resend < k.replay.length ∧ k.lastAck + 3600 ≤ 3600))
    ∧ (let k := { link0 with accepted := 1 }; 0 < k.accepted ∧ k.up = true ∧ k.train = false ∧ k.firstAt + 461 ≤ 461)
    ∧ (2 < 16 ∧ link0.lanes.getLsbD 2 = true ∧ (4 : Nat).testBit 2 = true ∧ link0.first ≤ 2 ∧ 2 < link0.first + link0.width)
    ∧ (link0.lanes.getLsbD 3 = true ∧ link0.first ≤ 3 ∧ 3 < link0.first + link0.width ∧ 0 < link0.lthresh.toNat % 65536
      ∧ link0.lthresh.toNat % 65536 < 0x101)
    := by decide +kernel

/-- O54, training again: retrained on the lanes left; retried with no lane barred, one, and all; the report of a generation's old packets. -/
theorem witness_MeshAndLinkSteps_again :
    (let k := { link0 with up := false, train := true, retrainAt := 7200, lanes := 0x7 };
      k.train = true ∧ k.retrainAt ≤ 7200 ∧ laneGroup k.lanes.toNat = some (2, 0))
    ∧ (let k := { link0 with up := false, retryAt := 1800000 };
      k.up = false ∧ k.train = false ∧ k.retryAt ≠ 0 ∧ k.retryAt ≤ 1800000 ∧ laneGroup (0xFFFF &&& ~~~(0 : BitVec 16)).toNat = some (16, 0)
      ∧ laneGroup (0xFFFF &&& ~~~(1 : BitVec 16)).toNat = some (8, 8) ∧ laneGroup (0xFFFF &&& ~~~(0xFFFF : BitVec 16)).toNat = none)
    ∧ (s1.pkg.regs.oldLeft = false ∧ 1023 < 1024 ∧ 1 ≠ (if s1.pkg.regs.rgen then 1 else 0))
    ∧ (let s := evs s1 { m := { pkt0 with argq := 1 } };
      s.takeIn = some (s.ev.m, s) ∧ s.ev.m.argq.testBit 0 ≠ s.pkg.regs.rgen)
    ∧ pkt0.srank = pkt0.drank ∧ ({ pkt0 with srank := 3 } : Packet).srank ≠ pkt0.drank
    ∧ (∀ d ∈ [0, 3], let s := pk s1 fun g => { g with rslots := [⟨{ vc := 0, gen := true, pkt := {} }, 0⟩], regs := { g.regs with oldTo := some (0, d) } }
      s.pkg.regs.oldTo = some (0, d) ∧ s.oldHeld ≠ s.pkg.regs.oldTold ∧ (evs s { n := 1 }).pkg.regs.oldTo = some (0, d))
    ∧ (evs s1 { m := pkt0 }).ev.n ≠ 1
    ∧ (∀ e ∈ (sLink link0 10 {}).pkg.links, e.2.up = true) := by decide +kernel

/-- A command outstanding at another rank, and the packet that answers it. -/
def op0 (k : RemKind) : RemOp := { tag := 1, core := 0, tid := 1, addr := 0x100000, kind := k, acc := acc0 (.fld 0 2) }
def sRem (k : RemKind) (cmds : List Cmd) (m : Packet) : State := evs (pk s1 fun g => { g with rem := [op0 k], cmds }) { m }

/-- The descriptor of the context at a target, and packets for it: of its gang, and of none. -/
def pktG (kind addr : Nat) : Packet := { kind, addr, gang := 1, srank := 1, drank := 0, tag := 1, payload := if kind = 1 then [1, 2, 3, 4] else [], arg := 4, atop := 1 }

/-- O55, requests: to the scratchpad, the window, and an XDEV page; with no context; a write, a read and an atomic. -/
theorem witness_RemotePacketsAndCollectives :
    (s1.walk d1 0x100000 = .leaf leaf1 ∧ s1.pkg.dtlb = [] ∧ leaf1.attr.testBit 3 = true)
    ∧ (∀ kind ∈ [1, 2, 4], (let s := evs s1 { m := pktG kind 0x100000 };
      s.takeIn = some (s.ev.m, s) ∧ s.target s.ev.m = some d1 ∧ (s.foreign d1 (s.ev.m.addr % 2 ^ 48) (kind ≠ 2)).1 = .at_ 0x100000 12
      ∧ swf 0 (s.foreign d1 (s.ev.m.addr % 2 ^ 48) (kind ≠ 2)).2.pkg.hbm.mem = true
      ∧ (s.foreign d1 (s.ev.m.addr % 2 ^ 48) (kind ≠ 2)).2.runBad 0x100000 4 = false))
    ∧ (pktG 2 0x100000).addr % 64 + 4 ≤ 64 ∧ (∀ k ∈ [1, 2, 4], 0 < (pktG k 0).arg.toNat % 512)
    ∧ (match (s1.homeBlocks 0 d1 0x10003E (blockCuts 0x10003E 4)).1 with | .got pa ws ds => decide (pa = 0x10003E ∧ ws.length = 2 ∧ ds.length = 2) | _ => false) = true
    ∧ (match (s1.homeBlocks 0 d1 0xFFFFE (blockCuts 0xFFFFE 4)).1 with | .refuse e => decide (e = 5) | _ => false) = true
    ∧ (pktG 4 0).payload = [] ∧ 1 ≤ (pktG 4 0).atop ∧ (pktG 4 0).atop ≤ 4 ∧ (pktG 4 0).srank ≠ (pktG 4 0).drank ∧ pkt0.srank = pkt0.drank
    ∧ (evs s1 { m := { pktG 1 0 with gang := 9 } }).target { pktG 1 0 with gang := 9 } = none
    ∧ (s1.foreign d1 0 true).1 = .refuse 5 ∧ (s1.foreign d1 0xFF0000000000 true).1 = .refuse 3 := by decide +kernel

/-- O55, answers: an operation of each kind that awaits one, and a command it belongs to, live and stopped. -/
theorem witness_RemotePacketsAndCollectives_answers :
    (∀ k ∈ [RemKind.load, .store, .release, .signal 0, .contrib 0, .write 0 ⟨0, 0, 0, 64⟩, .read 0 ⟨0, 0, 0, 64⟩],
      ((sRem k [copy1] (pktG 3 0)).takeIn.map (·.1) = some (pktG 3 0)
      ∧ ((sRem k [copy1] (pktG 3 0)).takeRem (pktG 3 0)).map (·.1) = some (op0 k)))
    ∧ (pktG 7 0).nkind ≠ 3 ∧ (pktG 7 0).nkind ≠ 5 ∧ (pktG 7 0).nkind ≠ 6 ∧ (pktG 7 0).tag < 2 ^ 31
    ∧ ((sRem .load [copy1] (pktG 3 0)).findCmd 1 0 = some copy1 ∧ isCwb copy1.instr = false ∧ copy1.stopped = false
      ∧ (sRem .load [copy1] (pktG 3 0)).cmdCtx copy1 = some d1
      ∧ (sRem .load [{ copy1 with stopped := true }] (pktG 3 0)).findCmd 1 0 = some { copy1 with stopped := true })
    ∧ (match (sRem .load [copy1] (pktG 3 0)).putStep copy1 d1 ⟨0, 0, 0, 64⟩ (List.replicate 16 0) [] with | .made _ => true | _ => false) = true := by
  decide +kernel

/-- A sum of four FP32 elements over channel 3, from 0 to 64 of the own scratchpad, on the engine. -/
def sum0 : Cmd := { cmd0 with instr := .xar 0 2 0 2 0, blk := [0, 0, 64, 0, 4, 0x311, 0, 0, 0, 0, 0, 0, 0, 0, 0, 0], eng := some 0 }

/-- A channel with two elements; a contribution of rank 0 to it, of a whole tree of two. -/
def con0 : Packet := { kind := 9, gang := 1, gsz := 2, opc := 0x0A, top := 0x11, count := 4, posChan := 3, payload := List.replicate 16 0 }

/-- O55, contributions: a place free and none; a place given back to the own command and to another; a result for a command that agrees. -/
theorem witness_RemotePacketsAndCollectives_places :
    (gated sum0.opc = false ∧ s1.hasPlace { sum0 with lent := 1 } = false ∧ s1.hasPlace sum0 = true
      ∧ (match s1.collRead sum0 d1 (sum0.collSrc ⟨0, 0, 0, 4⟩) (4 * sum0.ewidth) with | .got l _ => decide (l.length = 16) | _ => false) = true)
    ∧ (con0.posLevel = 0 ∧ con0.srank = s1.podId d1 d1.rank ∧ ({ con0 with srank := 5 } : Packet).srank ≠ s1.podId d1 d1.rank
      ∧ ({ con0 with posLevel := 1 } : Packet).posLevel ≠ 0)
    ∧ (let k : Packet := { con0 with kind := 10 }
      let s := evs ((pk s1 fun g => { g with cmds := [sum0] }).updCtx 0 0 fun x => { x with results := [k] }) { n := 1 };
      (s.getCtx s.ev.p s.ev.s).results[s.ev.j]? = some k ∧ s.ctxDesc s.ev.p s.ev.s = some d1 ∧ s.resultCmd s.ev.p s.ev.s k = some sum0 ∧ k.payload ≠ []
      ∧ (match s.collPut sum0 d1 (s.resultAt sum0 d1 k).1 (s.resultAt sum0 d1 k).2.1 with | .made _ => true | _ => false) = true)
    ∧ (let m : Packet := { pkt0 with tag := 2 ^ 31 + 3, nkind := 9, arg := 0x0B }
      let s := evs (pk s1 fun g => { g with cmds := [sum0] }) { m };
      s.takeIn = some (m, s) ∧ 2 ^ 31 ≤ m.tag
      ∧ s.pkg.cmds.find? (fun c => c.inColl m.part (bits m.tag 25 20) (bits m.tag 5 0) (bits m.tag 19 6)) = some sum0) := by
  decide +kernel

/-- O55, parts of a row of 64 columns: with the other part at hand and without, at a home and of a result. -/
theorem witness_RemotePacketsAndCollectives_parts :
    let p : Packet := { con0 with opc := 0x0E, count := 64, rows := 1, payload := List.replicate 256 0 }
    let q : Packet := { p with posOff := 64, payload := List.replicate 8 0 }
    let s := fun (l : List Packet) => s1.updCtx 0 0 fun x => { x with holds := l.map fun p => ⟨p⟩, results := l };
    isPart p = true ∧ isPart q = true ∧ isPart con0 = false ∧ isPart { p with payload := List.replicate 264 0 } = false
    ∧ ((s [q]).getCtx 0 0).holds.find? (fun h => otherPart p h.pkt) = some ⟨q⟩ ∧ ((s []).getCtx 0 0).holds.find? (fun h => otherPart p h.pkt) = none
    ∧ ((s [q]).getCtx 0 0).results.find? (otherPart p) = some q ∧ ((s []).getCtx 0 0).results.find? (otherPart p) = none
    ∧ ((s []).getCtx 0 0).ended = [] ∧ ((s [q]).getCtx 0 0).holds.find? (fun h => sameColl h.pkt p && collDiff h.pkt p ≠ 0) = none := by
  decide +kernel

/-- O55, collectives: a root, one whose sibling is not there, one that differs, one with its sibling; a slot that expires; a result; a notice. -/
theorem witness_RemotePacketsAndCollectives_collectives :
    (let p : Packet := { kind := 9, gang := 1, gsz := 2, posLevel := 1 };
      isPart p = false ∧ p.posLeft = 0 ∧ p.gsz ≤ 2 ^ p.posLevel)
    ∧ (let p : Packet := { kind := 9, gang := 1, gsz := 3, posLeft := 2 };
      isPart p = false ∧ ¬ (p.posLeft = 0 ∧ p.gsz ≤ 2 ^ p.posLevel) ∧ p.gsz ≤ p.posLeft + 2 ^ p.posLevel)
    ∧ (let p : Packet := { kind := 9, gang := 1, gsz := 2, top := 1, count := 1, payload := [0, 0, 0, 0] };
      let q : Packet := { p with srank := 1 };
      let s := fun (l : List Packet) => s1.updCtx 0 0 fun x => { x with holds := l.map fun p => ⟨p⟩ };
      isPart p = false ∧ ¬ (p.posLeft = 0 ∧ p.gsz ≤ 2 ^ p.posLevel) ∧ p.posLeft + 2 ^ p.posLevel < p.gsz ∧ ((s []).getCtx 0 0).ended = []
      ∧ ((s []).getCtx 0 0).holds.find? (fun h => sameColl h.pkt p && collDiff h.pkt p ≠ 0) = none
      ∧ ((s []).getCtx 0 0).holds.find? (fun h => collDiff h.pkt p = 0 && siblings h.pkt p) = none
      ∧ (((s [q]).getCtx 0 0).holds.find? (fun h => collDiff h.pkt p = 0 && siblings h.pkt p)).isSome = true
      ∧ ((s [{ q with count := 2 }]).getCtx 0 0).holds.find? (fun h => collDiff h.pkt p = 0 && siblings h.pkt p) = none
      ∧ (((s [{ q with count := 2 }]).getCtx 0 0).holds.find? (fun h => sameColl h.pkt p && collDiff h.pkt p ≠ 0)).isSome = true)
    ∧ (let r : RSlot := ⟨{ vc := 0, gen := false, pkt := {} }, 0⟩;
      let s := pk s1 fun g => { g with rslots := [r], time := 2048 };
      s.pkg.rslots[s.ev.k]? = some r ∧ r.since + 2048 ≤ s.pkg.time)
    ∧ (let s := evs s1 { m := { pkt0 with argq := 2 ^ 32 } };
      s.takeIn = some (s.ev.m, s) ∧ s.gangCtx s.ev.m.part (s.ev.m.argq / 2 ^ 32 % 2 ^ 16) = some d1 ∧ (s.getCtx 0 0).ended = []) := by
  decide +kernel

/-- Partition 0 of `s1`, its context with a save area and a kennel, with a column of two rows, the second of gang `h`, in its
row 1 with gang `g` running, and a vote; and the packet of a message of that vote. -/
def id0 : VoteId := ⟨0, 1, 1, 3⟩
def sVote (g h : Nat) (v : Vote) (m : Packet) (e : Stim) : State :=
  evs (part0 (poke (poke (poke s1 16 0x400000 8) 24 0x110000 8) 32 1 4) fun q =>
    { q with gang := g, rowNow := 1, nextAt := 8192, vote := v
             regs := { q.regs with rotalen := 2, rota := [(0, 0x10001), (1, w32 (h * 65536 + 1))] } })
    { e with m := { m with row := 1, attempt := 1, coord := 3, srank := 3 } }
def d2 : CtxDesc := { d1 with save := 0x400000, kennel := 0x110000, ksize := 1 }

/-- O56, the column: its rows; writes of a valid and of an invalid one at the end of a round, with a gang and without; a boundary. -/
theorem witness_RotaAndVoteSteps_column :
    (let q : Partition := (sVote 1 2 {} {} {}).getPart 0;
      1 ≤ q.regs.rotalen ∧ q.regs.rotalen ≤ 64 ∧ (∀ j, j < q.regs.rotalen → (sget 0 q.regs.rota j).toNat % 1024 ≠ 0) ∧ q.columnOk = true)
    ∧ (∀ r ∈ [1, 0], let s := part0 (pk s1 fun k => { k with time := 8192 }) fun q =>
        { q with rowNow := 0, nextAt := 8192, gang := 1, regs := { q.regs with rota := [(0, 0x10001)], rotalenW := some r } };
      let q := s.getPart 0;
      q.regs.waits = true ∧ q.columnOk = true ∧ q.rowNow + 1 = q.regs.rotalen ∧ q.nextAt ≤ s.pkg.time
      ∧ ({ q with regs := q.regs.written, rowNow := q.regs.written.rotalen - 1 } : Partition).columnOk = decide (r = 1)
      ∧ s.gangCtx 0 q.gang = some d1 ∧ s.gangCtx 0 0 = none)
    ∧ (let s := pk (sVote 1 2 {} {} {}) fun k => { k with time := 8192 };
      (s.getPart 0).columnOk = true ∧ (s.getPart 0).nextAt ≤ s.pkg.time ∧ (s.getPart 0).applies s.pkg.time = false)
    ∧ swf {} s1.pkg.parts = true
    ∧ (1023 < 1024 ∧ 1023 = 1023)
    ∧ (s1.getPart 0).vote.cst ≠ .backoff ∧ (s1.getPart 0).vote.aborted = false := by
  decide +kernel

/-- The packet PREPARE to this package and to package 3: from gang 1 or from none, to `h`. -/
def prep0 (g h : Byte) : Packet := { kind := 11, drank := 0, payload := [0, 0, g, 0, h, 0, 3, 0, 1, 0, 2, 0] }

/-- O56, a participant: another boundary; this one, with no reason to refuse, with one, and for no gang, also torn down; a gang that
has stopped; a vote decided, its column valid with the gang running, and another gang or an invalid column. -/
theorem witness_RotaAndVoteSteps_participant :
    (∀ e ∈ [(1, 0, none), (1, 2, some 1), (0, 0, none)], let s := sVote e.1 e.2.1 {} (prep0 (BitVec.ofNat 8 e.1) (BitVec.ofNat 8 e.2.1)) {};
      let k := s.ev.m; let q := s.getPart 0;
      s.takeIn = some (k, s) ∧ (voteEntries k.payload).find? (fun e => e.1 = k.drank) = some (0, e.1, e.2.1)
      ∧ q.vote.pst = .run ∧ q.torn = false ∧ ({ q with torn := true } : Partition).torn = true ∧ q.columnOk = true ∧ q.gang = e.1 ∧ q.tail.getD (q.rowNow, q.rowGang q.rowNow) = (k.row, e.2.1) ∧ q.roundNow = k.round
      ∧ ((s.sweep 0).updVote 0 fun v => { v with id := some (msgId k), g := e.1, h := e.2.1 }).refusal 0 0 e.1 e.2.1 [0, 3] = e.2.2
      ∧ s.gangCtx 0 e.1 = if e.1 = 1 then some d2 else none)
    ∧ (let s := sVote 1 0 {} { prep0 1 0 with arg := 43 } {}; s.takeIn.isSome = true
      ∧ ((if s.ev.m.arg = 0 then [] else (s.getPart 0).vote.gather) ++ voteEntries s.ev.m.payload).length < s.ev.m.arg.toNat)
    ∧ (let s := sVote 1 0 {} (prep0 1 5) {}; ((s.getPart 0).tail.getD (1, (s.getPart 0).rowGang (s.getPart 0).rowNow)).2 ≠ 5
      ∧ (voteEntries s.ev.m.payload).find? (fun e => e.1 = 0) = some (0, 1, 5))
    ∧ (let s := sVote 0 0 { pst := .stopping } {} { n := 1 }; s.ev.n = 1 ∧ s.stopped s.ev.p = true)
    ∧ (∀ t ∈ [PartSt.prepared, .captured, .run], let s := sVote 1 0 { id := some id0, g := 1, pst := t } {} {};
      s.takeIn = some (s.ev.m, s) ∧ (s.getPart 0).vote.id = some (msgId s.ev.m) ∧ (s.getPart 0).vote.pst = t
      ∧ s.gangCtx 0 1 = some d2 ∧ (s.getPart 0).columnOk = true ∧ (s.getPart 0).gang = 1
      ∧ ((part0 s fun q => { q with regs := { q.regs with rotalen := 0 } }).getPart 0).columnOk = false) := by
  decide +kernel

/-- O56, a coordinator: the messages it takes, from one participant of one and of two, with an earlier sample that agrees and with none;
its timers, each at its first cycle. -/
theorem witness_RotaAndVoteSteps_coordinator :
    (∀ t ∈ [CoordSt.waitReady, .drain, .capt, .committing], ∀ n ∈ [1, 2], ∀ x ∈ [some (0, 0), none],
      let s := sVote 1 0 { cid := some id0, cst := t, set := (List.range n).map fun i => (3 + i, 1, 0), prev := x } { reason := 3 } {};
      let v := (s.getPart 0).vote; let k := s.ev.m;
      s.takeIn = some (k, s) ∧ swf {} s.pkg.parts = true ∧ s.ev.n ≠ 1 ∧ v.cid = some (msgId k) ∧ v.cst = t ∧ k.reason = 3 ∧ v.set.length = n
      ∧ (if v.replies.any fun e => e.1 = k.srank then v.replies
        else v.replies ++ [(k.srank, leNat (k.payload.take 8), leNat ((k.payload.drop 8).take 8))]) = [(3, 0, 0)] ∧ v.prev = x)
    ∧ (∀ e ∈ [(CoordSt.waitReady, 0, 16384, 0), (.drain, 1, 1024, 1024), (.drain, 1, 16384, 16385), (.capt, 1, 17408, 17409),
        (.drain, 0, 16384, 16384), (.capt, 0, 17408, 17408), (.backoff, 0, 65536, 0)],
      let s := pk (sVote 1 0 { cid := some id0, cst := e.1, set := [(3, 1, 0)], replies := List.replicate e.2.1 (3, 0, 0), sampleAt := e.2.2.2 } {} {})
        fun g => { g with time := e.2.2.1 };
      let q := s.getPart 0; let v := q.vote; let now := s.pkg.time;
      v.cid = some id0 ∧ v.cst = e.1 ∧ (v.replies.length = v.set.length ↔ e.2.1 = 1) ∧ (e.2.2.1 = 1024 → v.sampleAt ≤ now)
      ∧ (16384 < e.2.2.2 → e.2.1 = 1 → now < v.sampleAt) ∧ (e.2.1 = 0 → v.sampleAt ≤ now)
      ∧ (e.2.2.1 = 16384 → v.timer + q.regs.drainmax ≤ now) ∧ (e.1 = .capt → v.timer + q.regs.drainmax + 1024 ≤ now)
      ∧ (e.1 = .backoff → v.timer + 65536 ≤ now)) := by
  decide +kernel

/-- A kennel with one record of two: a packet of a write, from the switch or from the package's endpoint. -/
def sKennel (source : Nat) : State :=
  let f : Nat → Flit := fun k => (flitsOf pktW 0 0 false).getD k ⟨[], 0⟩;
  let t := part0 (sVote 1 0 {} {} {}) fun q => { q with reinject := true };
  let t := poke (poke (poke t 0x110000 2 4) 0x110040 2 1) 0x110041 source 1;
  poke (poke (poke (poke t 0x110048 (f 0).hdr.toNat 8) 0x110050 (f 1).hdr.toNat 8) 0x110080 (leNat (f 0).body) 64) 0x1100C0 (leNat (f 1).body) 64

/-- O56, the kennel with a record and with none; a packet that waits at the switch; an exchange that waits, of a region with an owner
whose context has a save area and one whose has none, to a task with an image of its own, to a context with one, and to one with none. -/
theorem witness_RotaAndVoteSteps_kennel :
    (∀ n ∈ [1, 2], let s := sKennel n;
      (s.getPart 0).reinject = true ∧ s.gangCtx 0 (s.getPart 0).gang = some d2 ∧ d2.kennel ≠ 0 ∧ s.hbmLe (d2.kennel + 4) 4 = 0
      ∧ 0 < s.hbmLe d2.kennel 4 ∧ (s.recordPkt (d2.kennel + 64 + 384 * 0)).isSome = true ∧ s.hbmLe (d2.kennel + 64 + 1) 1 = n)
    ∧ (let s := part0 (sVote 1 0 {} {} {}) fun q => { q with reinject := true };
      (s.getPart 0).reinject = true ∧ s.gangCtx 0 (s.getPart 0).gang = some d2 ∧ s.hbmLe d2.kennel 4 ≤ s.hbmLe (d2.kennel + 4) 4)
    ∧ (let s := s0.updCore fun c => { c with exch := [⟨0, .ctx 0 0⟩] };
      (s.getCore s.ev.c).exch[s.ev.k]? = some ⟨0, .ctx 0 0⟩)
    ∧ (let t : TxPkt := { vc := 0, gen := false, pkt := pktW };
      let s := evs (pk s1 fun g => { g with swq := [t] }) { n := 1 };
      s.ev.n = 1 ∧ s.pkg.swq[s.ev.k]? = some t)
    ∧ (let s := s1.updCore fun c => { c with owner := [0, 15, 16, 39, 40, 43].map fun r => (r, .ctx 0 0) };
      ∀ r ∈ [0, 15, 16, 39, 40, 43], sget Owner.none (s.getCore 0).owner r = .ctx 0 0 ∧ r < 44)
    ∧ s1.ctxDesc 0 0 = some d1 ∧ d1.save = 0
    ∧ (let s := sVote 1 0 {} {} {};
      s.ctxDesc 0 0 = some d2 ∧ d2.save ≠ 0 ∧ s.hasImage 0 0 (s.lcoreOf 0 0 0) 3 = false ∧ s.hasTaskImage 1 3 = false
      ∧ (poke s (d2.validAt 0) 8 8).hasImage 0 0 (s.lcoreOf 0 0 0) 3 = true
      ∧ (pk s fun k => { k with taskImgs := [(1, 3)] }).hasTaskImage 1 3 = true
      ∧ s.core.phase ≠ .idle ∧ s.core.th.task.part = 0 ∧ s.core.th.task.slot = 0 ∧ s.core.th.tid = 1) := by
  decide +kernel

/-- O56: the state of the last is in canonical form. -/
theorem witness_RotaAndVoteSteps_canonical : (sVote 1 0 {} {} {}).canonical := by
  unfold State.canonical Core.canonical Thread.canonical Store.canonical; decide +kernel

/-- O57, cores given: to a partition, ready ones; one of another's, and one not ready. The shrink of a core of each kind. -/
theorem witness_PartitionAndHubSteps_cores :
    (let s := evs (pk s1 fun k => { k with regs := { k.regs with funcready := [0, 1, 2] } }) { cs := [0, 2], p := 0 };
      s.ev.k ≠ 1 ∧ ∀ c ∈ s.ev.cs, c ∈ s.pkg.regs.funcready ∧ ∀ e ∈ s.pkg.parts, e.1 ≠ s.ev.p → c ∉ e.2.cores ∧ ∀ x ∈ e.2.grow, x.1 ≠ c)
    ∧ (let s := evs (part0 s1 fun q => { q with grow := [(5, 0)] }) { k := 1 };
      s.ev.k = 1 ∧ ((s.getPart 0).grow.filter fun e => e.2 ≤ s.pkg.time) = [(5, 0)])
    ∧ (let s := evs (pk s1 fun k => { k with regs := { k.regs with funcready := [0, 1, 2] } }) { cs := [0, 2], p := 1 };
      s.ev.k ≠ 1 ∧ ¬ ∀ c ∈ s.ev.cs, c ∈ s.pkg.regs.funcready ∧ ∀ e ∈ s.pkg.parts, e.1 ≠ s.ev.p → c ∉ e.2.cores ∧ ∀ x ∈ e.2.grow, x.1 ≠ c)
    ∧ (s0.updCore fun c => { c with phase := .ending }).core.phase = .ending
    ∧ s0.core.num = 0 ∧ s0.core.phase = .run ∧ s0.core.th.task.foldable = false ∧ s0.core.th.csr.trapvec.getLsbD 0 = false
    ∧ (th s0 fun t => { t with csr := { t.csr with trapvec := 1 } }).core.th.csr.trapvec.getLsbD 0 = true
    ∧ (th s0 fun t => { t with task := { t.task with foldable := true } }).core.th.task.foldable = true
    ∧ (s0.updCore fun c => { c with phase := .idle }).core.phase ≠ .run := by decide +kernel

/-- O57, a shrink: asked for, put off by a vote, begun, asked for again; complete; each side of the time its handlers have. -/
theorem witness_PartitionAndHubSteps_shrink :
    (let s := evs (part0 s1 fun q => { q with shrink := [1] }) { n := 1 }; let q := s.getPart 0;
      s.ev.n = 1 ∧ q.shrink ≠ [] ∧ q.shrinkAt = 0 ∧ q.vote.pst = .run)
    ∧ (∀ t ∈ [PartSt.run, .prepared], let s := evs (part0 s1 fun q => { q with vote := { q.vote with pst := t } }) { cs := [1] }; let q := s.getPart 0;
      s.ev.n ≠ 1 ∧ q.shrink = [] ∧ q.cores.filter s.ev.cs.contains ≠ [] ∧ q.vote.pst = t)
    ∧ (let s := evs (part0 s1 fun q => { q with shrink := [1] }) { cs := [1] }; s.ev.n ≠ 1 ∧ (s.getPart 0).shrink ≠ [])
    ∧ (let s := evs s1 { cs := [5] }; s.ev.n ≠ 1 ∧ (s.getPart 0).cores.filter s.ev.cs.contains = [])
    ∧ (let s := part0 s1 fun q => { q with shrink := [1], shrinkAt := 1 }; let q := s.getPart 0;
      q.shrink ≠ [] ∧ q.shrinkAt ≠ 0 ∧ ∀ n ∈ q.shrink, let c := s.getCore n;
        (c.phase = .idle ∨ c.phase = .stopped 2) ∧ c.qacc = [] ∧ c.exch = [] ∧ ∀ m ∈ s.pkg.cmds, m.eng ≠ some n ∧ m.own ≠ n)
    ∧ (let away : Thread := { tid := 7, core := 1, task := placedTask }
      let s := pk { (part0 s1 fun q => { q with shrink := [1], shrinkAt := 1 }) with
        todo := [{ num := 1, qacc := [{ acc0 (.fld 0 2) with tid := 7 }] }] } fun k => { k with parked := [away] }
      (s.getPart 0).shrink = [1] ∧ (s.getCore 1).phase = .idle ∧ (∀ x ∈ (s.getCore 1).qacc, ∃ t ∈ s.pkg.parked, t.tid = x.tid) ∧ (s.getCore 1).qacc ≠ [])
    ∧ (s1.getCore 1).phase ≠ .stopped 2
    ∧ (let s := pk (part0 s1 fun q => { q with shrink := [1], shrinkAt := 1 }) fun k => { k with time := 2 ^ 24 }; let q := s.getPart 0;
      q.shrinkAt ≠ 0 ∧ q.shrinkAt + 2 ^ 24 ≤ s.pkg.time + 1)
    ∧ (let s := pk (part0 s1 fun q => { q with shrink := [1], shrinkAt := 1 }) fun k => { k with time := 2 ^ 24 - 1 };
      s.pkg.time + 1 < (s.getPart 0).shrinkAt + 2 ^ 24) := by decide +kernel

/-- O57, a page of a context that a teardown zeroes. -/
theorem witness_PartitionAndHubSteps_pages : d1 ∈ s1.allCtxs 0 ∧ (0, 2 ^ 30) ∈ leavesOf s1.pkg.hbm.mem d1.root 0 4 := by
  have h1 : leGet s1.pkg.hbm.mem 0x1000 8 = 0x2001 := by decide +kernel
  have h2 : leGet s1.pkg.hbm.mem 0x2000 8 = 0x33 := by decide +kernel
  have h3 : d1.root = 0x1000 := rfl
  refine ⟨List.mem_filterMap.2 ⟨0, by simp, by decide +kernel⟩, ?_⟩
  generalize s1.pkg.hbm.mem = m at *
  rw [h3]
  unfold leavesOf
  refine List.mem_flatMap.2 ⟨0, by simp, ?_⟩
  have e : bits 0x2001 51 8 * 256 = 0x2000 := by decide
  have e1 : bit 0x2001 0 = true := by decide
  have e2 : bit 0x2001 1 = false := by decide
  have g1 : bit 0x33 0 = true := by decide
  have g2 : bit 0x33 1 = true := by decide
  have g : bits 0x33 51 16 * 65536 = 0 := by decide
  have z : pageSize 1 = 2 ^ 30 := by decide
  simp only [Nat.mul_zero, Nat.add_zero, h1, e, e1, e2]
  unfold leavesOf
  refine List.mem_flatMap.2 ⟨0, by simp, ?_⟩
  simp [h2, g1, g2, g, z]

/-- O57: the save area and the kennel of a context; packets to drop, one that needs an answer and came by a link, and others; launches
with their record, their signal, both and neither at a host target that is there, and at one that is not. -/
theorem witness_PartitionAndHubSteps_teardown :
    d2 ∈ (sVote 1 0 {} {} {}).allCtxs 0 ∧ d2.save ≠ 0 ∧ d2.kennel ≠ 0
    ∧ (let t : TxPkt := { vc := 0, gen := false, pkt := pktW, port := 3 }
      pktW.kind = 1 ∧ t.port < 8 ∧ ¬ ({ t with port := 8 } : TxPkt).port < 8 ∧ ¬ ({ pktW with kind := 6 } : Packet).kind ∈ [1, 2, 4, 9])
    ∧ (let at_ := fun (w : Word) => ({ slot := 0, mail := 0, record := rec0.set 3 w, start := 0 } : Launch)
      (at_ 0).dhost = false ∧ (at_ 0).shost = false ∧ (at_ 4).dhost = true ∧ (at_ 4).shost = false ∧ (at_ 8).dhost = false ∧ (at_ 8).shost = true
      ∧ (at_ 12).dhost = true ∧ (at_ 12).shost = true ∧ statusRank (at_ 0).status < statusRank 3)
    ∧ (let table := fun (m : Memory) => lePut (lePut (lePut m 0x3000 (2 ^ 31 + 5) 4) 0x3008 0x1000 8) 0x3010 4096 8
      let s := part0 s1 fun q => { q with regs := { q.regs with page := table q.regs.page } }
      s.hostOk 0 0 64 = true ∧ s.hostOk 0 0 4 = true ∧ s.hostOk 0 4092 64 = false ∧ s.hostOk 0 4092 4 = true ∧ s.hostOk 0 (2 ^ 48) 4 = false
      ∧ (0 : Nat) < 2 ^ 56 ∧ (s.pageLe 0 0x3000 4).testBit 31 = true) := by decide +kernel

/-- An invalidation of ASID `a` that runs, or does not; and one that waits for a queued access. -/
def sInv (b : Bool) (a : Word) : State := part0 s1 fun q => { q with regs := { q.regs with invBusy := b, invAsid := a, invCnt := 16, runAsid := a, runCnt := 16 } }
def sInvQ : State := (sInv true 1).updCore fun c => { c with qacc := [acc0 (.fld 0 2)] }

/-- O57, invalidations: while one runs, of an unknown ASID, of a known one; one that is complete and one that is not. -/
theorem witness_PartitionAndHubSteps_invalidations :
    ((sInv true 1).getPart 0).regs.invBusy = true ∧ ((sInv false 1).getPart 0).regs.invBusy = false
    ∧ ((sInv false 2).getPart 0).regs.invBusy = false ∧ ((sInv false 1).getPart 0).regs.invAsid.toNat = 1
    ∧ ((sInv false 2).getPart 0).regs.invAsid.toNat = 2 ∧ ((sInv false 1).allCtxs 0).map (·.asid) = [1]
    ∧ ((sInv false 2).allCtxs 0).map (·.asid) = [1] ∧ (sInv true 1).invClear 0 = true ∧ sInvQ.invClear 0 = false := by decide +kernel

/-- O57, DRAINMAX at and outside its limits; offsets of the hub window. -/
theorem witness_PartitionAndHubSteps_hub :
    (∀ v ∈ [1024, 1048576], v % 1024 = 0 ∧ 1024 ≤ v ∧ v ≤ 1048576) ∧ (∀ v ∈ [0, 1025, 1049600], ¬ (v % 1024 = 0 ∧ 1024 ≤ v ∧ v ≤ 1048576))
    ∧ (let s := evs s1 { k := 0x208, w := 15, v := 1 }; s.ev.k / 4 * 4 < 0x10000 ∧ s.ev.w.testBit 0 = true)
    ∧ 0x17FFFC < 0x180000 ∧ 0x3FC < 0x400 ∧ 0x4FFC < 0x5000 ∧ 63 < 64 ∧ 1 < 2 := by decide +kernel

/-- `s1` with a third 1 GiB without SYSA, a registered window on all of it from 0x100000 on as R-key 1 and a read right only as
R-key 2, and a request. -/
def sHost (q : HostReq) (e : Stim) : State :=
  evs (part0 (poke s1 0x2010 0x23 8) fun q =>
    let g := fun (m : Memory) (k r : Nat) => lePut (lePut (lePut m (0x1000 + 32 * k) (2 ^ 63 + r) 8) (0x1008 + 32 * k) 0x100000 8) (0x1010 + 32 * k) (2 ^ 40) 8
    { q with regs := { q.regs with page := g (g q.regs.page 1 0x70000) 2 0x10000 } }) { e with rq := q }

/-- What a request reaches, and whether a block of it is poisoned. -/
def hostGives (r : HostReach) (d : CtxDesc) (l : List (Place × Nat × Nat)) (bad : Bool) : Bool :=
  match r with
  | .ok d' l' t => d' = d && l' = l && (l'.any fun e => t.placeBad e.1) = bad
  | _ => false
def hostRefused : HostReach → Bool
  | .no _ => true
  | _ => false

/-- O58, queue pairs: open to a request, of no such endpoint, of no such pair, and with the port not ready; a request that waits behind a
job; a job with words to go, with one and with none; in reset, from the management endpoint and from another. -/
theorem witness_HostRequestsErrorsAndBringUp_jobs :
    let opened := fun (s : State) => decide (s.ev.rq.ep ≤ 8) && decide (s.ev.rq.qp < 256) && decide (1024 + 20 ∈ s.pkg.regs.funcready)
    let q : HostReq := ⟨0, 5, 1, 0x100000⟩
    let e := fun (k : Nat) => (Place.mem (0x100000 + 4 * k) 12, 4 * k, 4)
    opened (sHost q {}) = true ∧ (sHost q {}).pkg.hostJobs = [] ∧ (sHost q {}).ev.n ≠ 1 ∧ (sHost q {}).pkg.held = false
    ∧ opened (sHost ⟨8, 255, 0, 0⟩ {}) = true ∧ opened (sHost ⟨9, 5, 0, 0⟩ {}) = false ∧ opened (sHost ⟨0, 256, 1, 0⟩ {}) = false
    ∧ opened (pk (sHost q {}) fun k => { k with regs := { k.regs with funcready := [] } }) = false
    ∧ (∀ l ∈ [[], [e 0], [e 0, e 1]], let j : HostJob := { rq := q, slot := 0, data := [1, 2, 3, 4, 5, 6, 7, 8], left := l, later := [] }
      let s := pk (sHost q { n := 1 }) fun k => { k with hostJobs := [j] }
      opened s = true ∧ s.pkg.hostJobs[s.ev.k]? = some j ∧ j.rq.ep = s.ev.rq.ep ∧ j.rq.qp = s.ev.rq.qp ∧ s.pkg.held = false ∧ s.ev.n = 1 ∧ j.left = l)
    ∧ (sHost q { n := 2 ^ 31 + 1 }).ev.n > 2 ^ 31
    ∧ (let s := fun (b : Bool) (q : HostReq) => pk (sHost q {}) fun k => { k with held := true, tripped := b }
      ∀ b ∈ [true, false], ∀ va ∈ [0, 0x2000], (s b ⟨8, 0, 0, va⟩).pkg.held = true ∧ (s b ⟨8, 0, 0, va⟩).pkg.tripped = b
        ∧ (s b ⟨8, 0, 0, va⟩).ev.rq = ⟨8, 0, 0, va⟩ ∧ ¬ ((s b q).ev.rq.ep = 8 ∧ (s b q).ev.rq.rkey = 0)) := by decide +kernel

/-- O58: a write of more than 2^31 bytes. -/
theorem witness_HostRequestsErrorsAndBringUp_size : 2 ^ 31 < (List.replicate (2 ^ 31 + 1) (0 : Byte)).length := by
  rw [List.length_replicate]; decide

/-- O58, windows: none, and one with every right; a request inside it, one over its end, one below it, one without the right. -/
theorem witness_HostRequestsErrorsAndBringUp_windows :
    (let s := sHost ⟨0, 5, 1, 0x100000⟩ {};
      (s.pageLe 0 (0x1000 + 32 * 1) 8).testBit 63 = true ∧ (s.pageLe 0 (0x1000 + 32 * 3) 8).testBit 63 = false ∧ s.window 0 3 = none
      ∧ s.window 0 1 = some ⟨0, true, true, true, 0x100000, 2 ^ 40⟩ ∧ s.window 0 2 = some ⟨0, true, false, false, 0x100000, 2 ^ 40⟩
      ∧ s.ctxDesc 0 0 = some d1
      ∧ (0x100000 ≤ s.ev.rq.va ∧ s.ev.rq.va + 4 ≤ 0x100000 + 2 ^ 40) ∧ 0xFFFFF < 0x100000 ∧ 0x100000 + 2 ^ 40 < 0x100000 + 2 ^ 40 - 3 + 4)
    ∧ (let s := sHost ⟨0, 5, 1, 0x100000⟩ { data := [1, 2, 3, 4], n := 4 };
      hostGives (s.hostReach (·.w) true s.ev.data.length) d1 [(.mem 0x100000 12, 0, 4)] false = true
      ∧ hostGives (s.hostReach (·.r) false s.ev.n) d1 [(.mem 0x100000 12, 0, 4)] false = true)
    ∧ (let s := sHost ⟨0, 5, 2, 0x100000⟩ { data := [1, 2, 3, 4], n := 4 };
      (hostRefused (s.hostReach (·.w) true s.ev.data.length)) = true ∧ (hostRefused (s.hostReach (·.a) true 8)) = true)
    ∧ (let s := sHost ⟨0, 5, 3, 0x100000⟩ { n := 4 }; (hostRefused (s.hostReach (·.r) false s.ev.n)) = true)
    ∧ (let s := pk (sHost ⟨0, 5, 1, 0x100000⟩ { n := 4 }) fun k => { k with hbm := { k.hbm with poison := sset false k.hbm.poison 0x4000 true } };
      hostGives (s.hostReach (·.r) false s.ev.n) d1 [(.mem 0x100000 12, 0, 4)] true = true
      ∧ hostGives (s.hostReach (·.a) true 8) d1 [(.mem 0x100000 12, 0, 4), (.mem 0x100004 12, 4, 4)] true = true) := by
  decide +kernel

/-- O58, atomics: at an odd address; of the hub; at a place of a SYSA page, of another page and of a scratchpad. -/
theorem witness_HostRequestsErrorsAndBringUp_atomics :
    (sHost ⟨0, 5, 1, 0x100004⟩ {}).ev.rq.va % 8 ≠ 0 ∧ (sHost ⟨8, 5, 0, 0⟩ {}).ev.rq.va % 8 = 0
    ∧ hostGives ((sHost ⟨0, 5, 1, 0x100000⟩ {}).hostReach (·.a) true 8) d1 [(.mem 0x100000 12, 0, 4), (.mem 0x100004 12, 4, 4)] false = true
    ∧ Nat.testBit 12 2 = true ∧ Nat.testBit 8 2 = false
    ∧ hostGives ((sHost ⟨0, 5, 1, 0x80000000⟩ {}).hostReach (·.a) true 8) d1 [(.mem 0 8, 0, 4), (.mem 4 8, 4, 4)] false = true
    ∧ (let s := part0 (sHost ⟨0, 5, 4, 0xFF0000000000⟩ {}) fun q =>
        { q with regs := { q.regs with page := lePut (lePut q.regs.page 0x1080 (2 ^ 63 + 0x40000) 8) 0x1090 (2 ^ 48) 8 } };
      hostGives (s.hostReach (·.a) true 8) d1 [(.spad 0 0, 0, 4), (.spad 0 4, 4, 4)] false = true) := by decide +kernel

/-- O58, requests to the hub: of the management endpoint, of a partition, at the end of its page and past it. -/
theorem witness_HostRequestsErrorsAndBringUp_hub :
    (8 ≤ (sHost ⟨8, 5, 0, 0⟩ {}).ev.rq.ep ∧ (sHost ⟨8, 5, 0, 0⟩ {}).ev.rq.rkey = 0) ∧ (sHost ⟨8, 5, 1, 0⟩ {}).ev.rq.rkey ≠ 0
    ∧ (let s := sHost ⟨7, 5, 0, 0xFFFC⟩ { data := [1, 2, 3, 4], n := 5 };
      s.ev.rq.ep < 8 ∧ s.ev.rq.rkey = 0 ∧ s.ev.rq.va + s.ev.data.length ≤ 0x10000 ∧ 0x10000 < s.ev.rq.va + s.ev.n)
    ∧ (let s := sHost ⟨7, 5, 0, 0xFFFC⟩ { data := [1, 2, 3, 4, 5], n := 4 };
      0x10000 < s.ev.rq.va + s.ev.data.length ∧ s.ev.rq.va + s.ev.n ≤ 0x10000)
    ∧ (let s := pk s1 fun k => { k with hostPost := [(0, 1, 8)] }; s.pkg.hostPost[s.ev.k]? = some (0, 1, 8)) := by decide +kernel

/-- O58, an image for slot 0 with one block of data, and one without; counters, self-tests, and each place of an error. -/
theorem witness_HostRequestsErrorsAndBringUp_bringup :
    (let i : Image := { placedImage with id := 7, dataVa := 0x100000, dataLen := 64 };
      let s := evs s1 { img := some i, n := 1, blocks := [⟨0, 0⟩] };
      s.ev.img = some i ∧ s.ev.n = 1 ∧ (∀ j, j < 64 → i.slots.getLsbD j = decide (j = 0))
      ∧ (let t := (s.updPart s.ev.p fun q => { q with images := { i with valid := true } :: q.images.filter fun x => x.id ≠ i.id }).updPkg fun k =>
          { k with hbm := { k.hbm with mem := bytesPut k.hbm.mem ((s.getPart s.ev.p).regs.imgtab + 128 * (i.id % 65536)) (imageBytes { i with valid := true }) } };
        t.ctxDesc s.ev.p 0 = some d1 ∧ (t.reach 0 s.ev.p d1 none i.dataVa).1 = .found (.mem 0x100000 12)))
    ∧ (evs s1 { img := some image1, n := 0 }).ev.n ≠ 1 ∧ (evs s1 { img := some image1, n := 1 }).ev.blocks = []
    ∧ (evs s1 { k := 15 }).ev.k < 16 ∧ s0.pkg.held = false ∧ (∀ n ∈ [0, 1024, 1024 + 11, 1024 + 20, 1024 + 21],
      n < 1024 + 22 ∧ n ∉ s0.pkg.regs.funcready ∧ ¬ (1024 + 12 ≤ n ∧ n < 1024 + 20))
    ∧ (∀ n ∈ [1024 + 12, 1024 + 19], 1024 + 12 ≤ n ∧ n < 1024 + 20 ∧ n ∉ s0.pkg.regs.funcready)
    ∧ (∀ r ∈ [((0 : BitVec 16), (16, 0)), (1, (8, 8))], laneGroup (BitVec.ofNat 16 (evs s0 { v := 0xFFFF }).ev.v &&& ~~~({ link0 with barred := r.1 } : Link).barred).toNat = some r.2)
    ∧ (let s := pk s1 fun k => { k with lineOf := [(1, 3)], dstore := [(lineDie 1, [1])] };
      0 < sget 0 s.pkg.lineOf (64 / 64) ∧ 64 / 64 ∈ sget [] s.pkg.dstore (lineDie (64 / 64)))
    ∧ (let s := th s1 fun t => { t with lq := [5], inflight := [⟨2, 0, 0, false, .x 5 1, true, false⟩] };
      0 < (s.getCore 0).th.results.length)
    ∧ 0x3FC0 < hbmEnd ∧ sget 0 s1.pkg.lineOf 0 = 0 ∧ 0 < sget 0 (pk s1 fun k => { k with lineOf := [(1, 3)] }).pkg.lineOf (64 / 64)
    ∧ (let l : L1Line := { asid := 1, va := 0, pa := 64, cls := 0, data := 0, desc := 0, dirty := 0, ddesc := false, wts := 0, rts := 0 };
      ∃ x ∈ ((s1.updCore fun c => { c with l1 := [l] }).getCore 0).l1, x.pa = 64 / 64 * 64)
    ∧ (let s := evs (sLink { link0 with sendq := [{ vc := 0, gen := false, pkt := pktW }] } 0 {}) { err := .switchBuf 7 0 };
      s.ev.err = .switchBuf 7 0 ∧ (s.getLink 7).sendq[0]? = some { vc := 0, gen := false, pkt := pktW } ∧ pktW.kind ≠ 7 ∧ pktW.kind ≠ 11)
    ∧ (∀ pa ∈ [0x400000, 0x110FFF], (sVote 1 2 {} {} {}).partOfPa pa = some 0)
    ∧ (∀ e ∈ [ErrSite.mem 64, .dieStore 64, .l1 0 64, .spad 0 0, .tile 0 95, .slab 0 63, .scalar 0 63, .pred 0 127, .vector 0 63], (evs s1 { err := e }).ev.err = e) := by
  decide +kernel

/-- O60: a state in canonical form whose step answers a next state. -/
theorem witness_StepKeepsCanonical :
    s0.canonical ∧ nextIs (step (State.reset.withFetchWord 32 0x10020804)) (fun _ => true) = true := by
  unfold State.canonical Core.canonical Thread.canonical Store.canonical
  decide +kernel

/-! ### Worked examples of the spec -/

/-- R67: a group sum keeps what rounding after every product would lose. -/
theorem test_group_sum :
    let blk : Nat → DBlock := fun s => ⟨0x3F803F804580, BitVec.ofNat 16 (s * 256 + 3), 0⟩;
    let scale : List Word := [0, 0, 0x3F000000, 0, 0, 0x40400000];
    passCell scale 0 false [blk 2] (blk 5) 0 = 0x4BC00002 := by decide +kernel

/-- R119, R120: FP16 codes of a packing with the scale 2.0, and their flags: OF and NX, none, UF and NX. -/
theorem test_pack_half : ([0x3FC00000, 0x471C4000, 0x80000000, 0x322BCC77] : List Word).map (fun x => scaledEncode 4 x 0x40000000)
    = [(0x4200, 0), (0x7C00, fOF ||| fNX), (0x8000, 0), (0, fUF ||| fNX)] := by decide +kernel

/-- R145: elements of a described load. -/
theorem test_described : ([(3, 0x4040, 0x3F000000), (3, 0, 0x3F000000), (4, 0x3C00, 0x40800000), (4, 0x7BFF, 0x40800000), (4, 0x7E00, 0x40800000)] :
      List (Nat × Nat × Word)).map (fun e => (scaledDecode e.1 e.2.1 e.2.2).1) = [0x3FC00000, 0, 0x40800000, 0x487FE000, 0x7FC00000] := by
  decide +kernel

/-- R137: a writer with preference: a reader in, the writer refused and counted, a reader refused, out, and the writer in. -/
theorem test_lock :
    evalWait (.rwlRd 0 0) 0x40000000 0 false true = ⟨true, some 0x40000001, false⟩
    ∧ evalWait (.rwlWr 0 0) 0x40000001 0 false true = ⟨false, some 0x40010001, true⟩
    ∧ (evalWait (.rwlRd 0 0) 0x40010001 0 false true).granted = false
    ∧ evalWait (.rwlRu 0 0) 0x40010001 0 false true = ⟨true, some 0x40010000, false⟩
    ∧ evalWait (.rwlWr 0 0) 0x40010000 0 true false = ⟨true, some 0xC0000000, false⟩
    ∧ evalWait (.rwlWu 0 0) 0xC0000000 0 false true = ⟨true, some 0x40000000, false⟩ := by decide +kernel

/-- R53: DL8 ties: 0.2265625 to the even code, 77,500 to the larger magnitude. -/
theorem test_dl8_ties : rneDl8 (.fin false 29 128) = (0x44, fNX) ∧ rneDl8 (.fin false 77500 1) = (3, fNX) := by decide +kernel

/-- R256: the swizzled word of address 0x1A48. -/
theorem test_swizzle : swz 0x1A48 = 0x1A20 := by decide +kernel

/-- R197, R318: three ranks of a sum, and one merge row across three ranks, with NORM. -/
theorem test_merge :
    (addF (addF 0x3F800000 0x4B800000).1 0x3F800000).1 = 0x4B800000
    ∧ mergeRow [0x40000000, 0x3F800000, 0x40400000] [0xFF800000, 0, 0] = [0x40000000, 0x3F800000, 0x40400000]
    ∧ mergeRow [0x40000000, 0x3F800000, 0x40400000] [0x40400000, 0x40000000, 0x40000000] = [0x40400000, 0x40200000, 0x40600000]
    ∧ normRow true [0x40400000, 0x40200000, 0x40600000] = [0x3FB33333] := by decide +kernel

/-! ### One step -/

/-- R76: `div x7, x8, x9` with the most negative number divided by −1: the quotient lands in x7 12 cycles after issue. -/
theorem test_div : nextIs (exec (.div 0 7 8 9) (withX (withX s0 8 0x80000000) 9 0xFFFFFFFF))
    (fun t => t.core.th.inflight.map (fun l => (l.remain, l.dest)) = [(12, .x 7 0x80000000)]) = true := by decide +kernel

/-- R9: the step of a placed bundle of four words advances the pc by 16 bytes. -/
theorem test_step_advances : nextIs (step (State.reset.withFetchWord 32 0x10020804)) (fun t => t.core.th.pc = 16) = true := by decide +kernel

end Sys2Proof.Tests
end

/-! SUPPORT. The operations whose guard is an operand (R15): the positions of a keep mask's set bits (R148), the re-expansion and
the products of the sparse dot product, and what `sel`, `vsel`, `vexpd` and `vsdot` answer where they act. -/

namespace Sys2Proof.Machine

/-- An entry of a list by the model's reader is the library's. -/
theorem lget_eq_getD {α : Type} (d : α) (l : List α) (k : Nat) : lget d l k = l.getD k d := by
  induction l generalizing k with
  | nil => simp [lget]
  | cons x l ih => cases k <;> simp [lget, ih]

/-! ### Positions of a keep mask (R148) -/

/-- A set bit stands among the positions after the set bits below it. -/
theorem keepPos_split (m : PReg) {i : Nat} (hi : i < 64) (hm : m.getLsbD i = true) :
    ∃ l, keepPos m = (List.range i).filter m.getLsbD ++ i :: l := by
  have hr : List.range 64 = List.range i ++ i :: (List.range (63 - i)).map fun k => i + (k + 1) := by
    rw [show 64 = i + (63 - i + 1) by omega, List.range_add, List.range_succ_eq_map]
    simp
  refine ⟨((List.range (63 - i)).map fun k => i + (k + 1)).filter m.getLsbD, ?_⟩
  rw [keepPos, activeLanes, hr, List.filter_append, List.filter_cons_of_pos hm]

/-- The entry at the count of the set bits below a set bit is that bit. -/
theorem lget_keepPos (m : PReg) {i : Nat} (hi : i < 64) (hm : m.getLsbD i = true) :
    lget 0 (keepPos m) ((List.range i).filter m.getLsbD).length = i := by
  obtain ⟨l, hl⟩ := keepPos_split m hi hm
  simp [lget_eq_getD, hl]

/-- A set bit is found among the positions at the count of the set bits below it. -/
theorem idxOf_keepPos (m : PReg) {i : Nat} (hi : i < 64) (hm : m.getLsbD i = true) :
    (keepPos m).idxOf i = ((List.range i).filter m.getLsbD).length := by
  obtain ⟨l, hl⟩ := keepPos_split m hi hm
  rw [hl, List.idxOf_append_of_notMem (by simp), List.idxOf_cons_self, Nat.add_zero]

/-- Fewer set bits lie below a set bit than there are positions. -/
theorem length_filter_lt_length_keepPos (m : PReg) {i : Nat} (hi : i < 64) (hm : m.getLsbD i = true) :
    ((List.range i).filter m.getLsbD).length < (keepPos m).length := by
  obtain ⟨l, hl⟩ := keepPos_split m hi hm
  simp [hl]

/-- There are at most 64 positions. -/
theorem length_keepPos_le (m : PReg) : (keepPos m).length ≤ 64 :=
  (List.length_filter_le _ _).trans_eq List.length_range

/-! ### Vectors from lists of lanes -/

@[simp] theorem length_lanesOf (f : Nat → Word × Flags) : (lanesOf f).length = 64 := by simp [lanesOf]

/-- An entry of the lanes of an operation. -/
theorem getElem?_lanesOf (f : Nat → Word × Flags) {k : Nat} (hk : k < 64) : (lanesOf f)[k]? = some (f k) := by
  simp [lanesOf, hk]

/-- The first lane of a vector built from a list. -/
theorem lane_vecOf_cons_zero (q : Word × Flags) (l : List (Word × Flags)) (hl : l.length < 64) : lane (vecOf (q :: l)) 0 = q.1 := by
  simp [lane_vecOf _ (show (q :: l).length ≤ 64 by simpa using hl)]

/-! ### The choices of the four operations -/

/-- The vector that `vsel` writes (R113). -/
def selected (m : PReg) (a b : VReg) : VReg := (a &&& laneMask m) ||| (b &&& ~~~(laneMask m))

theorem lane_selected (m : PReg) (a b : VReg) {k : Nat} (hk : k < 64) :
    lane (selected m a b) k = bif m.getLsbD k then lane a k else lane b k := by
  rw [selected, BitVec.or_comm, lane_merge _ _ _ _ hk, Bool.cond_eq_ite]

/-- The vector that `vexpd` writes (R148). -/
def expanded (m : PReg) (a : VReg) : VReg :=
  vecOf (lanesOf fun i => (if m.getLsbD i then lane a ((keepPos m).idxOf i) else 0, 0))

/-- A kept lane takes the lane of the compacted operand at the count of the kept lanes below it. -/
theorem lane_expanded_kept (m : PReg) (a : VReg) {i : Nat} (hi : i < 64) (hm : m.getLsbD i = true) :
    lane (expanded m a) i = lane a ((List.range i).filter m.getLsbD).length := by
  rw [expanded, lane_lanesOf _ _ hi, if_pos hm, idxOf_keepPos m hi hm]

/-- A lane that is not kept is +0. -/
theorem lane_expanded_dropped (m : PReg) (a : VReg) {i : Nat} (hi : i < 64) (hm : m.getLsbD i = false) :
    lane (expanded m a) i = 0 := by
  rw [expanded, lane_lanesOf _ _ hi, hm, if_neg Bool.false_ne_true]

/-- The 64 terms that `vsdot` adds: the products of the compacted operand with the kept lanes, then −0 (R148). -/
def sparseTerms (m : PReg) (a b : VReg) : List (Word × Flags) :=
  lanesOf fun j => if j < (keepPos m).length then mulF (lane a j) (lane b (lget 0 (keepPos m) j)) else (0x80000000, 0)

/-- A kept lane has its product at the count of the kept lanes below it. -/
theorem sparseTerms_kept (m : PReg) (a b : VReg) {i : Nat} (hi : i < 64) (hm : m.getLsbD i = true) :
    (sparseTerms m a b)[((List.range i).filter m.getLsbD).length]?
      = some (mulF (lane a ((List.range i).filter m.getLsbD).length) (lane b i)) := by
  have hj := length_filter_lt_length_keepPos m hi hm
  rw [sparseTerms, getElem?_lanesOf _ (hj.trans_le (length_keepPos_le m)), if_pos hj, lget_keepPos m hi hm]

/-- The terms past the kept lanes are −0. -/
theorem sparseTerms_rest (m : PReg) (a b : VReg) {j : Nat} (hj : (keepPos m).length ≤ j) (h64 : j < 64) :
    (sparseTerms m a b)[j]? = some (0x80000000, 0) := by
  rw [sparseTerms, getElem?_lanesOf _ h64, if_neg (Nat.not_lt.2 hj)]

/-! ### What they answer where they act -/

section
variable {g d a b : Nat} {s t : State} {o : Opnds}

/-- `sel` puts one of its two scalars in flight by lane 0 of the guard (R15, R75). -/
theorem exec_sel_of_acts (h : Acts (.sel g d a b) s o t) :
    exec (.sel g d a b) s = .next (t.putX 1 d (if o.g.getLsbD 0 then o.xa else o.xb)) :=
  present_acts h rfl rfl rfl rfl rfl

/-- `vsel` puts the selected lanes in flight and writes every lane (R15, R113). -/
theorem exec_vsel_of_acts (h : Acts (.vsel g d a b) s o t) :
    exec (.vsel g d a b) s = .next (t.putV 1 d (selected o.g o.va o.vb) (-1) 0) :=
  present_acts h rfl rfl rfl rfl rfl

/-- `vexpd` puts the re-expanded operand in flight, without a flag (R15, R148). -/
theorem exec_vexpd_of_acts (h : Acts (.vexpd g d a) s o t) :
    exec (.vexpd g d a) s = .next (t.putV 4 d (expanded o.g o.va) (-1) 0) :=
  present_acts h rfl rfl rfl rfl rfl

/-- `vsdot` puts the old lane 0 plus the tree's sum of its terms in flight for lane 0, +0 for the others, with the flags of every
product and addition (R15, R46, R148). -/
theorem exec_vsdot_of_acts (h : Acts (.vsdot g d a b) s o t) :
    let r := tree addF 6 (sparseTerms o.g o.va o.vb)
    let q := addF (lane o.vd 0) r.1
    exec (.vsdot g d a b) s = .next (t.putV 8 d (vecOf (q :: List.replicate 63 (0, 0))) (-1) (r.2 ||| q.2 ||| nfOf q.1)) :=
  present_acts h rfl rfl rfl rfl rfl

end

/-- The shape of an operation whose guard is an operand keeps it from suppression (R15). -/
theorem suppressedBy_of_operand {i : Instr} (h : (shape i).gu = .operand) (p : PReg) : suppressedBy i p = false := by
  simp [suppressedBy, h]

/-- Settles O38: the shape of each of the four names its guard an operand, and where it acts its result is the one that the guard
chooses. -/
theorem guardsThatAreOperands : Obligations.GuardsThatAreOperands := by
  intro g d a b
  refine ⟨?_, ?_, ?_, ?_, ?_⟩
  · intro i hi p
    refine suppressedBy_of_operand ?_ p
    simp only [List.mem_cons, List.not_mem_nil, or_false] at hi
    rcases hi with rfl | rfl | rfl | rfl <;> rfl
  · intro s o t h
    rw [exec_sel_of_acts h, Bool.cond_eq_ite]
  · intro s o t h
    exact ⟨_, fun k hk => lane_selected _ _ _ hk, exec_vsel_of_acts h⟩
  · intro s o t h
    refine ⟨_, _, sparseTerms o.g o.va o.vb, length_lanesOf _, ?_, fun j hj h64 => sparseTerms_rest _ _ _ hj h64,
      lane_vecOf_cons_zero _ _ (by simp), exec_vsdot_of_acts h⟩
    rintro i _ hi hm rfl
    exact sparseTerms_kept _ _ _ hi hm
  · intro s o t h
    refine ⟨_, ?_, fun i hi hm => lane_expanded_dropped _ _ hi hm, exec_vexpd_of_acts h⟩
    rintro i _ hi hm rfl
    exact lane_expanded_kept _ _ hi hm

end Sys2Proof.Machine

/-! SUPPORT. The FP32 compares (R112): the value of an FP32 word by its magnitude bits (R39), the order of exact values as an order
of those bits, the relations and flags of the five compares, their words, and a predicate result for p0 as it lands. -/

namespace Sys2Proof.Machine

/-! ### The value of a word by its magnitude bits (R39) -/

/-- The magnitude bits of an FP32 word: all but the sign. -/
def magBits (w : Word) : Nat := w.toNat % 2 ^ 31

/-- The magnitude that finite magnitude bits stand for, in units of 2^−149, the smallest subnormal (R39). -/
def magUnits (m : Nat) : Nat := if m / 2 ^ 23 = 0 then m else (m % 2 ^ 23 + 2 ^ 23) * 2 ^ (m / 2 ^ 23 - 1)

/-- Larger magnitude bits stand for a larger magnitude: within one exponent by the fraction, across two by the leading one. -/
theorem magUnits_strictMono : StrictMono magUnits := by
  refine strictMono_nat_of_lt_succ fun m => ?_
  unfold magUnits
  have hpos : 0 < 2 ^ (m / 2 ^ 23 - 1) := by positivity
  by_cases hr : m % 2 ^ 23 = 2 ^ 23 - 1
  · have he : (m + 1) / 2 ^ 23 = m / 2 ^ 23 + 1 := by omega
    have hz : (m + 1) % 2 ^ 23 = 0 := by omega
    rw [he, hz, if_neg (Nat.succ_ne_zero _), Nat.add_sub_cancel, hr]
    split
    · next h0 => rw [h0]; omega
    · next h0 =>
      rw [show 2 ^ (m / 2 ^ 23) = 2 * 2 ^ (m / 2 ^ 23 - 1) by rw [← pow_succ']; congr 1; omega]
      generalize 2 ^ (m / 2 ^ 23 - 1) = c at *
      omega
  · have he : (m + 1) / 2 ^ 23 = m / 2 ^ 23 := by omega
    have hs : (m + 1) % 2 ^ 23 = m % 2 ^ 23 + 1 := by omega
    rw [he, hs]
    split
    · exact Nat.lt_succ_self m
    · exact Nat.mul_lt_mul_of_pos_right (by omega) hpos

/-- A significand at an exponent, as a fraction: its units of 2^−149. -/
theorem scaled_units (s : Bool) (m : Nat) {e : Nat} (he : 1 ≤ e) :
    ∃ p q, scaled s m e 150 = .fin s p q ∧ 0 < q ∧ p * 2 ^ 149 = m * 2 ^ (e - 1) * q := by
  unfold scaled
  split
  · next h =>
    refine ⟨_, _, rfl, one_pos, ?_⟩
    rw [mul_one, mul_assoc, ← pow_add, show e - 150 + 149 = e - 1 by omega]
  · next h =>
    refine ⟨_, _, rfl, by positivity, ?_⟩
    rw [mul_assoc, ← pow_add, show e - 1 + (150 - e) = 149 by omega]

/-- An FP32 word is a NaN, the infinity of its sign, or a finite value with the units of its magnitude bits (R39). -/
theorem f32_cases (w : Word) :
    (f32 w).isNan = true
    ∨ (f32 w = .inf (w.getLsbD 31) ∧ magBits w = 0x7F800000)
    ∨ ∃ p q, f32 w = .fin (w.getLsbD 31) p q ∧ magBits w < 0x7F800000 ∧ 0 < q ∧ p * 2 ^ 149 = magUnits (magBits w) * q := by
  have hs : bit w.toNat (8 + 23) = w.getLsbD 31 := by
    simp [bit, BitVec.getLsbD, Nat.testBit_eq_decide_div_mod_eq]
  have hx : bits w.toNat (8 + 23 - 1) 23 = magBits w / 2 ^ 23 := by unfold bits magBits; omega
  have hm : w.toNat % 2 ^ 23 = magBits w % 2 ^ 23 := by unfold magBits; omega
  have hlt : magBits w < 2 ^ 31 := Nat.mod_lt _ (by norm_num)
  unfold f32 decodeBin
  simp only [hs, hx, hm]
  split
  · next hinf =>
    split
    · next h0 => exact .inr (.inl ⟨rfl, by omega⟩)
    · exact .inl rfl
  · next hfin =>
    right; right
    by_cases h0 : magBits w / 2 ^ 23 = 0
    · obtain ⟨p, q, h, hq, hp⟩ := scaled_units (w.getLsbD 31) (magBits w % 2 ^ 23) le_rfl
      refine ⟨p, q, by rw [if_pos h0, if_pos h0]; exact h, by omega, hq, ?_⟩
      rw [hp, magUnits, if_pos h0, Nat.sub_self, pow_zero, mul_one, Nat.mod_eq_of_lt (by omega)]
    · obtain ⟨p, q, h, hq, hp⟩ := scaled_units (w.getLsbD 31) (magBits w % 2 ^ 23 + 2 ^ 23) (Nat.pos_of_ne_zero h0)
      refine ⟨p, q, by rw [if_neg h0, if_neg h0]; exact h, by omega, hq, ?_⟩
      rw [hp, magUnits, if_neg h0]

/-! ### The order of values as an order of words (R112) -/

/-- The comparison key of a word is its magnitude bits under its sign. -/
theorem cmpKey_eq_sInt (w : Word) : cmpKey w = sInt (w.getLsbD 31) (magBits w) := rfl

/-- A strictly increasing function that keeps 0 keeps the order of signed magnitudes. -/
theorem sInt_lt_sInt_of_strictMono {f : Nat → Nat} (hf : StrictMono f) (h0 : f 0 = 0) (s t : Bool) (m n : Nat) :
    sInt s (f m) < sInt t (f n) ↔ sInt s m < sInt t n := by
  have hmn := hf.lt_iff_lt (a := m) (b := n)
  have hnm := hf.lt_iff_lt (a := n) (b := m)
  have hm := hf.lt_iff_lt (a := 0) (b := m)
  have hn := hf.lt_iff_lt (a := 0) (b := n)
  rw [h0] at hm hn
  cases s <;> cases t <;> simp only [sInt, if_true, Bool.false_eq_true, if_false] <;> omega

/-- Two fractions compare as their units of 2^−149. -/
theorem numLt_fin_of_units {s t : Bool} {p q u v m n : Nat} (hq : 0 < q) (hv : 0 < v)
    (hp : p * 2 ^ 149 = m * q) (hu : u * 2 ^ 149 = n * v) :
    numLt (.fin s p q) (.fin t u v) = decide (sInt s m < sInt t n) := by
  have hc : StrictMono fun k : Nat => k * 2 ^ 149 := fun _ _ h => Nat.mul_lt_mul_of_pos_right h (by positivity)
  have hd : StrictMono fun k : Nat => k * (q * v) := fun _ _ h => Nat.mul_lt_mul_of_pos_right h (by positivity)
  have hpv : p * v * 2 ^ 149 = m * (q * v) := by rw [mul_right_comm, hp, mul_assoc]
  have huq : u * q * 2 ^ 149 = n * (q * v) := by rw [mul_right_comm, hu, mul_assoc, mul_comm v]
  have key := sInt_lt_sInt_of_strictMono hc (zero_mul _) s t (p * v) (u * q)
  simp only [hpv, huq] at key
  exact decide_eq_decide.2 (key.symm.trans (sInt_lt_sInt_of_strictMono hd (zero_mul _) s t m n))

/-- An infinity compares to an infinity as any positive magnitude does to itself. -/
theorem numLt_inf_inf {s t : Bool} {m : Nat} (h : 0 < m) : numLt (.inf s) (.inf t) = decide (sInt s m < sInt t m) := by
  cases s <;> cases t <;> simp [numLt, sInt]
  omega

/-- An infinity compares to a finite value as a magnitude does to a smaller one. -/
theorem numLt_inf_fin {s t : Bool} {u v m n : Nat} (h : n < m) : numLt (.inf s) (.fin t u v) = decide (sInt s m < sInt t n) := by
  cases s <;> cases t <;> simp [numLt, sInt] <;> omega

/-- A finite value compares to an infinity as a magnitude does to a larger one. -/
theorem numLt_fin_inf {s t : Bool} {p q m n : Nat} (h : m < n) : numLt (.fin s p q) (.inf t) = decide (sInt s m < sInt t n) := by
  cases s <;> cases t <;> simp [numLt, sInt] <;> omega

theorem Num.isNan_iff {x : Num} : x.isNan = true ↔ ∃ b, x = .nan b := by cases x <;> simp [Num.isNan]

/-- A NaN on the left is below nothing. -/
theorem numLt_of_isNan_left {x : Num} (y : Num) (h : x.isNan = true) : numLt x y = false := by
  obtain ⟨b, rfl⟩ := Num.isNan_iff.1 h
  rfl

/-- A NaN on the right is above nothing. -/
theorem numLt_of_isNan_right (x : Num) {y : Num} (h : y.isNan = true) : numLt x y = false := by
  obtain ⟨b, rfl⟩ := Num.isNan_iff.1 h
  cases x <;> rfl

/-- The values of two words are in order where neither is a NaN and their keys are: finite magnitudes compare as their bits, and all
of them lie below the bits of infinity. -/
theorem numLt_f32 (a b : Word) :
    numLt (f32 a) (f32 b) = (!((f32 a).isNan || (f32 b).isNan) && decide (cmpKey a < cmpKey b)) := by
  rw [cmpKey_eq_sInt, cmpKey_eq_sInt]
  rcases f32_cases a with ha | ⟨ha, ma⟩ | ⟨p, q, ha, ma, hq, hp⟩
  · simp [numLt_of_isNan_left _ ha, ha]
  · rcases f32_cases b with hb | ⟨hb, mb⟩ | ⟨u, v, hb, mb, hv, hu⟩
    · simp [numLt_of_isNan_right _ hb, hb]
    · rw [ha, hb, ma, mb, numLt_inf_inf (m := 0x7F800000) (by norm_num)]
      rfl
    · rw [ha, hb, ma, numLt_inf_fin mb]
      rfl
  · rcases f32_cases b with hb | ⟨hb, mb⟩ | ⟨u, v, hb, mb, hv, hu⟩
    · simp [numLt_of_isNan_right _ hb, hb]
    · rw [ha, hb, mb, numLt_fin_inf ma]
      rfl
    · rw [ha, hb, numLt_fin_of_units hq hv hp hu]
      exact decide_eq_decide.2 (sInt_lt_sInt_of_strictMono magUnits_strictMono rfl _ _ _ _)

/-! ### Relations and flags of the compares (R112) -/

/-- Either of two words is a NaN. -/
def unordered (a b : Word) : Bool := (f32 a).isNan || (f32 b).isNan

/-- Either of two words is a signalling NaN. -/
def signals (a b : Word) : Bool := (f32 a).isSig || (f32 b).isSig

/-- A signalling NaN is a NaN. -/
theorem signals_or_unordered (a b : Word) : (signals a b || unordered a b) = unordered a b := by
  have h : ∀ x : Num, (x.isSig || x.isNan) = x.isNan := fun x => by cases x <;> simp [Num.isSig, Num.isNan]
  rw [signals, unordered, Bool.or_assoc, Bool.or_left_comm (f32 b).isSig, h, ← Bool.or_assoc, h]

theorem unordered_comm (a b : Word) : unordered a b = unordered b a := Bool.or_comm _ _

/-- Two words that are not unordered compare by their keys. -/
theorem numLt_f32_of_ordered {a b : Word} (h : unordered a b = false) : numLt (f32 a) (f32 b) = decide (cmpKey a < cmpKey b) := by
  rw [numLt_f32, show ((f32 a).isNan || (f32 b).isNan) = false from h, Bool.not_false, Bool.true_and]

/-- `vfeq`: ordered, and neither below the other. -/
theorem compareF_eq (a b : Word) :
    compareF 0 a b = (!unordered a b && !numLt (f32 a) (f32 b) && !numLt (f32 b) (f32 a), flagIf (signals a b) fNV) := by
  refine Prod.ext ?_ (by simp [compareF, signals])
  change (!unordered a b && decide (cmpKey a = cmpKey b)) = _
  cases h : unordered a b
  · rw [numLt_f32_of_ordered h, numLt_f32_of_ordered (unordered_comm a b ▸ h)]
    exact Bool.eq_iff_iff.2 (by simp; omega)
  · rfl

/-- `vfne`: unordered, or one below the other. -/
theorem compareF_ne (a b : Word) :
    compareF 1 a b = (unordered a b || numLt (f32 a) (f32 b) || numLt (f32 b) (f32 a), flagIf (signals a b) fNV) := by
  refine Prod.ext ?_ (by simp [compareF, signals])
  change (unordered a b || decide (cmpKey a ≠ cmpKey b)) = _
  cases h : unordered a b
  · rw [numLt_f32_of_ordered h, numLt_f32_of_ordered (unordered_comm a b ▸ h)]
    exact Bool.eq_iff_iff.2 (by simp)
  · rfl

/-- `vflt`: the first below the second; NV with any NaN. -/
theorem compareF_lt (a b : Word) : compareF 2 a b = (numLt (f32 a) (f32 b), flagIf (unordered a b) fNV) := by
  refine Prod.ext (numLt_f32 a b).symm ?_
  rw [← signals_or_unordered]
  simp [compareF, signals, unordered]

/-- `vfle`: ordered, and the second not below the first; NV with any NaN. -/
theorem compareF_le (a b : Word) :
    compareF 3 a b = (!unordered a b && !numLt (f32 b) (f32 a), flagIf (unordered a b) fNV) := by
  refine Prod.ext ?_ (by rw [← signals_or_unordered]; simp [compareF, signals, unordered])
  change (!unordered a b && decide (cmpKey a ≤ cmpKey b)) = _
  cases h : unordered a b
  · rw [numLt_f32_of_ordered (unordered_comm a b ▸ h)]
    exact Bool.eq_iff_iff.2 (by simp)
  · rfl

/-- `vfun`: unordered. -/
theorem compareF_un (a b : Word) : compareF 4 a b = (unordered a b, flagIf (signals a b) fNV) :=
  Prod.ext rfl (by simp [compareF, signals])

/-! ### What a compare answers where it acts -/

/-- The flags of the active lanes are those of the lanes' second components. -/
theorem laneFlags_congr (g : PReg) {l l' : List (Word × Flags)} (h : l.map Prod.snd = l'.map Prod.snd) :
    laneFlags g l = laneFlags g l' := by
  have snd : ∀ l : List (Word × Flags), laneFlags g l
      = (l.map Prod.snd).zipIdx.foldl (fun f e => if g.getLsbD e.2 then f ||| e.1 else f) 0 := fun l => by
    rw [List.zipIdx_map, List.foldl_map]
    rfl
  rw [snd, snd, h]

/-- The lanes of a compare: its relation as a word, and its flags. -/
def compareLanes (f : Word → Word → Bool × Flags) (a b : VReg) : List (Word × Flags) :=
  (List.range 64).map fun k => (wBool (f (lane a k) (lane b k)).1, (f (lane a k) (lane b k)).2)

/-- The predicate that a compare gives: the relation of each lane. -/
def compareBits (f : Word → Word → Bool × Flags) (a b : VReg) : PReg := ofPred fun k => (lget (0, 0) (compareLanes f a b) k).1 = 1

theorem getLsbD_compareBits (f : Word → Word → Bool × Flags) (a b : VReg) {k : Nat} (hk : k < 64) :
    (compareBits f a b).getLsbD k = (f (lane a k) (lane b k)).1 := by
  rw [compareBits, getLsbD_ofPred _ _ hk, lget_eq_getD]
  simp [compareLanes, hk, wBool]

/-- A compare puts the bit of each lane in flight with latency 2, merged under the guard, with the flags of its active lanes (R106). -/
theorem givesBits_of_vecCmp {i : Instr} {d : Nat} {f r : Word → Word → Bool × Flags} (hi : ∀ s, exec i s = vecCmp i d f s)
    (hr : ∀ a b, f a b = r a b) : GivesBits i d fun o k => r (lane o.va k) (lane o.vb k) := by
  obtain rfl : f = r := funext₂ hr
  intro s o t hs
  refine ⟨compareBits f o.va o.vb, fun k hk => getLsbD_compareBits f _ _ hk, ?_⟩
  rw [hi, vecCmp, present_acts hs rfl rfl rfl rfl rfl, laneFlags_congr _ (l' := compareLanes f o.va o.vb) (by simp [compareLanes])]
  rfl

/-! ### The words of the compares -/

/-- A word of major VA without a header reads as its operation, where that is legal (R16). -/
theorem decodeSlot_va {c g d a b : Nat} {i : Instr} (hc : c < 64) (hg : g < 16) (hd : d < 64) (ha : a < 64) (hb : b < 64)
    (hi : decVA c g d a b = some i) (hw : wellFormed i = true) :
    decodeSlot none (6 * 2 ^ 28 + g * 2 ^ 24 + c * 2 ^ 18 + d * 2 ^ 12 + a * 2 ^ 6 + b) = .ok i := by
  generalize hn : 6 * 2 ^ 28 + g * 2 ^ 24 + c * 2 ^ 18 + d * 2 ^ 12 + a * 2 ^ 6 + b = w
  have fmaj : w / 2 ^ 28 = 6 := by omega
  have fg : w / 2 ^ 24 % 16 = g := by omega
  have fc : w / 2 ^ 18 % 64 = c := by omega
  have fd : w / 2 ^ 12 % 64 = d := by omega
  have fa : w / 2 ^ 6 % 64 = a := by omega
  have fb : w % 64 = b := by omega
  have fz : w ≠ 0 := by omega
  have hraw : decodeRaw none w = some i := by
    simp [-Nat.reducePow, decodeRaw, fmaj, fg, fc, fd, fa, fb, fz, hi]
  simp [-Nat.reducePow, decodeSlot, fmaj, hraw, hw]

/-- What reads two vectors under a guard and writes a predicate is legal where its vectors are registers (R24). -/
theorem shVP_regsLegal {g d a b : Nat} (hg : g < 128) (hd : d < 128) (ha : a < 63) (hb : b < 63) :
    (shVP g d a b).regsLegal = true := by
  simp only [shVP, Shape.regsLegal, List.all_cons, List.all_nil]
  simp [hg, hd, Nat.le_of_lt_succ ha, Nat.le_of_lt_succ hb]

/-! ### A result for p0 (R24, R112) -/

/-- Clearing a register's poison leaves the CSRs alone. -/
@[simp] theorem Thread.cleanReg_csr (t : Thread) (r : Nat × Nat) (whole : Bool) : (t.cleanReg r whole).csr = t.csr := by
  cases whole <;> rfl

/-- A predicate result ORs its flags into VFLAGS as it lands (R45). -/
theorem vflags_landOne_p {s : State} {l : Landing} {n : Nat} {v m : PReg} (hl : l.dest = .p n v m) :
    (s.landOne l).core.th.csr.vflags = s.core.th.csr.vflags ||| l.flg := by
  rw [State.landOne, hl]
  cases l.bad <;> simp

/-- A predicate result writes its own register alone. -/
theorem sget_landOne_p {s : State} {l : Landing} {n j : Nat} {v m : PReg} (hl : l.dest = .p n v m) (hj : j ≠ n)
    (hw : swf 0 s.core.th.p = true) : sget 0 (s.landOne l).core.th.p j = sget 0 s.core.th.p j := by
  have hp : (s.landOne l).core.th.p = sset 0 s.core.th.p n ((sget 0 s.core.th.p n &&& ~~~m) ||| (v &&& m)) := by
    rw [State.landOne, hl]
    cases l.bad <;> simp
  rw [hp, sget_sset_other _ _ _ _ _ hj hw]

/-- A result for p0 changes no predicate as it is read: p0 reads as all ones (R24). -/
theorem rp_landOne_p0 {s : State} {l : Landing} {v m : PReg} (hl : l.dest = .p 0 v m) (hw : swf 0 s.core.th.p = true) (n : Nat) :
    (s.landOne l).core.th.rp n = s.core.th.rp n := by
  unfold Thread.rp
  split
  · rfl
  · next hn => exact sget_landOne_p hl hn hw

/-- Settles O33: each compare answers the lanes of its relation, which the keys of the words order as their exact values, its word
reads by the table of VA, and a result for p0 writes the one predicate that reads as all ones. -/
theorem vectorCompares : Obligations.VectorCompares := by
  intro g d a b x y un sig inv
  refine ⟨givesBits_of_vecCmp (fun _ => rfl) compareF_eq, givesBits_of_vecCmp (fun _ => rfl) compareF_ne,
    givesBits_of_vecCmp (fun _ => rfl) compareF_lt, givesBits_of_vecCmp (fun _ => rfl) compareF_le,
    givesBits_of_vecCmp (fun _ => rfl) compareF_un, ?_, ?_⟩
  · intro hg hd ha hb r hr
    have hw : (shVP g d a b).regsLegal = true := shVP_regsLegal (by omega) (by omega) ha hb
    have dec : ∀ c i, c < 64 → decVA c g d a b = some i → wellFormed i = true →
        decodeSlot none (6 * 2 ^ 28 + g * 2 ^ 24 + c * 2 ^ 18 + d * 2 ^ 12 + a * 2 ^ 6 + b) = .ok i :=
      fun c i hc => decodeSlot_va hc hg hd (by omega) (by omega)
    simp only [List.mem_cons, List.not_mem_nil, or_false] at hr
    rcases hr with rfl | rfl | rfl | rfl | rfl <;>
      exact dec _ _ (by norm_num) rfl (by rw [wellFormed]; exact (Bool.and_true _).trans hw)
  · intro s l v m hl hw
    exact ⟨rp_landOne_p0 hl hw, vflags_landOne_p hl⟩

end Sys2Proof.Machine
